-- ==== Sys2Proof/Word.lean ====
section
/-! DEFINITION. The words of the SV-240: the widths the manual fixes once and for all, and the plainest arithmetic
(saturation, rounding) its conventions name. -/

namespace Sys2Proof

/-- A byte. -/
abbrev Byte := BitVec 8

/-- A byte address of the 32-bit AXI address space (00, Numbers and addresses). -/
abbrev Addr := BitVec 32

/-- A timebase value: microseconds, wrapping at 2^32 (R150). -/
abbrev Time := BitVec 32

/-- A 16-bit register of a camera head, a ring index, a frame number, a link data value. -/
abbrev Half := BitVec 16

/-- Addition that saturates at `top` (00, Counters). -/
def satAdd (top a b : Nat) : Nat := min top (a + b)

/-- Round half up of a/b for non-negative integers (00, Fixed point and rounding). -/
def roundHalfUp (a b : Nat) : Nat := (2 * a + b) / (2 * b)

/-- `v` limited to `lo` below and `hi` above. -/
def clampNat (lo hi v : Nat) : Nat := max lo (min hi v)

/-- One side of the cab (00, Sides and scopes): side 0 is LEFT, side 1 is RIGHT. -/
inductive SideId where
  | left
  | right
  deriving DecidableEq, Repr

/-- The other side. -/
def SideId.other : SideId → SideId
  | .left => .right
  | .right => .left

end Sys2Proof
end

