-- ==== Sys2Proof/Syntax.lean ====
section
/-! DEFINITION. The commands of the SV-240: one constructor of Instr for each row of spec/opcode_table.json, with the
operands the rule of the row needs. The table gives no fields, so the operands are the model's reading of the rules. -/

namespace Sys2Proof

/-- Burst type (R172). -/
inductive BurstType where
  | fixed
  | incr
  | wrap
  deriving DecidableEq, Repr

/-- Beat size S: 1, 2, 4 or 8 bytes (R172). -/
inductive BeatSize where
  | one
  | two
  | four
  | eight
  deriving DecidableEq, Repr

/-- S in bytes. -/
def BeatSize.bytes : BeatSize → Nat
  | .one => 1
  | .two => 2
  | .four => 4
  | .eight => 8

/-- The address channel of one upstream burst (R170, R172). `lenM1` is AxLEN, the number of beats less one, and
`attrs` stands for AxLOCK, AxCACHE, AxPROT, AxQOS and AxREGION, which the part carries unchanged
(PRESUMED AXI4 encodings, log 7). -/
structure Burst where
  id : BitVec 8
  addr : Addr
  lenM1 : BitVec 8
  size : BeatSize
  kind : BurstType
  attrs : BitVec 16
  deriving DecidableEq, Repr

/-- LEN in beats, 1 to 256. -/
def Burst.len (b : Burst) : Nat := b.lenM1.toNat + 1

/-- An AXI4 response code. -/
inductive Resp where
  | okay
  | exokay
  | slverr
  | decerr
  deriving DecidableEq, Repr

/-- EXOKAY counts as OKAY, and SLVERR and DECERR count as errors (R170). -/
def Resp.isError : Resp → Bool
  | .okay => false
  | .exokay => false
  | .slverr => true
  | .decerr => true

/-- A character as received on CTL: its eight data bits, its mark bit and its stop bit as sampled (R134, R135). -/
structure RxChar where
  data : Byte
  mark : Bool
  stop : Bool
  deriving DecidableEq, Repr

/-- The commands, in the order of spec/opcode_table.json. -/
inductive Instr where
  /-- WRITE_BURST_TAKEN: the interconnect presents a write address. -/
  | writeBurstTaken (b : Burst)
  /-- WRITE_DATA_BEAT_TAKEN: the interconnect presents a write data beat, 64 bits and 8 strobes. -/
  | writeDataBeatTaken (data : BitVec 64) (strb : BitVec 8)
  /-- READ_BURST_TAKEN: the interconnect presents a read address. -/
  | readBurstTaken (b : Burst)
  /-- SETTINGS_WRITE: the settings snoop is handed a beat at a block offset. -/
  | settingsWrite (off : BitVec 12) (data : BitVec 64) (strb : BitVec 8)
  /-- GLOBAL_APPLY: a write that strobes bytes of the GLOBAL_APPLY word. -/
  | globalApply (value : BitVec 32) (strb : BitVec 4)
  /-- APPLY: a write that strobes bytes of a side's APPLY word. -/
  | apply (d : SideId) (value : BitVec 32) (strb : BitVec 4)
  /-- RING_READ: a write that strobes bytes of the RING_READ field. -/
  | ringRead (value : BitVec 16) (strb : BitVec 2)
  /-- POWER_ON: CMD_SEQ written with CMD_CODE 1 and the argument. -/
  | powerOn (arg : BitVec 16) (sq : BitVec 32)
  /-- POWER_OFF: CMD_SEQ written with CMD_CODE 2 and the argument. -/
  | powerOff (arg : BitVec 16) (sq : BitVec 32)
  /-- RECOVER: CMD_SEQ written with CMD_CODE 3 and the argument. -/
  | recover (arg : BitVec 16) (sq : BitVec 32)
  /-- ACK_FAULTS: CMD_SEQ written with CMD_CODE 4 and the argument. -/
  | ackFaults (arg : BitVec 16) (sq : BitVec 32)
  /-- UNKNOWN_COMMAND: CMD_SEQ written with a CMD_CODE of 0 or 5 to 255. -/
  | unknownCommand (code : Byte) (arg : BitVec 16) (sq : BitVec 32)
  /-- MAILBOX_SUBMISSION: a slot's TAG byte written. -/
  | mailboxSubmission (slot : Fin 6) (tag : Byte)
  /-- HELD_LINE0_WRITE_TAKEN: the held write address is released. -/
  | heldLine0WriteTaken
  /-- HELD_FRAME_START_TAKEN: the held display frame start is released. -/
  | heldFrameStartTaken
  /-- DOWNSTREAM_WRITE_GRANT: the arbiter grants a waiting burst. -/
  | downstreamWriteGrant
  /-- DOWNSTREAM_WRITE_RESPONSE: a write response with downstream ID 0 ++ id arrives. -/
  | downstreamWriteResponse (id : BitVec 8) (resp : Resp)
  /-- DOWNSTREAM_READ_DATA: a read data beat with downstream ID 0 ++ id arrives. -/
  | downstreamReadData (id : BitVec 8) (data : BitVec 64) (resp : Resp)
  /-- FRAME_MISSING: a side's frame watchdog expires. -/
  | frameMissing (d : SideId)
  /-- DISPLAY_IDLE: a side's display watchdog expires. -/
  | displayIdle (d : SideId)
  /-- STABILIZATION_EXPIRY: a side's stage timer expires in STABILIZING. -/
  | stabilizationExpiry (d : SideId)
  /-- OFF_DWELL_EXPIRY: a side's stage timer expires in RECOVERING. -/
  | offDwellExpiry (d : SideId)
  /-- RAISE_STEP_EXPIRY: a sequencer's step timer expires during a raise. -/
  | raiseStepExpiry (d : SideId)
  /-- LOWER_STEP_EXPIRY: a sequencer's step timer expires during a lower. -/
  | lowerStepExpiry (d : SideId)
  /-- LAMPS_LEVEL_CHANGE: the LAMPS pin takes a level. -/
  | lampsLevelChange (level : Bool)
  /-- LAMP_MEASUREMENT_EXPIRY: the lamp measurement reaches 20,000 µs. -/
  | lampMeasurementExpiry
  /-- RAMP_TICK: the ramp timer ticks. -/
  | rampTick
  /-- PWM_PERIOD_START: a new PWM period begins. -/
  | pwmPeriodStart
  /-- REQUEST_SENT: the sixth request character ends. -/
  | requestSent
  /-- CANCELLED_CHARACTER_END: the character being sent at a cancellation ends. -/
  | cancelledCharacterEnd
  /-- RESPONSE_RECEIVED: the fourth response character completes. -/
  | responseReceived (c : RxChar)
  /-- NO_ANSWER: silence lasts LINK_TIMEOUT character times. -/
  | noAnswer
  /-- GUARD_END: the guard of two character times passes. -/
  | guardEnd
  /-- RING_RECORD_ISSUE: the injector issues a ring record. -/
  | ringRecordIssue
  /-- SECTION_ISSUE: the injector issues a status section. -/
  | sectionIssue
  /-- RING_RECORD_RESPONSE: the response to a ring record arrives. -/
  | ringRecordResponse (resp : Resp)
  /-- SECTION_RESPONSE: the response to a section arrives. -/
  | sectionResponse (resp : Resp)
  /-- RESET_ASSERTION: RESET_N goes low. -/
  | resetAssertion
  /-- RESET_RELEASE: RESET_N goes high with the ANCHOR pins at these levels. -/
  | resetRelease (anchor : BitVec 2)
  /-- START_EDGE: CTL falls while the part listens; `low` is the level's sample half a bit time later (log 18). -/
  | startEdge (low : Bool)
  /-- RESPONSE_CHARACTER_COMPLETE: the first, second or third response character completes. -/
  | responseCharacterComplete (c : RxChar)
  /-- PWM_HIGH_TIME_END: a backlight output falls within its period. -/
  | pwmHighTimeEnd (d : SideId)
  deriving DecidableEq, Repr

end Sys2Proof
end

