-- ==== Sys2Proof/Config.lean ====
section
/-! DEFINITION. What is fixed for the machine: the constants the manual states, and the one free value of the model. -/

namespace Sys2Proof.Config

/-- Which of several events that are due at one time comes first. The manual gives either order (R19, R22, R102,
R105 and others), so nothing is known of it: it is applied to a counter of State (log 4). -/
opaque freeChoice : Nat → Nat

/-- REFCLK periods in one microsecond of the timebase (R150). -/
abbrev refPerMicro : Nat := 25

/-- Bursts per direction that may await their upstream response (R171). -/
abbrev maxBursts : Nat := 32

/-- Reports the pending report queue holds (R158). -/
abbrev maxReports : Nat := 16

/-- Pass-through writes an injected burst waits through (R180). -/
abbrev maxWait : Nat := 4

/-- How long the lamp level must differ from the lamp state, in microseconds (R76). -/
abbrev lampMicros : Nat := 20000

/-- Largest linear value (00, Linear values and saturation). -/
abbrev linMax : Nat := 1048575

/-- Largest developed value and tone node (R35, R45). -/
abbrev toneMax : Nat := 1023

/-- Gain 1.0 in 8 fraction bits (00, Fixed point and rounding). -/
abbrev unity : Nat := 256

/-- Largest value of a saturating 16-bit counter. -/
abbrev max16 : Nat := 65535

/-- Largest value of a saturating 32-bit counter. -/
abbrev max32 : Nat := 4294967295

/-- Bytes of the pending image: the global area, both side areas and the mailbox area (R182, R183). -/
abbrev imageBytes : Nat := 0xA60

end Sys2Proof.Config
end

