-- ==== Sys2Proof/Machine/Layout.lean ====
section
/-! DEFINITION. The layout of the settings block (R182, R183, R189): areas, the fields that act when they are written,
and the default value of every field that has one. -/

namespace Sys2Proof.Machine

/-- Base of the settings block for each value of ANCHOR[1:0] (R182). -/
def blockBase (anchor : BitVec 2) : Addr :=
  match anchor.toNat with
  | 0 => 0x3FFFF000#32
  | 1 => 0x7FFFF000#32
  | 2 => 0xBFFFF000#32
  | _ => 0xFFFFF000#32

/-- Offset of a side's area from the base (R182). -/
def sideArea : SideId → Nat
  | .left => 0x200
  | .right => 0x600

/-- Offset of a mailbox slot (R189). -/
def slotOff (n : Nat) : Nat := 0xA00 + 16 * n

/-- Offset of the TAG byte of a mailbox slot (R189). -/
def tagOff (n : Nat) : Nat := slotOff n + 8

/-- Whether a byte offset of the block belongs to a field that acts when a beat strobes it (R183). -/
def isActionByte (o : Nat) : Bool :=
  o < 0x006 || (0x008 ≤ o && o < 0x00C) || (0x200 ≤ o && o < 0x204) || (0x600 ≤ o && o < 0x604) ||
    (List.range 6).any fun n => o == tagOff n

/-- The byte offsets a settings beat at `off` strobes. -/
def strobedOffsets (off : Nat) (strb : BitVec 8) : List Nat :=
  (List.range 8).filterMap fun k => if strb.getLsbD k then some (off + k) else none

/-- One field of a layout: its offset, its width in bytes and its value. -/
structure FieldVal where
  off : Nat
  width : Nat
  val : Nat
  deriving DecidableEq, Repr

/-- Byte `k` of a number, least significant byte 0 (multi-byte fields are little-endian). -/
def byteOf (v k : Nat) : Byte := BitVec.ofNat 8 (v / 256 ^ k)

/-- The byte that a list of fields gives at offset `o`: the byte of the field that covers it, else 0 (R189). -/
def byteAt (fs : List FieldVal) (o : Nat) : Byte :=
  match fs.find? fun f => f.off ≤ o && o < f.off + f.width with
  | some f => byteOf f.val (o - f.off)
  | none => 0

/-- The default curve's node N_e = round half up (1023 · e / 20) (R45). -/
def defaultNode (e : Nat) : Nat := roundHalfUp (Config.toneMax * e) 20

/-- Defaults of the global area (R189). -/
def globalDefaults : List FieldVal :=
  [⟨0x015, 1, 2⟩, ⟨0x016, 1, 3⟩,
   ⟨0x018, 1, 2⟩, ⟨0x019, 1, 3⟩, ⟨0x01A, 1, 1⟩, ⟨0x01B, 1, 3⟩, ⟨0x01C, 1, 1⟩, ⟨0x01D, 1, 2⟩,
   ⟨0x020, 1, 13⟩, ⟨0x021, 1, 8⟩, ⟨0x022, 1, 1⟩,
   ⟨0x030, 2, 1000⟩, ⟨0x032, 2, 1000⟩, ⟨0x034, 2, 600⟩, ⟨0x036, 2, 250⟩, ⟨0x038, 2, 400⟩,
   ⟨0x03A, 1, 1⟩, ⟨0x03B, 1, 10⟩]

/-- Default address of a side's head (R133). -/
def defaultCamAddr : SideId → Nat
  | .left => 0x11
  | .right => 0x12

/-- Defaults of a side area, by offset within the area (R189 with R1, R26, R44, R52, R63, R72, R82, R110, R133). -/
def sideDefaults (d : SideId) : List FieldVal :=
  [⟨0x014, 2, 1920⟩, ⟨0x016, 2, 1080⟩, ⟨0x018, 2, 3840⟩,
   ⟨0x030, 4, 100000⟩, ⟨0x034, 1, 3⟩, ⟨0x035, 1, 8⟩, ⟨0x036, 1, 2⟩,
   ⟨0x040, 2, 1024⟩, ⟨0x042, 2, 2048⟩, ⟨0x044, 2, 3072⟩,
   ⟨0x046, 1, 0⟩, ⟨0x047, 1, 2⟩, ⟨0x048, 1, 4⟩, ⟨0x049, 1, 6⟩, ⟨0x04A, 2, 256⟩,
   ⟨0x04C, 2, 256⟩, ⟨0x04E, 2, 256⟩, ⟨0x050, 2, 256⟩, ⟨0x052, 2, 256⟩, ⟨0x054, 4, 16384⟩,
   ⟨0x058, 2, 0⟩, ⟨0x05A, 2, 1920⟩, ⟨0x05C, 2, 0⟩, ⟨0x05E, 2, 1080⟩,
   ⟨0x062, 2, 16⟩, ⟨0x064, 1, 64⟩, ⟨0x065, 1, 4⟩]
  ++ (List.range 21).map (fun e => ⟨0x066 + 2 * e, 2, defaultNode e⟩)
  ++ [⟨0x092, 2, 160⟩, ⟨0x094, 1, 4⟩, ⟨0x095, 1, 2⟩, ⟨0x096, 1, 2⟩,
   ⟨0x098, 2, 1000⟩, ⟨0x09A, 2, 4⟩, ⟨0x09C, 2, 60000⟩, ⟨0x09E, 2, 0x3012⟩,
   ⟨0x0A0, 2, 64⟩, ⟨0x0A2, 2, 32⟩, ⟨0x0A4, 1, 2⟩, ⟨0x0A5, 1, 32⟩, ⟨0x0A6, 1, 16⟩, ⟨0x0A7, 1, 4⟩,
   ⟨0x0A8, 2, 64⟩,
   ⟨0x0B0, 2, 340⟩, ⟨0x0B2, 2, 320⟩, ⟨0x0B4, 2, 260⟩, ⟨0x0B6, 2, 240⟩, ⟨0x0B8, 1, 30⟩, ⟨0x0B9, 1, 16⟩,
   ⟨0x0C0, 1, 3⟩, ⟨0x0C4, 4, 50000⟩, ⟨0x0C8, 4, 100000⟩,
   ⟨0x0D1, 1, 1⟩, ⟨0x0D2, 1, 3⟩, ⟨0x0D3, 1, 30⟩, ⟨0x0D4, 1, 3⟩,
   ⟨0x0D6, 2, 900⟩, ⟨0x0D8, 2, 50⟩, ⟨0x0DA, 2, 200⟩, ⟨0x0DC, 2, 500⟩, ⟨0x0DE, 2, 500⟩,
   ⟨0x0E4, 1, defaultCamAddr d⟩]

/-- What a byte of the pending image reads as when nothing has been written to it since reset: the default of its field
(R183, R189); and 0 where the layout gives no default, in GLOBAL_APPLY, in the APPLY words and where no field lies, which
no meaning reads (log 38). -/
def imageDefault (o : Nat) : Byte :=
  if o < 0x200 then byteAt globalDefaults o
  else if o < 0x600 then byteAt (sideDefaults .left) (o - 0x200)
  else if o < 0xA00 then byteAt (sideDefaults .right) (o - 0x600)
  else 0

end Sys2Proof.Machine
end

