-- ==== Sys2Proof/Machine/Table.lean ====
section
/-! DEFINITION. A table of a fixed number of like entries: a list with its length, so that a buffer table of three, a
curve of 21 nodes or a tile table of 128 cannot have another size. -/

namespace Sys2Proof.Machine

/-- `n` entries, indexed 0 to n − 1. -/
structure Table (α : Type) (n : Nat) where
  list : List α
  len : list.length = n
  deriving DecidableEq, Repr

/-- Every entry the same. -/
def Table.const {α : Type} (n : Nat) (a : α) : Table α n := ⟨List.replicate n a, List.length_replicate⟩

/-- Entry k given by a function of k. -/
def Table.ofFn {α : Type} (n : Nat) (f : Nat → α) : Table α n :=
  ⟨(List.range n).map f, (List.length_map _).trans List.length_range⟩

/-- Entry `i`, or `d` where the table has no entry `i`. -/
def Table.get {α : Type} {n : Nat} (t : Table α n) (i : Nat) (d : α) : α := t.list.getD i d

/-- The table with entry `i` replaced. -/
def Table.set {α : Type} {n : Nat} (t : Table α n) (i : Nat) (a : α) : Table α n :=
  ⟨t.list.set i a, List.length_set.trans t.len⟩

/-- Every entry changed alike. -/
def Table.map {α β : Type} {n : Nat} (f : α → β) (t : Table α n) : Table β n :=
  ⟨t.list.map f, (List.length_map _).trans t.len⟩

end Sys2Proof.Machine
end

