-- ==== Sys2Proof/Machine/State.lean ====
section
/-! DEFINITION. The state of the SV-240 as plain data: every piece of state the manual names, and State.reset, the part
right after reset release. INVENTORY.md lists each field with its rule. -/

namespace Sys2Proof.Machine

/-! ## Active settings -/

/-- Capture settings and frame geometry of a side (R1). -/
structure CaptureCfg where
  capCode : Addr
  capMask : Addr
  dispCode : Addr
  dispMask : Addr
  width : Nat
  height : Nat
  pitch : Nat
  bufBase : Table Addr 3
  fallback : Addr
  frameTimeout : Nat
  missingLimit : Nat
  freezeLimit : Nat
  shortTolerance : Nat
  deriving DecidableEq, Repr

/-- Development settings of a side (R26). -/
structure DevCfg where
  knee1 : Nat
  knee2 : Nat
  knee3 : Nat
  shift0 : Nat
  shift1 : Nat
  shift2 : Nat
  shift3 : Nat
  black : Nat
  gain00 : Nat
  gain01 : Nat
  gain10 : Nat
  gain11 : Nat
  glareKnee : Nat
  roiX0 : Nat
  roiX1 : Nat
  roiY0 : Nat
  roiY1 : Nat
  deriving DecidableEq, Repr

/-- Tone settings of a side (R44); `host` is TONE_MODE HOST. -/
structure ToneCfg where
  host : Bool
  blackFloor : Nat
  clip : Nat
  alpha : Nat
  hostNodes : Table Nat 21
  deriving DecidableEq, Repr

/-- Exposure settings of a side (R52); `manual` is AE_MODE MANUAL. -/
structure ExpoCfg where
  manual : Bool
  target16 : Nat
  deadband : Nat
  aeGain : Nat
  settle : Nat
  eInit : Nat
  eMin : Nat
  eMax : Nat
  expoReg : Half
  deriving DecidableEq, Repr

/-- Glare settings of a side (R63). -/
structure GlareCfg where
  enterCount : Nat
  exitCount : Nat
  onsetFrames : Nat
  rampDown : Nat
  rampUp : Nat
  releaseHold : Nat
  aMin : Nat
  deriving DecidableEq, Repr

/-- Scene settings of a side (R72). -/
structure SceneCfg where
  duskExit : Nat
  duskEnter : Nat
  nightExit : Nat
  nightEnter : Nat
  persist : Nat
  lampBias : Nat
  deriving DecidableEq, Repr

/-- Display settings of a side (R82). -/
structure DispCfg where
  staleLimit : Nat
  latencyLimit : Nat
  displayTimeout : Nat
  deriving DecidableEq, Repr

/-- Head settings of a side (R110, and CAM_ADDR of R133). Bits 0 to 2 of the bypass fields are EN1 to EN3. -/
structure HeadCfg where
  autoStart : Bool
  autoRecover : Bool
  recoverMax : Nat
  recoverClear : Nat
  degradeClear : Nat
  linkFailLimit : Nat
  stabMs : Nat
  offDwellMs : Nat
  delay12 : Nat
  delay23 : Nat
  idReg : Half
  idExpect : Half
  camAddr : Nat
  bypEn : BitVec 3
  bypVal : BitVec 3
  deriving DecidableEq, Repr

/-- The active settings of a side. -/
structure SideCfg where
  cap : CaptureCfg
  dev : DevCfg
  tone : ToneCfg
  expo : ExpoCfg
  glare : GlareCfg
  scene : SceneCfg
  disp : DispCfg
  head : HeadCfg
  deriving DecidableEq, Repr

/-- The active global settings (R72, R99, R133, R152). -/
structure GlobalCfg where
  ringBase : Nat
  ringSize : Nat
  attnLevel : Nat
  faultPinLevel : Nat
  lampPol : Bool
  levelCapture : Nat
  levelDisplay : Nat
  levelCamera : Nat
  levelHealth : Nat
  levelSettings : Nat
  levelPath : Nat
  linkDivisor : Nat
  linkTimeout : Nat
  linkRetries : Nat
  blPeriod : Nat
  blDay : Nat
  blDusk : Nat
  blNight : Nat
  blFailMin : Nat
  rampCode : Nat
  rampStep : Nat
  bypL : Bool
  bypR : Bool
  bypDutyL : Nat
  bypDutyR : Nat
  deriving DecidableEq, Repr

/-- The default tone curve (R45). -/
def defaultCurve : Table Nat 21 := Table.ofFn 21 defaultNode

/-- The default settings of a side (R1, R26, R44, R52, R63, R72, R82, R110, R133). -/
def SideCfg.default (d : SideId) : SideCfg where
  cap :=
    { capCode := 0, capMask := 0, dispCode := 0, dispMask := 0, width := 1920, height := 1080, pitch := 3840,
      bufBase := Table.const 3 0, fallback := 0, frameTimeout := 100000, missingLimit := 3, freezeLimit := 8,
      shortTolerance := 2 }
  dev :=
    { knee1 := 1024, knee2 := 2048, knee3 := 3072, shift0 := 0, shift1 := 2, shift2 := 4, shift3 := 6, black := 256,
      gain00 := 256, gain01 := 256, gain10 := 256, gain11 := 256, glareKnee := 16384, roiX0 := 0, roiX1 := 1920,
      roiY0 := 0, roiY1 := 1080 }
  tone := { host := false, blackFloor := 16, clip := 64, alpha := 4, hostNodes := defaultCurve }
  expo :=
    { manual := false, target16 := 160, deadband := 4, aeGain := 2, settle := 2, eInit := 1000, eMin := 4,
      eMax := 60000, expoReg := 0x3012 }
  glare :=
    { enterCount := 64, exitCount := 32, onsetFrames := 2, rampDown := 32, rampUp := 16, releaseHold := 4, aMin := 64 }
  scene := { duskExit := 340, duskEnter := 320, nightExit := 260, nightEnter := 240, persist := 30, lampBias := 16 }
  disp := { staleLimit := 3, latencyLimit := 50000, displayTimeout := 100000 }
  head :=
    { autoStart := false, autoRecover := true, recoverMax := 3, recoverClear := 900, degradeClear := 30,
      linkFailLimit := 3, stabMs := 50, offDwellMs := 200, delay12 := 500, delay23 := 500, idReg := 0, idExpect := 0,
      camAddr := defaultCamAddr d, bypEn := 0, bypVal := 0 }

/-- The default global settings (R72, R99, R133, R152). -/
def GlobalCfg.default : GlobalCfg where
  ringBase := 0
  ringSize := 0
  attnLevel := 2
  faultPinLevel := 3
  lampPol := false
  levelCapture := 2
  levelDisplay := 3
  levelCamera := 1
  levelHealth := 3
  levelSettings := 1
  levelPath := 2
  linkDivisor := 13
  linkTimeout := 8
  linkRetries := 1
  blPeriod := 1000
  blDay := 1000
  blDusk := 600
  blNight := 250
  blFailMin := 400
  rampCode := 1
  rampStep := 10
  bypL := false
  bypR := false
  bypDutyL := 0
  bypDutyR := 0

/-! ## Frames, buffers and statistics -/

/-- The accepted outcomes of a frame (R14). -/
inductive FrameOutcome where
  | complete
  | acceptedShort
  deriving DecidableEq, Repr

/-- What a READY or SHOWN buffer record holds of its frame (R19). -/
structure FrameInfo where
  number : Half
  completed : Time
  signature : BitVec 32
  outcome : FrameOutcome
  deriving DecidableEq, Repr

/-- A buffer record: its state, and its frame where it is READY or SHOWN (R19). -/
inductive Buf where
  | free
  | filling
  | ready (f : FrameInfo)
  | shown (f : FrameInfo)
  deriving DecidableEq, Repr

/-- The frame-in-progress record (R5). -/
structure Fip where
  buf : Nat
  lines : Nat
  highest : Nat
  writeError : Bool
  outstanding : Nat
  closing : Bool
  start : Time
  deriving DecidableEq, Repr

/-- The capture tracker of a side (R19, R5, R21, R16, R23). -/
structure Capture where
  bufs : Table Buf 3
  fip : Option Fip
  watchdog : Option Time
  expiries : Nat
  prevSig : Option (BitVec 32)
  identical : Nat
  frameNumber : Half
  accepted : Nat
  dropped : Nat
  deriving DecidableEq, Repr

/-- Scene states, darkest last (R73, R80). -/
inductive Scene where
  | day
  | dusk
  | night
  deriving DecidableEq, Repr

/-- A statistics record (R37). -/
structure Stats where
  hist : Table Nat 20
  total : Nat
  hot : Table Nat 128
  signature : BitVec 32
  partials : Nat
  sceneAtStart : Scene
  deriving DecidableEq, Repr

/-- The frame snapshot (R30). -/
structure Snapshot where
  nodes : Table Nat 21
  gains : Table Nat 128
  deriving DecidableEq, Repr

/-- The statistics collector and the pipeline's snapshot (R30, R37, R42). -/
structure Collector where
  acc : Option Stats
  last : Option Stats
  snap : Snapshot
  deriving DecidableEq, Repr

/-! ## Tone, exposure, glare, scene, display -/

/-- The exposure unit (R53). -/
structure Exposure where
  confirmed : Nat
  settle : Nat
  request : Bool
  m16 : Nat
  aeHeld : Nat
  deriving DecidableEq, Repr

/-- Tile states (R64). -/
inductive TileState where
  | clear
  | onset
  | dimmed
  | release
  deriving DecidableEq, Repr

/-- A tile record (R64). -/
structure Tile where
  state : TileState
  hold : Nat
  gain : Nat
  deriving DecidableEq, Repr

/-- The scene monitor (R73). -/
structure SceneMon where
  state : Scene
  candidate : Option Scene
  persist : Nat
  key : Nat
  deriving DecidableEq, Repr

/-- The display redirector (R83); its held frame start is `Path.heldRead`. -/
structure Display where
  repeats : Nat
  outstanding : Nat
  watchdog : Option Time
  expired : Bool
  lastAge : BitVec 32
  deriving DecidableEq, Repr

/-! ## Head -/

/-- Health states, numbered in this order (R111, R189). -/
inductive Health where
  | off
  | powering
  | stabilizing
  | probing
  | running
  | degraded
  | failed
  | recovering
  | stopping
  deriving DecidableEq, Repr

/-- A running timer: where it started and how long it runs, in microseconds. -/
structure Timer where
  start : Time
  len : Nat
  deriving DecidableEq, Repr

/-- The head controller (R111). -/
structure Head where
  health : Health
  cause : Nat
  attempts : Nat
  goodFrames : Nat
  runCount : Nat
  streak : Nat
  stageTimer : Option Timer
  awaitingLower : Bool
  deriving DecidableEq, Repr

/-- Sequencer states, numbered in this order (R126, R189). -/
inductive SeqState where
  | low
  | raising
  | high
  | lowering
  deriving DecidableEq, Repr

/-- The power sequencer (R126); the sequence levels are those the step counts. -/
structure Sequencer where
  state : SeqState
  step : Nat
  timer : Option Timer
  deriving DecidableEq, Repr

/-- Everything that exists once for LEFT and once for RIGHT. -/
structure Side where
  cfg : SideCfg
  configured : Bool
  deferred : Bool
  reject : Nat
  cap : Capture
  coll : Collector
  tone : Table Nat 21
  expo : Exposure
  tiles : Table Tile 128
  scene : SceneMon
  disp : Display
  head : Head
  seq : Sequencer
  deriving DecidableEq, Repr

/-! ## Lamps and backlight -/

/-- The LAMPS pin, the lamp state and the measurement in progress (R76). -/
structure Lamp where
  pin : Bool
  on : Bool
  measure : Option Time
  deriving DecidableEq, Repr

/-- One backlight output (R100); `high` is the level of its pin. -/
structure Monitor where
  cur : Nat
  target : Nat
  out : Nat
  high : Bool
  deriving DecidableEq, Repr

/-- The backlight unit (R100). -/
structure Backlight where
  running : Bool
  left : Monitor
  right : Monitor
  periodStart : Time
  periodLen : Nat
  rampTimer : Option Time
  deriving DecidableEq, Repr

/-! ## Control link -/

/-- Line states (R139). -/
inductive LineState where
  | idle
  | guard
  | sending
  | awaiting
  | receiving
  | draining
  deriving DecidableEq, Repr

/-- Kind of a link entry, with the slot and TAG that a MAILBOX entry alone has (R142). -/
inductive EntryKind where
  | probe
  | exposure
  | mailbox (slot : Fin 6) (tag : Byte)
  deriving DecidableEq, Repr

/-- A link entry (R142). -/
structure LinkEntry where
  kind : EntryKind
  side : SideId
  read : Bool
  reg : Half
  data : Half
  attempts : Nat
  deriving DecidableEq, Repr

/-- Outcome of a mailbox result, numbered in this order (R147, R189). -/
inductive MailOutcome where
  | none
  | pending
  | done
  | refusedState
  | busy
  | noAnswer
  | badCheck
  | camRefused
  | cancelled
  deriving DecidableEq, Repr

/-- A slot's result (R147). -/
structure MailResult where
  tag : Byte
  outcome : MailOutcome
  data : Half
  deriving DecidableEq, Repr

/-- The link controller (R134 to R149). Times here are REFCLK periods since reset release, modulo 25 · 2^32.
`divisor` and `timeout` are those taken when the transaction began; `receiving` is the start edge of the character
being received; `silence` is where the running silence interval of R138 began; `cutAt` is how many periods after
`txStart` the character being sent at a cancellation ends. -/
structure Link where
  line : LineState
  inFlight : Option LinkEntry
  waiting : List LinkEntry
  divisor : Nat
  timeout : Nat
  txStart : Nat
  request : List Byte
  chars : List RxChar
  receiving : Option Nat
  silence : Option Nat
  cutAt : Option Nat
  guardStart : Nat
  results : Table MailResult 6
  deriving DecidableEq, Repr

/-! ## Faults and reports -/

/-- The 21 fault kinds in natural order (R151). -/
inductive FaultKind where
  | frameMissing
  | lineShortfall
  | lineOrder
  | orphanWrite
  | partialPixel
  | cameraFrozen
  | viewStale
  | viewLate
  | displayIdle
  | aliasWrite
  | linkNoAnswer
  | linkBadCheck
  | linkRefused
  | probeFailed
  | sideFailed
  | sideDegraded
  | recoveryExhausted
  | configRejected
  | splitBurst
  | downstreamError
  | reportPath
  deriving DecidableEq, Repr

/-- Scopes (00, Sides and scopes). -/
inductive Scope where
  | left
  | right
  | global
  deriving DecidableEq, Repr

/-- A fault table record: `flag` is the active flag of a condition or the event latch of an event (R153). -/
structure FaultRec where
  flag : Bool
  count : Nat
  first : Option Time
  last : Option Time
  deriving DecidableEq, Repr

/-- Report types, numbered in this order; OVERFLOW is the type of the injector's own record (R157, R163, R189). -/
inductive ReportType where
  | raise
  | clear
  | event
  deriving DecidableEq, Repr

/-- A report (R157). -/
structure Report where
  kind : FaultKind
  scope : Scope
  type : ReportType
  level : Nat
  time : Time
  first : Time
  count : Nat
  detail : BitVec 32
  frame : Half
  deriving DecidableEq, Repr

/-- The fault unit (R153, R158, R159), with what FAULT_N has done: every level it has changed to, in order, true where it
was asserted (R168; log 32). -/
structure FaultUnit where
  table : Table FaultRec 40
  queue : List Report
  lost : Nat
  edges : List Bool
  deriving DecidableEq, Repr

/-! ## Memory path and injector -/

/-- A data beat with its strobes. -/
structure Beat where
  data : BitVec 64
  strb : BitVec 8
  deriving DecidableEq, Repr

/-- The four sections of the status page, in the order they are issued (R162, R165). -/
inductive PageId where
  | global
  | faults
  | left
  | right
  deriving DecidableEq, Repr

/-- What an injected burst in flight carries. For a ring record: whether it is an OVERFLOW record, the lost count it
carries, its level, and whether the ring it was issued to has been reconfigured since (R161, R163). -/
inductive InjKind where
  | ringRecord (overflow : Bool) (carried : Nat) (level : Nat) (stale : Bool)
  | page (p : PageId)
  deriving DecidableEq, Repr

/-- The injected burst in flight (R162). -/
structure InjBurst where
  kind : InjKind
  addr : Addr
  beats : List Beat
  granted : Bool
  deriving DecidableEq, Repr

/-- The report injector (R160 to R167). -/
structure Injector where
  w : Half
  r : Half
  seq : BitVec 32
  serving : Bool
  flagGlobal : Bool
  flagFaults : Bool
  flagLeft : Bool
  flagRight : Bool
  inflight : Option InjBurst
  attn : Bool
  deriving DecidableEq, Repr

/-- An address channel as the part sends it downstream: a 9-bit ID, the rest as in Burst (R170). -/
structure DownBurst where
  id : BitVec 9
  addr : Addr
  lenM1 : BitVec 8
  size : BeatSize
  kind : BurstType
  attrs : BitVec 16
  deriving DecidableEq, Repr

/-- What the part sends on the downstream port. -/
inductive DownMsg where
  | writeAddr (b : DownBurst)
  | writeData (b : Beat) (last : Bool)
  | readAddr (b : DownBurst)
  deriving DecidableEq, Repr

/-- A read data beat as it goes upstream. -/
structure RBeat where
  data : BitVec 64
  resp : Resp
  last : Bool
  deriving DecidableEq, Repr

/-- What the part sends on the upstream port. -/
inductive UpMsg where
  | writeResp (id : BitVec 8) (resp : Resp)
  | readData (id : BitVec 8) (beat : RBeat)
  deriving DecidableEq, Repr

/-- What becomes of the write burst whose beats are being taken: passed through, absorbed, or redirected to a frame
buffer at this downstream address with this offset (R170, R176, R177). -/
inductive WRoute where
  | pass
  | absorbed
  | capture (d : SideId) (addr : Addr) (off : Nat)
  deriving DecidableEq, Repr

/-- The write burst whose address has been taken and which still holds the write channel (R171, R180). `beats` are
the beats collected of a capture write, and after its last beat the developed beats; `discarded` is set when
teardown discards its frame (R176). -/
structure CurWrite where
  burst : Burst
  route : WRoute
  beats : List Beat
  taken : Nat
  granted : Bool
  discarded : Bool
  deriving DecidableEq, Repr

/-- Where the response of a taken write burst comes from (R178): downstream for a passed-through burst or a redirected
capture write, whose frame is in progress while `live`; else the part. -/
inductive WOwner where
  | pass
  | part
  | capture (d : SideId) (live : Bool)
  deriving DecidableEq, Repr

/-- An entry of a write response order list (R178). `parts` are the downstream addresses sent and not yet answered
(two for a burst split at 4 KiB, R176, which `cut` marks), `err` the first error of a part, `ready` the response kept for
upstream. -/
structure WEntry where
  id : BitVec 8
  owner : WOwner
  parts : List Addr
  cut : Bool
  err : Option Resp
  ready : Option Resp
  deriving DecidableEq, Repr

/-- Where the data of a taken read burst comes from (R178). A display read is `counted` when it was redirected to a
frame buffer (R86). -/
inductive ROwner where
  | pass
  | part
  | capture (d : SideId)
  | display (d : SideId) (counted : Bool)
  deriving DecidableEq, Repr

/-- An entry of a read response order list (R178): the addresses of its one or two parts and the beats of the first
(R176), all its beats, the beats arrived, whether an error beat has been reported, and the beats kept. -/
structure REntry where
  id : BitVec 8
  owner : ROwner
  addr1 : Addr
  beats1 : Nat
  addr2 : Addr
  total : Nat
  got : Nat
  errored : Bool
  kept : List RBeat
  deriving DecidableEq, Repr

/-- Who sends on the downstream write channels: a pass-through write of this upstream ID, or the injector (R180). -/
inductive Sender where
  | upstream (id : BitVec 8)
  | injector
  deriving DecidableEq, Repr

/-- The memory path unit (R171, R178, R180). The response order lists of all IDs stand in one list a direction, in the
order the bursts were taken. `tail` is the burst that has left the part's hands, address and beats, and still holds the
downstream write channels until its last beat has been sent (R180; log 9). -/
structure Path where
  cur : Option CurWrite
  tail : Option Sender
  heldWrite : Option (SideId × Burst)
  heldRead : Option (SideId × Burst)
  writes : List WEntry
  reads : List REntry
  waitCount : Nat
  deriving DecidableEq, Repr

/-! ## Settings snoop -/

/-- Results of a command, numbered in this order (R188, R189). -/
inductive CmdResult where
  | none
  | done
  | refusedState
  | refusedArg
  | unknown
  deriving DecidableEq, Repr

/-- The pending image (R183): the bytes that differ from their defaults, by block offset, strictly rising. -/
abbrev Image := List Host.Cell

/-- The settings snoop's global state (R183, R184, R187, R188). -/
structure Snoop where
  image : Image
  cfg : GlobalCfg
  cmdEcho : BitVec 32
  cmdResult : CmdResult
  reject : Nat
  deriving DecidableEq, Repr

/-! ## The machine -/

/-- The whole part, with the queue of commands waiting. -/
structure State where
  time : Time
  phase : Nat
  inReset : Bool
  anchor : BitVec 2
  left : Side
  right : Side
  lamp : Lamp
  cab : Scene
  backlight : Backlight
  link : Link
  faults : FaultUnit
  inj : Injector
  path : Path
  snoop : Snoop
  down : List DownMsg
  up : List UpMsg
  choice : Nat
  pending : List Instr
  deriving DecidableEq, Repr

/-- Reasons to stop with a fault: there are none. Every row of the opcode table has an effect in every state. -/
inductive Fault where
  deriving DecidableEq, Repr

/-- Reasons to refuse a command. -/
inductive Refusal where
  /-- Raised only by an arm of exec whose command has no meaning yet; safe. No arm is such an arm. -/
  | notModelled (mnemonic : String)
  deriving DecidableEq, Repr

/-! ## Reset -/

/-- A buffer table all FREE (R25). -/
def freeBufs : Table Buf 3 := Table.const 3 .free

/-- A cleared tile table (R65). -/
def clearTiles : Table Tile 128 := Table.const 128 ⟨.clear, 0, Config.unity⟩

/-- A side right after reset (R25, R43, R45, R53, R65, R73, R98, R132, R190). -/
def Side.reset (d : SideId) : Side where
  cfg := SideCfg.default d
  configured := false
  deferred := false
  reject := 0
  cap :=
    { bufs := freeBufs, fip := none, watchdog := none, expiries := 0, prevSig := none, identical := 0,
      frameNumber := 0, accepted := 0, dropped := 0 }
  coll := { acc := none, last := none, snap := { nodes := defaultCurve, gains := Table.const 128 Config.unity } }
  tone := defaultCurve
  expo := { confirmed := 0, settle := 0, request := false, m16 := 0, aeHeld := 0 }
  tiles := clearTiles
  scene := { state := .day, candidate := none, persist := 0, key := 0 }
  disp := { repeats := 0, outstanding := 0, watchdog := none, expired := false, lastAge := 0 }
  head :=
    { health := .off, cause := 0, attempts := 0, goodFrames := 0, runCount := 0, streak := 0, stageTimer := none,
      awaitingLower := false }
  seq := { state := .low, step := 0, timer := none }

/-- A backlight output after reset: dark, with the target the defaults give in DAY (R100). -/
def Monitor.reset : Monitor := { cur := 0, target := 1000, out := 0, high := false }

/-- The part right after reset release with ANCHOR 00 and LAMPS low (DESIGN CHOICE, log 10), and nothing waiting
(R25, R43, R76, R80, R100, R149, R150, R169, R181, R190). The link's transaction fields hold 0 and nothing, since no
attempt is in progress (DESIGN CHOICE, log 17). -/
def State.reset : State where
  time := 0
  phase := 0
  inReset := false
  anchor := 0
  left := Side.reset .left
  right := Side.reset .right
  lamp := { pin := false, on := false, measure := none }
  cab := .day
  backlight :=
    { running := false, left := Monitor.reset, right := Monitor.reset, periodStart := 0, periodLen := 1000,
      rampTimer := none }
  link :=
    { line := .idle, inFlight := none, waiting := [], divisor := 0, timeout := 0, txStart := 0, request := [],
      chars := [], receiving := none, silence := none, cutAt := none, guardStart := 0,
      results := Table.const 6 ⟨0, .none, 0⟩ }
  faults := { table := Table.const 40 ⟨false, 0, none, none⟩, queue := [], lost := 0, edges := [] }
  inj :=
    { w := 0, r := 0, seq := 0, serving := false, flagGlobal := false, flagFaults := false, flagLeft := false,
      flagRight := false, inflight := none, attn := false }
  path := { cur := none, tail := none, heldWrite := none, heldRead := none, writes := [], reads := [], waitCount := 0 }
  snoop := { image := [], cfg := GlobalCfg.default, cmdEcho := 0, cmdResult := .none, reject := 0 }
  down := []
  up := []
  choice := 0
  pending := []

end Sys2Proof.Machine
end

