-- ==== Sys2Proof/Machine/Bits.lean ====
section
/-! DEFINITION. Bytes, numbers and beats: the one place where byte order and byte lanes are decided. -/

namespace Sys2Proof.Machine

/-- The little-endian number of a list of bytes (00, Numbers and addresses). -/
def natOfBytes : List Byte → Nat
  | [] => 0
  | b :: rest => b.toNat + 256 * natOfBytes rest

/-- The first `n` bytes of a number, least significant first. -/
def bytesOfNat (n v : Nat) : List Byte := (List.range n).map (byteOf v)

/-- Byte lane `k` of a beat's data. -/
def Beat.byte (b : Beat) (k : Nat) : Byte := b.data.extractLsb' (8 * k) 8

/-- Whether byte lane `k` of a beat is strobed. -/
def Beat.strobed (b : Beat) (k : Nat) : Bool := b.strb.getLsbD k

/-- The number whose bit `k` is the list's entry `k`. -/
def natOfBits : List Bool → Nat
  | [] => 0
  | b :: rest => b.toNat + 2 * natOfBits rest

/-- A beat from its eight lanes, each a byte and a strobe. -/
def Beat.ofLanes (ls : List (Byte × Bool)) : Beat :=
  ⟨BitVec.ofNat 64 (natOfBytes (ls.map Prod.fst)), BitVec.ofNat 8 (natOfBits (ls.map Prod.snd))⟩

/-- The eight lanes of a beat. -/
def Beat.lanes (b : Beat) : List (Byte × Bool) := (List.range 8).map fun k => (b.byte k, b.strobed k)

/-- A list of bytes as full beats of eight, every byte strobed (R163, R165): `n` beats. -/
def beatsOfBytes : Nat → List Byte → List Beat
  | 0, _ => []
  | n + 1, bs => Beat.ofLanes ((bs.take 8).map fun b => (b, true)) :: beatsOfBytes n (bs.drop 8)

end Sys2Proof.Machine
end

