-- ==== Sys2Proof/Machine/Image.lean ====
section
/-! DEFINITION. The pending image (R183): an addressed buffer of 0xA60 bytes, held as the bytes that differ from their
defaults, in one canonical form. -/

namespace Sys2Proof.Machine

/-- The byte at block offset `o`: as written since reset, else its default. -/
def Image.get (m : Image) (o : Nat) : Byte :=
  match m.find? fun c => c.1 == o with
  | some c => c.2
  | none => imageDefault o

/-- Write one byte, keeping the canonical form: an entry equal to its default is not listed. -/
def Image.put (m : Image) (o : Nat) (v : Byte) : Image :=
  match m with
  | [] => if v = imageDefault o then [] else [(o, v)]
  | c :: rest =>
    if c.1 < o then c :: Image.put rest o v
    else if c.1 = o then (if v = imageDefault o then rest else (o, v) :: rest)
    else if v = imageDefault o then c :: rest
    else (o, v) :: c :: rest

/-- Offsets strictly rising. -/
def Image.rising : Image → Bool
  | [] => true
  | [_] => true
  | c :: c' :: rest => decide (c.1 < c'.1) && Image.rising (c' :: rest)

/-- The canonical form: offsets strictly rising and inside the image, and no entry equal to its default. -/
def Image.wf (m : Image) : Bool :=
  Image.rising m && m.all fun c => decide (c.1 < Config.imageBytes) && c.2 != imageDefault c.1

/-- One byte of a write into the block: merged where the block has a role for it below the status page, else ignored
(R182, R183). -/
def Image.merge (m : Image) (o : Nat) (v : Byte) : Image :=
  if o < Config.imageBytes then Image.put m o v else m

/-- The strobed bytes of a beat at block offset `off`, lane `k` and on, merged (R183). -/
def Image.mergeLanes : List (Byte × Bool) → Nat → Image → Image
  | [], _, m => m
  | (v, st) :: rest, o, m => Image.mergeLanes rest (o + 1) (if st then Image.merge m o v else m)

/-- The strobed bytes of a beat at block offset `off` merged (R183). -/
def Image.mergeBeat (m : Image) (off : Nat) (b : Beat) : Image := Image.mergeLanes b.lanes off m

/-- A field's pending value: the little-endian number of its bytes (R183). -/
def Image.field (m : Image) (off width : Nat) : Nat :=
  natOfBytes ((List.range width).map fun k => Image.get m (off + k))

/-- Bit `k` of a one-byte field. -/
def Image.bit (m : Image) (off k : Nat) : Bool := (Image.get m off).getLsbD k

end Sys2Proof.Machine
end

