-- ==== Sys2Proof/Machine/Operands.lean ====
section
/-! DEFINITION. The forms a burst can have: beat addresses, byte lanes and byte ranges (R172), windows and decoding
(R173, R174), the split at 4 KiB (R176). -/

namespace Sys2Proof.Machine

/-- Start address A as a number. -/
def burstStart (b : Burst) : Nat := b.addr.toNat

/-- A rounded down to a multiple of S (R172). -/
def burstAligned (b : Burst) : Nat := b.addr.toNat / b.size.bytes * b.size.bytes

/-- Bytes of the wrap region, S · LEN (R172). -/
def burstSpan (b : Burst) : Nat := b.size.bytes * b.len

/-- Where the wrap region begins (R172). -/
def wrapBase (b : Burst) : Nat := b.addr.toNat / burstSpan b * burstSpan b

/-- Address of beat `n` (R172). -/
def beatAddr (b : Burst) (n : Nat) : Nat :=
  if n = 0 then burstStart b
  else
    match b.kind with
    | .fixed => burstStart b
    | .incr => burstAligned b + n * b.size.bytes
    | .wrap =>
      let a := burstAligned b + n * b.size.bytes
      if wrapBase b + burstSpan b ≤ a then a - burstSpan b else a

/-- Lowest byte lane of a beat at address `a` (R172). -/
def laneLo (a : Nat) : Nat := a % 8

/-- Highest byte lane of a beat at address `a` with beat size `sz` (R172). -/
def laneHi (a sz : Nat) : Nat := a / sz * sz % 8 + sz - 1

/-- Whether lane `k` belongs to beat `n` of a burst. -/
def inLane (b : Burst) (n k : Nat) : Bool :=
  decide (laneLo (beatAddr b n) ≤ k) && decide (k ≤ laneHi (beatAddr b n) b.size.bytes)

/-- The byte range of a burst, first and last address (R172). -/
def byteRange (b : Burst) : Nat × Nat :=
  match b.kind with
  | .fixed => (burstStart b, burstAligned b + b.size.bytes - 1)
  | .incr => (burstStart b, burstAligned b + b.len * b.size.bytes - 1)
  | .wrap => (wrapBase b, wrapBase b + burstSpan b - 1)

/-- An address range, both ends included. -/
structure Range where
  lo : Nat
  hi : Nat
  deriving DecidableEq, Repr

/-- Two ranges share a byte. -/
def Range.overlaps (x y : Range) : Bool := decide (x.lo ≤ y.hi) && decide (y.lo ≤ x.hi)

/-- The burst touches the range (R172). -/
def touches (b : Burst) (w : Range) : Bool := decide ((byteRange b).1 ≤ w.hi) && decide (w.lo ≤ (byteRange b).2)

/-- The burst's whole byte range lies in the range. -/
def within (b : Burst) (w : Range) : Bool := decide (w.lo ≤ (byteRange b).1) && decide ((byteRange b).2 ≤ w.hi)

/-- The addresses that lie in a window: those that agree with the code on every bit of the mask (R173). A validated mask
is a run of ones from bit 31 down, so they are the range from the code with the other bits clear to the code with the
other bits set (log 13). -/
def window (code mask : Addr) : Range := ⟨(code &&& mask).toNat, ((code &&& mask) ||| ~~~mask).toNat⟩

/-- A window's size (R186, code 1). -/
def windowSize (mask : Addr) : Nat := 2 ^ 32 - mask.toNat

/-- The settings block (R173, R182). -/
def blockRange (anchor : BitVec 2) : Range :=
  ⟨(blockBase anchor).toNat, (blockBase anchor).toNat + 4095⟩

/-- Bytes of a side's frame area, PITCH · HEIGHT (R1). -/
def CaptureCfg.area (c : CaptureCfg) : Nat := c.pitch * c.height

/-- The line of the byte at an offset (R2). -/
def lineOf (c : CaptureCfg) (o : Nat) : Nat := o / c.pitch

/-- The column of the container at an offset (R2). -/
def colOf (c : CaptureCfg) (o : Nat) : Nat := o % c.pitch / 2

/-- The container at an offset is active (R2). -/
def activeAt (c : CaptureCfg) (o : Nat) : Bool :=
  decide (lineOf c o < c.height) && decide (colOf c o < c.width)

/-- The line that a capture write starting at offset `o` starts, if it is a line-start write (R4). -/
def lineStart (c : CaptureCfg) (o : Nat) : Option Nat :=
  if (o % c.pitch = 0 ∨ o % c.pitch = 1) ∧ o / c.pitch < c.height then some (o / c.pitch) else none

/-- Offset of the container at line HEIGHT−1, column WIDTH−1 (R13). -/
def lastContainer (c : CaptureCfg) : Nat := (c.height - 1) * c.pitch + 2 * (c.width - 1)

/-- What a burst is to the memory path unit (R173, R174): it touches no decoded window; it touches one but is not
decoded; it is decoded into a side's capture or display window at an offset. -/
inductive Decoded where
  | plain
  | split
  | capture (d : SideId) (off : Nat)
  | display (d : SideId) (off : Nat)
  deriving DecidableEq, Repr

/-- A decoded window: whose it is, whether it is the capture window, and its addresses. -/
structure Win where
  side : SideId
  isCapture : Bool
  range : Range
  deriving DecidableEq, Repr

/-- The two windows of a side, once it is configured (R173). -/
def sideWindows (d : SideId) (x : Side) : List Win :=
  if x.configured then
    [⟨d, true, window x.cfg.cap.capCode x.cfg.cap.capMask⟩, ⟨d, false, window x.cfg.cap.dispCode x.cfg.cap.dispMask⟩]
  else []

/-- All decoded windows. -/
def windows (s : State) : List Win := sideWindows .left s.left ++ sideWindows .right s.right

/-- Decoding of a burst (R173, R174). -/
def decodeBurst (b : Burst) (s : State) : Decoded :=
  match (windows s).find? fun w => b.kind == .incr && within b w.range with
  | some w =>
    if w.isCapture then .capture w.side (burstStart b - w.range.lo) else .display w.side (burstStart b - w.range.lo)
  | none => if (windows s).any fun w => touches b w.range then .split else .plain

/-- A burst as it is passed through: its ID extended with a top bit of 0, all else unchanged (R170). -/
def passBurst (b : Burst) : DownBurst := ⟨b.id.setWidth 9, b.addr, b.lenM1, b.size, b.kind, b.attrs⟩

/-- Beats of a redirected burst at downstream address `a` that lie below the next 4 KiB boundary (R176): all of them
when the burst does not cross it. -/
def beatsBelow (b : Burst) (a : Addr) : Nat :=
  let al := a.toNat / b.size.bytes * b.size.bytes
  min b.len ((4096 - al % 4096) / b.size.bytes)

/-- The downstream address of the second part of a split burst: the 4 KiB boundary (R176). Of a write that starts in a
frame area ending at 2^32 and runs beyond the frame, the second part goes to address 0, with its strobes cleared (R2): the
manual names no address past 2^32 (log 37). -/
def splitAddr (a : Addr) : Addr := BitVec.ofNat 32 ((a.toNat / 4096 + 1) * 4096)

/-- A redirected burst as it leaves: one burst with its address replaced, or two of the same ID (R176). -/
def redirected (b : Burst) (a : Addr) : List DownBurst :=
  let k := beatsBelow b a
  if k = b.len then [⟨b.id.setWidth 9, a, b.lenM1, b.size, b.kind, b.attrs⟩]
  else
    [⟨b.id.setWidth 9, a, BitVec.ofNat 8 (k - 1), b.size, b.kind, b.attrs⟩,
     ⟨b.id.setWidth 9, splitAddr a, BitVec.ofNat 8 (b.len - k - 1), b.size, b.kind, b.attrs⟩]

end Sys2Proof.Machine
end

