-- ==== Sys2Proof/Machine/Ops.lean ====
section
/-! DEFINITION. The operations every block shares: access to a side, time and timers, health predicates, publish flags,
output on the ports. -/

namespace Sys2Proof.Machine

/-! ## Sides -/

/-- A side's state. -/
def State.side (s : State) (d : SideId) : Side :=
  match d with
  | .left => s.left
  | .right => s.right

/-- The state with one side changed. -/
def updSide (d : SideId) (f : Side → Side) (s : State) : State :=
  match d with
  | .left => { s with left := f s.left }
  | .right => { s with right := f s.right }

/-- The scope of a side. -/
def scopeOf : SideId → Scope
  | .left => .left
  | .right => .right

/-- RUNNING or DEGRADED: the states that take capture writes (R3), run the watchdogs (R21, R92) and make a side a member
for the cab state (R80). -/
def Health.inService : Health → Bool
  | .running => true
  | .degraded => true
  | .off => false
  | .powering => false
  | .stabilizing => false
  | .probing => false
  | .failed => false
  | .recovering => false
  | .stopping => false

/-- A side is RUNNING or DEGRADED. -/
def Side.inService (x : Side) : Bool := x.head.health.inService

/-- The states in which the link serves a side's entries (R146, L9). -/
def Health.linkServed : Health → Bool
  | .probing => true
  | .running => true
  | .degraded => true
  | .failed => true
  | .off => false
  | .powering => false
  | .stabilizing => false
  | .recovering => false
  | .stopping => false

/-! ## Time -/

/-- The interval from `start` to now, modulo 2^32 (R150). -/
def State.since (s : State) (start : Time) : Nat := (s.time - start).toNat

/-- A watchdog or measurement with start time `start` has reached `len` microseconds (00, Time). -/
def dueAt (s : State) (start : Option Time) (len : Nat) : Bool :=
  match start with
  | some t => decide (len ≤ s.since t)
  | none => false

/-- A timer has expired (00, Time). -/
def timerDue (s : State) (t : Option Timer) : Bool :=
  match t with
  | some t => decide (t.len ≤ s.since t.start)
  | none => false

/-- A timer started now. -/
def State.timer (s : State) (len : Nat) : Timer := ⟨s.time, len⟩

/-- REFCLK periods since reset release, modulo 25 · 2^32 (R150). -/
def State.refNow (s : State) : Nat := Config.refPerMicro * s.time.toNat + s.phase

/-- The interval in REFCLK periods from `t` to now. -/
def State.refSince (s : State) (t : Nat) : Nat :=
  (s.refNow + Config.refPerMicro * 2 ^ 32 - t) % (Config.refPerMicro * 2 ^ 32)

/-- The burst still being sent downstream has sent its last data beat: the write channels are free (R180). -/
def endTail (s : State) : State := { s with path := { s.path with tail := none } }

/-- One REFCLK period passes: the timebase advances by 1 every 25 of them, and stands at 0 in reset (R150). The beats of a
burst that is still being sent downstream have left by its end (log 9). -/
def refPeriod (s : State) : State :=
  if s.inReset then s
  else if s.phase + 1 < Config.refPerMicro then { endTail s with phase := s.phase + 1 }
  else { endTail s with phase := 0, time := s.time + 1 }

/-! ## Publish flags -/

/-- The section of a side. -/
def pageOf : SideId → PageId
  | .left => .left
  | .right => .right

/-- A section's publish flag is set (R165). -/
def flagPage (p : PageId) (s : State) : State :=
  match p with
  | .global => { s with inj := { s.inj with flagGlobal := true } }
  | .faults => { s with inj := { s.inj with flagFaults := true } }
  | .left => { s with inj := { s.inj with flagLeft := true } }
  | .right => { s with inj := { s.inj with flagRight := true } }

/-- A section's publish flag is cleared (R165). -/
def unflagPage (p : PageId) (s : State) : State :=
  match p with
  | .global => { s with inj := { s.inj with flagGlobal := false } }
  | .faults => { s with inj := { s.inj with flagFaults := false } }
  | .left => { s with inj := { s.inj with flagLeft := false } }
  | .right => { s with inj := { s.inj with flagRight := false } }

/-- The first flagged section, in the order GLOBAL, FAULTS, LEFT, RIGHT (R162). -/
def firstFlagged (i : Injector) : Option PageId :=
  if i.flagGlobal then some .global
  else if i.flagFaults then some .faults
  else if i.flagLeft then some .left
  else if i.flagRight then some .right
  else none

/-! ## Ports -/

/-- The part sends on the downstream port. -/
def sendDown (ms : List DownMsg) (s : State) : State := { s with down := s.down ++ ms }

/-- The part sends on the upstream port. -/
def sendUp (ms : List UpMsg) (s : State) : State := { s with up := s.up ++ ms }

/-! ## Buffers -/

/-- The index of the lowest FREE buffer (R6). -/
def firstFree (t : Table Buf 3) : Option Nat :=
  (List.range 3).find? fun i => t.get i .filling == .free

/-- The frame of the SHOWN buffer with its index, if a buffer is SHOWN (R19). -/
def shownBuf (t : Table Buf 3) : Option (Nat × FrameInfo) :=
  (List.range 3).findSome? fun i =>
    match t.get i .free with
    | .shown f => some (i, f)
    | .free => none
    | .filling => none
    | .ready _ => none

/-- The frame of the READY buffer with its index, if a buffer is READY (R19). -/
def readyBuf (t : Table Buf 3) : Option (Nat × FrameInfo) :=
  (List.range 3).findSome? fun i =>
    match t.get i .free with
    | .ready f => some (i, f)
    | .free => none
    | .filling => none
    | .shown _ => none

end Sys2Proof.Machine
end

