-- ==== Sys2Proof/Machine/Glare.lean ====
section
/-! DEFINITION. The glare map (chapter 4, R63 to R70): the update of one tile, of the table, and the lift of A_MIN. -/

namespace Sys2Proof.Machine

/-- Stepped down: the larger of A_MIN and A − RAMP_DOWN (R67). -/
def stepDown (g : GlareCfg) (a : Nat) : Nat := max g.aMin (a - g.rampDown)

/-- Stepped up: the smaller of 256 and A + RAMP_UP (R68). -/
def stepUp (g : GlareCfg) (a : Nat) : Nat := min Config.unity (a + g.rampUp)

/-- A CLEAR tile. -/
def Tile.clear : Tile := ⟨.clear, 0, Config.unity⟩

/-- A tile in CLEAR or ONSET takes one more hot night update, with `hold` already raised (R67). -/
def onsetStep (g : GlareCfg) (hold : Nat) : Tile :=
  if g.onsetFrames ≤ hold then ⟨.dimmed, 0, stepDown g Config.unity⟩ else ⟨.onset, hold, Config.unity⟩

/-- A releasing tile whose gain and hold have been taken this far (R68, R69). -/
def releaseStep (a hold : Nat) : Tile := if a = Config.unity then Tile.clear else ⟨.release, hold, a⟩

/-- A tile at a night update with hot count `n` (R67, R68). -/
def nightTile (g : GlareCfg) (n : Nat) (t : Tile) : Tile :=
  match t.state with
  | .clear => if g.enterCount ≤ n then onsetStep g 1 else Tile.clear
  | .onset => if g.enterCount ≤ n then onsetStep g (satAdd 15 t.hold 1) else Tile.clear
  | .dimmed => if g.exitCount ≤ n then ⟨.dimmed, 0, stepDown g t.gain⟩ else ⟨.release, 0, t.gain⟩
  | .release =>
    if g.exitCount ≤ n then ⟨.dimmed, 0, stepDown g t.gain⟩
    else
      let hold := satAdd 15 t.hold 1
      releaseStep (if g.releaseHold < hold then stepUp g t.gain else t.gain) hold

/-- A tile at a day update (R69). -/
def dayTile (g : GlareCfg) (t : Tile) : Tile :=
  match t.state with
  | .clear => Tile.clear
  | .onset => Tile.clear
  | .dimmed => ⟨.release, 0, t.gain⟩
  | .release => releaseStep (stepUp g t.gain) (satAdd 15 t.hold 1)

/-- The tile table after an accepted completion with this record (R66). -/
def glareUpdate (g : GlareCfg) (t : Table Tile 128) (r : Stats) : Table Tile 128 :=
  if r.sceneAtStart = .night then Table.ofFn 128 fun i => nightTile g (r.hot.get i 0) (t.get i Tile.clear)
  else t.map (dayTile g)

/-- The tile table after a successful side apply that takes A_MIN from `old` to `new` (R70): a raised A_MIN lifts the
gains below it, and states and holds stay. -/
def liftTiles (old new : Nat) (t : Table Tile 128) : Table Tile 128 :=
  if old < new then t.map fun x => { x with gain := max new x.gain } else t

end Sys2Proof.Machine
end

