-- ==== Sys2Proof/Machine/Flags.lean ====
section
/-! DEFINITION. The fault unit: the fault table, the pending report queue and the condition that drives FAULT_N
(chapter 9, R151 to R159, R166, R168). -/

namespace Sys2Proof.Machine

/-- Kind code, 1 to 21 (R151). -/
def FaultKind.code : FaultKind → Nat
  | .frameMissing => 1
  | .lineShortfall => 2
  | .lineOrder => 3
  | .orphanWrite => 4
  | .partialPixel => 5
  | .cameraFrozen => 6
  | .viewStale => 7
  | .viewLate => 8
  | .displayIdle => 9
  | .aliasWrite => 10
  | .linkNoAnswer => 11
  | .linkBadCheck => 12
  | .linkRefused => 13
  | .probeFailed => 14
  | .sideFailed => 15
  | .sideDegraded => 16
  | .recoveryExhausted => 17
  | .configRejected => 18
  | .splitBurst => 19
  | .downstreamError => 20
  | .reportPath => 21

/-- Group number of a kind code: CAPTURE 0, DISPLAY 1, CAMERA 2, HEALTH 3, SETTINGS 4, PATH 5 (R151). -/
def groupOfCode (c : Nat) : Nat :=
  if c ≤ 6 then 0 else if c ≤ 10 then 1 else if c ≤ 14 then 2 else if c ≤ 17 then 3 else if c ≤ 18 then 4 else 5

/-- Active level of a group (R151, R152). -/
def levelOfGroup (g : GlobalCfg) (n : Nat) : Nat :=
  match n with
  | 0 => g.levelCapture
  | 1 => g.levelDisplay
  | 2 => g.levelCamera
  | 3 => g.levelHealth
  | 4 => g.levelSettings
  | _ => g.levelPath

/-- Active level of a kind's group at this moment (R151). -/
def kindLevel (s : State) (k : FaultKind) : Nat := levelOfGroup s.snoop.cfg (groupOfCode k.code)

/-- Scope number: LEFT 0, RIGHT 1, GLOBAL 2 (R163). -/
def Scope.num : Scope → Nat
  | .left => 0
  | .right => 1
  | .global => 2

/-- Index of a record in the fault table (R153). -/
def recIndex (k : FaultKind) (sc : Scope) : Nat :=
  if k.code ≤ 17 then 2 * (k.code - 1) + (if sc = .right then 1 else 0)
  else if k.code = 18 then 34 + sc.num
  else k.code + 18

/-- Kind code of the record at an index (R153). -/
def codeOfIndex (i : Nat) : Nat := if i < 34 then i / 2 + 1 else if i < 37 then 18 else i - 18

/-- Kind codes of the conditions (R151). -/
def isConditionCode (c : Nat) : Bool := c == 6 || c == 7 || c == 9 || c == 15 || c == 16 || c == 21

/-- A fresh record (R153). -/
def FaultRec.empty : FaultRec := ⟨false, 0, none, none⟩

/-- A record of the fault table. -/
def State.faultRec (s : State) (k : FaultKind) (sc : Scope) : FaultRec := s.faults.table.get (recIndex k sc) FaultRec.empty

/-- A record replaced. -/
def setFaultRec (k : FaultKind) (sc : Scope) (r : FaultRec) (s : State) : State :=
  { s with faults := { s.faults with table := s.faults.table.set (recIndex k sc) r } }

/-- One occurrence counted at time `now` (R153). -/
def FaultRec.occur (r : FaultRec) (now : Time) : FaultRec :=
  { r with
    count := satAdd Config.max16 r.count 1
    first := if r.count = 0 then some now else r.first
    last := some now }

/-- The frame number a report carries: that of its side, 0 for GLOBAL (R157). -/
def frameOf (s : State) (sc : Scope) : Half :=
  match sc with
  | .left => s.left.cap.frameNumber
  | .right => s.right.cap.frameNumber
  | .global => 0

/-- A report made from a record as it stands after the change (R157). -/
def mkReport (k : FaultKind) (sc : Scope) (ty : ReportType) (detail : BitVec 32) (s : State) : Report :=
  let r := s.faultRec k sc
  { kind := k, scope := sc, type := ty, level := kindLevel s k,
    time := if ty = .clear then s.time else r.last.getD 0,
    first := if r.count = 0 then 0 else r.first.getD 0,
    count := r.count,
    detail := if ty = .clear then 0 else detail,
    frame := frameOf s sc }

/-- `a` ranks above `b` by level and natural order; between equals the earlier arrival ranks above (R158). The level is the
one taken when the report was made: where a global apply raises a group's level between a RAISE and the CLEAR of the same
record, item 1 of the ranking puts the CLEAR first and the sentence that the two keep their order the RAISE, and here the
level decides (log 34). -/
def Report.above (a b : Report) : Bool :=
  decide (b.level < a.level) || (a.level == b.level && decide (a.kind.code < b.kind.code))

/-- A report that arrives takes its place after every entry it does not rank above (R158). -/
def rankInsert (r : Report) : List Report → List Report
  | [] => [r]
  | x :: rest => if r.above x then r :: x :: rest else x :: rankInsert r rest

/-- A report enters the pending queue: by rank, and when the queue is full the lowest-ranked of the queue and the new
report is dropped and counted as lost (R158, R159). -/
def pushReport (r : Report) (s : State) : State :=
  if s.faults.queue.length < Config.maxReports then
    { s with faults := { s.faults with queue := rankInsert r s.faults.queue } }
  else
    { s with
      faults :=
        { s.faults with
          queue := (rankInsert r s.faults.queue).take Config.maxReports
          lost := satAdd Config.max16 s.faults.lost 1 } }

/-- Whether a condition is active (R153). -/
def isActive (k : FaultKind) (sc : Scope) (s : State) : Bool := (s.faultRec k sc).flag

/-- REPORT_PATH is active (R166). -/
def State.pathFailing (s : State) : Bool := isActive .reportPath .global s

/-- A condition record is active whose group's current level is at or above FAULT_PIN_LEVEL (R168, cause 4). -/
def levelledCondition (s : State) : Bool :=
  (List.range 40).any fun i =>
    isConditionCode (codeOfIndex i) && (s.faults.table.get i FaultRec.empty).flag &&
      decide (s.snoop.cfg.faultPinLevel ≤ levelOfGroup s.snoop.cfg (groupOfCode (codeOfIndex i)))

/-- FAULT_N is asserted (R168). -/
def State.faultAsserted (s : State) : Bool :=
  s.inReset || s.left.head.health == .failed || s.right.head.health == .failed || s.pathFailing || levelledCondition s

/-- FAULT_N follows a change that took `pre` to `s`, with no latch of its own: a level it changes to is recorded (R168;
log 32). -/
def followPin (pre s : State) : State :=
  if s.faultAsserted = pre.faultAsserted then s
  else { s with faults := { s.faults with edges := s.faults.edges ++ [s.faultAsserted] } }

/-- A block raises a condition, and FAULT_N follows (R154, R168). -/
def raiseCond (k : FaultKind) (sc : Scope) (detail : BitVec 32) (s : State) : State :=
  if isActive k sc s then s
  else
    let s1 := setFaultRec k sc { (s.faultRec k sc).occur s.time with flag := true } s
    followPin s (pushReport (mkReport k sc .raise detail s1) s1)

/-- A block clears a condition, and FAULT_N follows (R154, R168). -/
def clearCond (k : FaultKind) (sc : Scope) (s : State) : State :=
  if isActive k sc s then
    let s1 := setFaultRec k sc { s.faultRec k sc with flag := false } s
    followPin s (pushReport (mkReport k sc .clear 0 s1) s1)
  else s

/-- A block reports an event occurrence: counted always, reported when its latch is clear (R155). -/
def raiseEvent (k : FaultKind) (sc : Scope) (detail : BitVec 32) (s : State) : State :=
  if (s.faultRec k sc).flag then setFaultRec k sc ((s.faultRec k sc).occur s.time) s
  else
    let s1 := setFaultRec k sc { (s.faultRec k sc).occur s.time with flag := true } s
    pushReport (mkReport k sc .event detail s1) s1

/-- One record under ACK_FAULTS with this argument (R156): the latch of an event record of a selected group is cleared,
and with bit 8 any record of a selected group loses its count and times. -/
def ackRec (arg : BitVec 16) (i : Nat) (r : FaultRec) : FaultRec :=
  if arg.getLsbD (groupOfCode (codeOfIndex i)) then
    { flag := if isConditionCode (codeOfIndex i) then r.flag else false
      count := if arg.getLsbD 8 then 0 else r.count
      first := if arg.getLsbD 8 then none else r.first
      last := if arg.getLsbD 8 then none else r.last }
  else r

/-- The fault table under ACK_FAULTS (R156). -/
def ackTable (arg : BitVec 16) (t : Table FaultRec 40) : Table FaultRec 40 :=
  Table.ofFn 40 fun i => ackRec arg i (t.get i FaultRec.empty)

/-- ATTN_N is asserted (R167). -/
def State.attnAsserted (s : State) : Bool := s.inj.attn

end Sys2Proof.Machine
end

