-- ==== Sys2Proof/Machine/Responses.lean ====
section
/-! DEFINITION. The response order lists (R178, R179) and the end of a taken write burst that the part answers (R177). -/

namespace Sys2Proof.Machine

/-- The memory path unit changed. -/
def updPath (f : Path → Path) (s : State) : State := { s with path := f s.path }

/-! ## Writes -/

/-- The write responses that go upstream, and the entries left, for entries behind which the IDs `blocked` wait: an entry
goes when its response is ready and no earlier entry of its ID waits (R178). -/
def drainWrites : List WEntry → List (BitVec 8) → List UpMsg × List WEntry
  | [], _ => ([], [])
  | e :: rest, blocked =>
    match e.ready with
    | some r =>
      if blocked.contains e.id then
        let z := drainWrites rest blocked
        (z.1, e :: z.2)
      else
        let z := drainWrites rest blocked
        (.writeResp e.id r :: z.1, z.2)
    | none =>
      let z := drainWrites rest (e.id :: blocked)
      (z.1, e :: z.2)

/-- Every write response that may go upstream goes (R178). -/
def releaseWrites (s : State) : State :=
  let z := drainWrites s.path.writes []
  sendUp z.1 (updPath (fun p => { p with writes := z.2 }) s)

/-- The last entry of a list changed. -/
def modifyLast {α : Type} (f : α → α) : List α → List α
  | [] => []
  | [x] => [f x]
  | x :: y :: rest => x :: modifyLast f (y :: rest)

/-- The entry of the write burst that holds the write channel: the last one taken. -/
def updCurEntry (f : WEntry → WEntry) (s : State) : State :=
  updPath (fun p => { p with writes := modifyLast f p.writes }) s

/-- The part answers the current write burst OKAY, and the channel is free (R177). -/
def answerCur (s : State) : State :=
  releaseWrites (updPath (fun p => { p with cur := none })
    (updCurEntry (fun e => { e with owner := .part, ready := some .okay }) s))

/-- The entry at which a downstream response of an ID arrives: the first one of the ID that awaits one (R178, R179). -/
def writeTarget (id : BitVec 8) (ws : List WEntry) : Option Nat :=
  ws.findIdx? fun e => e.id == id && !e.parts.isEmpty

/-- The first error of two responses (R176). -/
def firstError (err : Option Resp) (r : Resp) : Option Resp :=
  match err with
  | some e => some e
  | none => if r.isError then some r else none

/-- An entry takes the response of its first part not yet answered: the answer of a burst sent whole goes up with its
code (R11), that of a split burst is the first error of its parts, else OKAY (R176, R178). -/
def WEntry.take (e : WEntry) (r : Resp) : WEntry :=
  let rest := e.parts.tail
  { e with
    parts := rest
    err := firstError e.err r
    ready := if rest.isEmpty then some ((firstError e.err r).getD (if e.cut then .okay else r)) else none }

/-! ## Reads -/

/-- The entry's last beat has arrived. -/
def REntry.complete (e : REntry) : Bool := decide (e.total ≤ e.got)

/-- Read beats that go upstream and the entries left: the first entry of each ID sends what it keeps, and leaves when it
is complete (R178). -/
def drainReads : List REntry → List (BitVec 8) → List UpMsg × List REntry
  | [], _ => ([], [])
  | e :: rest, blocked =>
    if blocked.contains e.id then
      let z := drainReads rest blocked
      (z.1, e :: z.2)
    else
      let out := e.kept.map fun b => UpMsg.readData e.id b
      if e.complete then
        let z := drainReads rest blocked
        (out ++ z.1, z.2)
      else
        let z := drainReads rest (e.id :: blocked)
        (out ++ z.1, { e with kept := [] } :: z.2)

/-- Every read beat that may go upstream goes (R178). -/
def releaseReads (s : State) : State :=
  let z := drainReads s.path.reads []
  sendUp z.1 (updPath (fun p => { p with reads := z.2 }) s)

/-- The entry at which a downstream beat of an ID arrives: the first one of the ID whose beats have not all come
(R178, R179). -/
def readTarget (id : BitVec 8) (rs : List REntry) : Option Nat :=
  rs.findIdx? fun e => e.id == id && !e.complete

/-- An entry takes a beat. -/
def REntry.take (e : REntry) (data : BitVec 64) (r : Resp) : REntry :=
  { e with
    got := e.got + 1
    errored := e.errored || r.isError
    kept := e.kept ++ [⟨data, r, decide (e.total ≤ e.got + 1)⟩] }

/-- The downstream address of the part of the burst that the next beat belongs to (R176). -/
def REntry.partAddr (e : REntry) : Addr := if e.got < e.beats1 then e.addr1 else e.addr2

end Sys2Proof.Machine
end

