-- ==== Sys2Proof/Machine/Buffers.lean ====
section
/-! DEFINITION. The buffer table of a side: teardown with the display redirector's part (R20, R94), the swap (R89) and
the watchdogs' stop (R21, R92). -/

namespace Sys2Proof.Machine

/-- A side's capture tracker changed. -/
def updCap (d : SideId) (f : Capture → Capture) (s : State) : State :=
  updSide d (fun x => { x with cap := f x.cap }) s

/-- A side's display redirector changed. -/
def updDisp (d : SideId) (f : Display → Display) (s : State) : State :=
  updSide d (fun x => { x with disp := f x.disp }) s

/-- A side's statistics collector changed. -/
def updColl (d : SideId) (f : Collector → Collector) (s : State) : State :=
  updSide d (fun x => { x with coll := f x.coll }) s

/-- The outstanding writes of a side's frame no longer belong to a frame in progress (R7, R11, R20). -/
def orphanEntry (d : SideId) (e : WEntry) : WEntry :=
  match e.owner with
  | .capture d' live => if d' = d then { e with owner := .capture d' false } else { e with owner := .capture d' live }
  | .pass => e
  | .part => e

/-- The write entries of a side's frame lose it. -/
def orphanWrites (d : SideId) (s : State) : State :=
  updPath (fun p => { p with writes := p.writes.map (orphanEntry d) }) s

/-- A collected or collecting capture write of a side whose frame teardown discards is not sent: the part answers it
OKAY, at once when its last beat has been taken (R3, R176, R177). -/
def discardCur (d : SideId) (s : State) : State :=
  match s.path.cur with
  | some c =>
    match c.route with
    | .capture d' _ _ =>
      if d' = d then
        if c.taken < c.burst.len then
          updPath (fun p => { p with cur := some { c with discarded := true, beats := [] } }) s
        else answerCur s
      else s
    | .pass => s
    | .absorbed => s
  | none => s

/-- Teardown of a side's buffer table, with the display redirector's part (R20, R94). -/
def teardown (d : SideId) (s : State) : State :=
  let s1 := updCap d (fun c => { c with bufs := freeBufs, fip := none, prevSig := none, identical := 0 }) s
  let s2 := updColl d (fun c => { c with acc := none }) s1
  let s3 := updDisp d (fun p => { p with repeats := 0 }) s2
  clearCond .viewStale (scopeOf d) (discardCur d (orphanWrites d s3))

/-- Teardown, and then the release of an apply deferred behind the frame it discarded (R18, R20). -/
def teardownRelease (release : State → State) (d : SideId) (s : State) : State :=
  if (s.side d).cap.fip.isSome then release (teardown d s) else teardown d s

/-- The watchdogs of a side stop and DISPLAY_IDLE is cleared (R21, R92, R93). -/
def stopWatchdogs (d : SideId) (s : State) : State :=
  let s1 := updCap d (fun c => { c with watchdog := none, expiries := 0 }) s
  clearCond .displayIdle (scopeOf d) (updDisp d (fun p => { p with watchdog := none, expired := false }) s1)

/-- The watchdogs of a side start (R21, R92). -/
def startWatchdogs (d : SideId) (s : State) : State :=
  let s1 := updCap d (fun c => { c with watchdog := some s.time, expiries := 0 }) s
  updDisp d (fun p => { p with watchdog := some s.time, expired := false }) s1

/-- The SHOWN record becomes FREE and the READY record SHOWN (R89). -/
def swapBuf : Buf → Buf
  | .free => .free
  | .filling => .filling
  | .ready f => .shown f
  | .shown _ => .free

end Sys2Proof.Machine
end

