-- ==== Sys2Proof/Machine/LinkQueue.lean ====
section
/-! DEFINITION. The link's request queue and the start of a transaction (chapter 8, R134, R136, R139, R142 to R144), and
the cancellation of a side's entries. -/

namespace Sys2Proof.Machine

/-- The link changed. -/
def updLink (f : Link → Link) (s : State) : State := { s with link := f s.link }

/-! ## Times, in REFCLK periods (R134) -/

/-- Bit time of a divisor. -/
def bitRef (divisor : Nat) : Nat := 16 * (divisor + 1)

/-- Character time of a divisor. -/
def charRef (divisor : Nat) : Nat := 11 * bitRef divisor

/-- The part is listening for a character (R135, R139). -/
def LineState.listening : LineState → Bool
  | .awaiting => true
  | .receiving => true
  | .draining => true
  | .idle => false
  | .guard => false
  | .sending => false

/-! ## Requests -/

/-- The exclusive OR of a list of bytes. -/
def xorBytes : List Byte → Byte
  | [] => 0
  | b :: rest => b ^^^ xorBytes rest

/-- High byte of a 16-bit value. -/
def hiByte (h : Half) : Byte := h.extractLsb' 8 8

/-- Low byte of a 16-bit value. -/
def loByte (h : Half) : Byte := h.extractLsb' 0 8

/-- Characters 1 to 5 of a request to the head at address `cam` (R136). -/
def requestBody (cam : Nat) (e : LinkEntry) : List Byte :=
  [BitVec.ofNat 8 ((if e.read then 128 else 0) + cam), hiByte e.reg, loByte e.reg,
   if e.read then 0 else hiByte e.data, if e.read then 0 else loByte e.data]

/-- The six characters of a request (R136). -/
def requestChars (cam : Nat) (e : LinkEntry) : List Byte := requestBody cam e ++ [xorBytes (requestBody cam e)]

/-! ## Transactions -/

/-- An attempt of entry `e` begins: it is in flight, its attempts made rise by 1, and the divisor, the timeout and the
request are taken (R134, R136, R138, R139, R140). -/
def beginAttempt (e : LinkEntry) (s : State) : State :=
  updLink (fun k =>
    { k with
      line := .sending
      inFlight := some { e with attempts := e.attempts + 1 }
      divisor := s.snoop.cfg.linkDivisor
      timeout := s.snoop.cfg.linkTimeout
      txStart := s.refNow
      request := requestChars (s.side e.side).cfg.head.camAddr e
      chars := []
      receiving := none
      silence := none
      cutAt := none }) s

/-- The line is free: the entry in flight, or the first waiting entry, begins; with neither the line is IDLE (R139). -/
def startNext (s : State) : State :=
  match s.link.inFlight with
  | some e => beginAttempt e s
  | none =>
    match s.link.waiting with
    | e :: rest => beginAttempt e (updLink (fun k => { k with waiting := rest }) s)
    | [] => updLink (fun k => { k with line := .idle }) s

/-- A PROBE or an EXPOSURE (R143). -/
def LinkEntry.isPart (e : LinkEntry) : Bool :=
  match e.kind with
  | .probe => true
  | .exposure => true
  | .mailbox _ _ => false

/-- A new entry takes its place among the waiting ones (R143). -/
def placeEntry (e : LinkEntry) (w : List LinkEntry) : List LinkEntry :=
  if e.isPart then w.takeWhile LinkEntry.isPart ++ e :: w.dropWhile LinkEntry.isPart else w ++ [e]

/-- An entry is queued; it begins at once when the line is IDLE (R139, R142, R143). The queue depth changes, which flags
GLOBAL whatever else the command does (R148; log 19). -/
def enqueueEntry (e : LinkEntry) (s : State) : State :=
  let s1 := flagPage .global (updLink (fun k => { k with waiting := placeEntry e k.waiting }) s)
  if s.link.line = .idle then startNext s1 else s1

/-- The controller enters GUARD (R139). -/
def enterGuard (s : State) : State :=
  updLink (fun k =>
    { k with line := .guard, guardStart := s.refNow, chars := [], receiving := none, silence := none, cutAt := none }) s

/-! ## Cancellation (R144) -/

/-- A slot's result is set (R147). -/
def setResult (slot : Fin 6) (r : MailResult) (s : State) : State :=
  updLink (fun k => { k with results := k.results.set slot.val r }) s

/-- CANCELLED is handed to the owner of an entry: nothing for a PROBE, the request becomes absent for an EXPOSURE, the
slot's result for a MAILBOX (R115, R59, R147). -/
def handCancelled (e : LinkEntry) (s : State) : State :=
  match e.kind with
  | .probe => s
  | .exposure => updSide e.side (fun x => { x with expo := { x.expo with request := false } }) s
  | .mailbox slot tag => setResult slot ⟨tag, .cancelled, 0⟩ s

/-- CANCELLED is handed to each entry's owner in turn. -/
def handAll : List LinkEntry → State → State
  | [], s => s
  | e :: rest, s => handAll rest (handCancelled e s)

/-- Where the line goes when its in-flight entry is cancelled: the character being sent is completed, a response is
drained, a guard goes on. `elapsed` is the time since the transaction's first character began. -/
def cutLine (elapsed : Nat) (k : Link) : Link :=
  match k.line with
  | .sending =>
    { k with inFlight := none, cutAt := some (min 6 (elapsed / charRef k.divisor + 1) * charRef k.divisor) }
  | .awaiting => { k with inFlight := none, line := .draining }
  | .receiving => { k with inFlight := none, line := .draining }
  | .draining => { k with inFlight := none }
  | .guard => { k with inFlight := none }
  | .idle => { k with inFlight := none }

/-- The entry in flight, if it is of this side. -/
def inFlightOf (d : SideId) (k : Link) : List LinkEntry :=
  match k.inFlight with
  | some e => if e.side = d then [e] else []
  | none => []

/-- Every entry of a side is cancelled (R144). -/
def cancelSide (d : SideId) (s : State) : State :=
  let gone := inFlightOf d s.link ++ s.link.waiting.filter fun e => e.side == d
  let s1 := if (inFlightOf d s.link).isEmpty then s else updLink (cutLine (s.refSince s.link.txStart)) s
  handAll gone (updLink (fun k => { k with waiting := k.waiting.filter fun e => e.side != d }) s1)

/-! ## The level on CTL (R134, R149) -/

/-- A bit of a character of the request: start bit, data bits, mark bit, stop bit. -/
def charBit (first : Bool) (b : Byte) (n : Nat) : Bool :=
  if n = 0 then false else if n ≤ 8 then b.getLsbD (n - 1) else if n = 9 then first else true

/-- The part drives CTL low: it is sending, and the bit on the line is 0. -/
def ctlLow (s : State) : Bool :=
  let k := s.link
  let t := s.refSince k.txStart
  let c := t / charRef k.divisor
  let cut := match k.cutAt with | some e => decide (e ≤ t) | none => false
  !s.inReset && k.line == .sending && decide (c < 6) && !cut &&
    !charBit (c == 0) (k.request.getD c 0) (t % charRef k.divisor / bitRef k.divisor)

end Sys2Proof.Machine
end

