-- ==== Sys2Proof/Machine/Pixel.lean ====
section
/-! DEFINITION. Pixel development and the statistics of a frame (chapter 2, R26 to R43): the five stages, the containers
of a burst, and what a burst adds to the accumulating record. -/

namespace Sys2Proof.Machine

/-! ## The stages (R27, R31 to R35) -/

/-- Segment base L1 (R27). -/
def segBase1 (v : DevCfg) : Nat := v.knee1 * 2 ^ v.shift0

/-- Segment base L2 (R27). -/
def segBase2 (v : DevCfg) : Nat := segBase1 v + (v.knee2 - v.knee1) * 2 ^ v.shift1

/-- Segment base L3 (R27). -/
def segBase3 (v : DevCfg) : Nat := segBase2 v + (v.knee3 - v.knee2) * 2 ^ v.shift2

/-- Decompanding of a raw code (R31). -/
def decompand (v : DevCfg) (c : Nat) : Nat :=
  min Config.linMax
    (if c < v.knee1 then c * 2 ^ v.shift0
     else if c < v.knee2 then segBase1 v + (c - v.knee1) * 2 ^ v.shift1
     else if c < v.knee3 then segBase2 v + (c - v.knee2) * 2 ^ v.shift2
     else segBase3 v + (c - v.knee3) * 2 ^ v.shift3)

/-- Black subtraction, saturating at 0 (R32). -/
def subBlack (v : DevCfg) (x : Nat) : Nat := x - v.black

/-- The gain of a pixel's site (R33). -/
def siteGain (v : DevCfg) (line col : Nat) : Nat :=
  if line % 2 = 0 then (if col % 2 = 0 then v.gain00 else v.gain01)
  else (if col % 2 = 0 then v.gain10 else v.gain11)

/-- A value times a fixed-point gain, rounded (00, Fixed point and rounding). -/
def gainMul (x g : Nat) : Nat := (x * g + 128) / 256

/-- Site gain (R33). -/
def applyGain (v : DevCfg) (line col x : Nat) : Nat := min Config.linMax (gainMul x (siteGain v line col))

/-- The gained value v_g of a raw code at a place: the first three stages. -/
def gainedValue (v : DevCfg) (line col c : Nat) : Nat := applyGain v line col (subBlack v (decompand v c))

/-- Tile index of a place (R34). -/
def tileIndex (g : CaptureCfg) (line col : Nat) : Nat := line * 8 / g.height * 16 + col * 16 / g.width

/-- Glare attenuation of `x` by gain `a` above the knee (R34). -/
def attenuate (knee a x : Nat) : Nat := if x < knee then x else knee + gainMul (x - knee) a

/-- Tone mapping (R35). -/
def toneMap (nodes : Table Nat 21) (x : Nat) : Nat :=
  if x = 0 then nodes.get 0 0
  else
    let e := Nat.log2 x
    nodes.get e 0 + (nodes.get (e + 1) 0 - nodes.get e 0) * (x - 2 ^ e) / 2 ^ e

/-- The developed value y of a gained value in a tile, under the frame snapshot (R34, R35). -/
def developed (v : DevCfg) (p : Snapshot) (tile vg : Nat) : Nat :=
  toneMap p.nodes (attenuate v.glareKnee (p.gains.get tile Config.unity) vg)

/-! ## The containers of a burst (R28) -/

/-- One byte of a burst within its lanes: its offset in the window, its value and its strobe. -/
structure OffByte where
  off : Nat
  val : Byte
  strb : Bool
  deriving DecidableEq, Repr

/-- Offset in the window of lane `k` of beat `n`, for a burst that starts at offset `off` (R172). -/
def laneOff (b : Burst) (off n k : Nat) : Nat := off + (beatAddr b n / 8 * 8 + k - burstStart b)

/-- The bytes of beat `n` within its lanes, in order. -/
def beatBytes (b : Burst) (off n : Nat) (bt : Beat) : List OffByte :=
  (List.range 8).filterMap fun k =>
    if inLane b n k then some ⟨laneOff b off n k, bt.byte k, bt.strobed k⟩ else none

/-- The bytes of the beats from beat `n` on. -/
def burstBytes (b : Burst) (off : Nat) : List Beat → Nat → List OffByte
  | [], _ => []
  | bt :: rest, n => beatBytes b off n bt ++ burstBytes b off rest (n + 1)

/-- A container as its burst carries it: both bytes, or one of them at an end of the burst. -/
inductive Container where
  | both (lo hi : OffByte)
  | one (x : OffByte)
  deriving DecidableEq, Repr

/-- Offset of the container's first byte. -/
def Container.off : Container → Nat
  | .both lo _ => lo.off
  | .one x => x.off / 2 * 2

/-- Bytes in order of rising offset, taken as containers. -/
def pairUp : List OffByte → List Container
  | [] => []
  | [x] => [.one x]
  | x :: y :: rest => if x.off % 2 = 0 then .both x y :: pairUp rest else .one x :: pairUp (y :: rest)

/-- Strobed bytes of a container, judged over its whole burst (R28). -/
def Container.strobes : Container → Nat
  | .both lo hi => lo.strb.toNat + hi.strb.toNat
  | .one x => x.strb.toNat

/-- What becomes of a container (R10, R28): developed with its raw code, partial, carried as it arrived, or beyond the
frame. -/
inductive Fate where
  | develop (c : Nat)
  | half
  | carry
  | beyond
  deriving DecidableEq, Repr

/-- The raw code: the low 12 bits (R31). -/
def rawCode (lo hi : OffByte) : Nat := natOfBytes [lo.val, hi.val] % 4096

/-- Judgement of a container (R10, R28). -/
def fate (g : CaptureCfg) (x : Container) : Fate :=
  if g.area ≤ x.off then .beyond
  else if activeAt g x.off then
    match x with
    | .both lo hi =>
      if lo.strb && hi.strb then .develop (rawCode lo hi) else if lo.strb || hi.strb then .half else .carry
    | .one y => if y.strb then .half else .carry
  else .carry

/-- The bytes of a container as they leave, with `y` the developed value (R10, R36, R2). -/
def emit (x : Container) (f : Fate) (y : Nat) : List OffByte :=
  match x with
  | .both lo hi =>
    match f with
    | .develop _ =>
      [⟨lo.off, byteOf y 0, lo.strb⟩, ⟨hi.off, byteOf y 1, hi.strb⟩]
    | .half => [lo, hi]
    | .carry => [lo, hi]
    | .beyond => [⟨lo.off, lo.val, false⟩, ⟨hi.off, hi.val, false⟩]
  | .one z =>
    match f with
    | .develop _ => [z]
    | .half => [z]
    | .carry => [z]
    | .beyond => [⟨z.off, z.val, false⟩]

/-! ## Statistics (R37 to R41) -/

/-- An accumulating record at its creation (R37). -/
def Stats.fresh (sc : Scene) : Stats :=
  { hist := Table.const 20 0, total := 0, hot := Table.const 128 0, signature := 0, partials := 0, sceneAtStart := sc }

/-- Histogram bin of a gained value (R38). -/
def binOf (vg : Nat) : Nat := if vg = 0 then 0 else Nat.log2 vg

/-- A place lies in the region of interest (R38). -/
def inRoi (v : DevCfg) (line col : Nat) : Bool :=
  decide (v.roiY0 ≤ line) && decide (line < v.roiY1) && decide (v.roiX0 ≤ col) && decide (col < v.roiX1)

/-- The term a developed container adds to the signature (R40). -/
def sigTerm (g : CaptureCfg) (line col c : Nat) : Nat := c * (1 + (line * g.width + col) % 251)

/-- A table of counters with one raised by 1, saturating. -/
def bump {n : Nat} (top : Nat) (t : Table Nat n) (i : Nat) : Table Nat n := t.set i (satAdd top (t.get i 0) 1)

/-- One development counted (R38, R39, R40). -/
def countDevelopment (g : CaptureCfg) (v : DevCfg) (line col c vg : Nat) (r : Stats) : Stats :=
  { r with
    hist := if inRoi v line col then bump Config.max32 r.hist (binOf vg) else r.hist
    total := if inRoi v line col then satAdd Config.max32 r.total 1 else r.total
    hot := if v.glareKnee ≤ vg then bump Config.max16 r.hot (tileIndex g line col) else r.hot
    signature := r.signature + BitVec.ofNat 32 (sigTerm g line col c) }

/-- One container: the bytes that leave and the record after it (R28). -/
def developContainer (g : CaptureCfg) (v : DevCfg) (p : Snapshot) (x : Container) (r : Stats) : List OffByte × Stats :=
  match fate g x with
  | .develop c =>
    let line := lineOf g x.off
    let col := colOf g x.off
    let vg := gainedValue v line col c
    (emit x (.develop c) (developed v p (tileIndex g line col) vg), countDevelopment g v line col c vg r)
  | .half => (emit x .half 0, { r with partials := satAdd Config.max32 r.partials 1 })
  | .carry => (emit x .carry 0, r)
  | .beyond => (emit x .beyond 0, r)

/-- All containers of a burst in order. -/
def developAll (g : CaptureCfg) (v : DevCfg) (p : Snapshot) : List Container → Stats → List OffByte × Stats
  | [], r => ([], r)
  | x :: rest, r =>
    let a := developContainer g v p x r
    let z := developAll g v p rest a.2
    (a.1 ++ z.1, z.2)

/-- Offset of the lowest partial container of a burst, if it carries one (R29). -/
def firstPartial (g : CaptureCfg) (xs : List Container) : Option Nat :=
  (xs.find? fun x => fate g x == .half).map Container.off

/-- The burst carries a strobed byte of the last active container (R13). -/
def strobesLast (g : CaptureCfg) (xs : List Container) : Bool :=
  xs.any fun x => x.off == lastContainer g && decide (0 < x.strobes)

/-! ## The beats as they leave (R28, R36) -/

/-- The lanes of a beat from lane `k` on, those of the burst replaced by the bytes given. A lane outside the burst's leaves
as it arrived, its strobe too, on a beat beyond the frame as on any other: R10 lets the strobes leave as they arrived, and
R172 says only that such a strobe counts as clear (DEDUCED, log 29). -/
def fillLanes (mine : Nat → Bool) : List (Byte × Bool) → Nat → List OffByte → List (Byte × Bool) × List OffByte
  | [], _, out => ([], out)
  | l :: ls, k, [] => (l :: (fillLanes mine ls (k + 1) []).1, [])
  | l :: ls, k, o :: out =>
    if mine k then
      let z := fillLanes mine ls (k + 1) out
      ((o.val, o.strb) :: z.1, z.2)
    else
      let z := fillLanes mine ls (k + 1) (o :: out)
      (l :: z.1, z.2)

/-- The beats from beat `n` on, with the bytes of the burst's lanes replaced by the bytes given. -/
def refill (b : Burst) : List Beat → Nat → List OffByte → List Beat
  | [], _, _ => []
  | bt :: rest, n, out =>
    let z := fillLanes (inLane b n) bt.lanes 0 out
    Beat.ofLanes z.1 :: refill b rest (n + 1) z.2

/-- What a collected burst comes to: its beats as they leave, the record after it, its lowest partial container, and
whether it strobes the last active container. -/
structure Development where
  beats : List Beat
  stats : Stats
  half : Option Nat
  closing : Bool

/-- Development of a collected capture write that starts at offset `off` (R10, R28, R29, R13). -/
def develop (x : SideCfg) (p : Snapshot) (b : Burst) (off : Nat) (beats : List Beat) (r : Stats) : Development :=
  let cs := pairUp (burstBytes b off beats 0)
  let z := developAll x.cap x.dev p cs r
  { beats := refill b beats 0 z.1, stats := z.2, half := firstPartial x.cap cs, closing := strobesLast x.cap cs }

end Sys2Proof.Machine
end

