-- ==== Sys2Proof/Machine/Status.lean ====
section
/-! DEFINITION. What the outside sees of the state: enable pins, the sections of the status page and their bytes
(R189), and the publish flags a command leaves set (R165). -/

namespace Sys2Proof.Machine

/-! ## Codes of R189: states numbered from 0 in the order their chapter lists them -/

def Health.code : Health → Nat
  | .off => 0
  | .powering => 1
  | .stabilizing => 2
  | .probing => 3
  | .running => 4
  | .degraded => 5
  | .failed => 6
  | .recovering => 7
  | .stopping => 8

def SeqState.code : SeqState → Nat
  | .low => 0
  | .raising => 1
  | .high => 2
  | .lowering => 3

def Scene.code : Scene → Nat
  | .day => 0
  | .dusk => 1
  | .night => 2

/-- Buffer states are 0 FREE, 1 FILLING, 2 READY, 3 SHOWN (R189). -/
def Buf.code : Buf → Nat
  | .free => 0
  | .filling => 1
  | .ready _ => 2
  | .shown _ => 3

/-- The frame a buffer record holds, where it is READY or SHOWN (R19). -/
def Buf.info : Buf → Option FrameInfo
  | .free => none
  | .filling => none
  | .ready f => some f
  | .shown f => some f

def FrameOutcome.code : FrameOutcome → Nat
  | .complete => 1
  | .acceptedShort => 2

def EntryKind.code : EntryKind → Nat
  | .probe => 1
  | .exposure => 2
  | .mailbox _ _ => 3

def MailOutcome.code : MailOutcome → Nat
  | .none => 0
  | .pending => 1
  | .done => 2
  | .refusedState => 3
  | .busy => 4
  | .noAnswer => 5
  | .badCheck => 6
  | .camRefused => 7
  | .cancelled => 8

def CmdResult.code : CmdResult → Nat
  | .none => 0
  | .done => 1
  | .refusedState => 2
  | .refusedArg => 3
  | .unknown => 4

def ReportType.code : ReportType → Nat
  | .raise => 0
  | .clear => 1
  | .event => 2

/-! ## Enable pins -/

/-- Sequence level of EN1 to EN3 (k = 0 to 2): asserted for the lines the step counts (R126). -/
def seqLevel (q : Sequencer) (k : Nat) : Bool := decide (k < q.step)

/-- Pin level of EN1 to EN3 (k = 0 to 2): released in reset, else the bypass value or the sequence level (R126, R129). -/
def pinLevel (s : State) (d : SideId) (k : Nat) : Bool :=
  let x := s.side d
  !s.inReset &&
    (if x.cfg.head.bypEn.getLsbD k then x.cfg.head.bypVal.getLsbD k else seqLevel x.seq k)

/-- Three levels as bits 0 to 2. -/
def levelBits (f : Nat → Bool) : Nat := natOfBits [f 0, f 1, f 2]

/-! ## Published fields -/

/-- Tiles of a side that are not CLEAR (R71). -/
def tilesNotClear (t : Table Tile 128) : Nat := t.list.countP fun x => x.state != .clear

/-- Link queue depth: entries waiting and the entry in flight (R148). -/
def linkDepth (k : Link) : Nat := k.waiting.length + (if k.inFlight.isSome then 1 else 0)

/-- In-flight kind, 0 for none (R148). -/
def linkKind (k : Link) : Nat :=
  match k.inFlight with
  | some e => e.kind.code
  | none => 0

/-- The fields of the GLOBAL section that do not flag it by themselves: the timebase (R150) and the current duties, whose
intermediate ramp steps do not flag it (R105). -/
def globalQuiet (s : State) : List FieldVal :=
  [⟨0x00, 4, s.time.toNat⟩, ⟨0x08, 2, s.backlight.left.cur⟩, ⟨0x0C, 2, s.backlight.right.cur⟩]

/-- The other fields of the GLOBAL section (R189). -/
def globalNoted (s : State) : List FieldVal :=
  [⟨0x04, 1, s.cab.code⟩, ⟨0x05, 1, s.lamp.on.toNat⟩, ⟨0x06, 1, s.pathFailing.toNat⟩,
   ⟨0x0A, 2, s.backlight.left.target⟩, ⟨0x0E, 2, s.backlight.right.target⟩,
   ⟨0x10, 1, natOfBits [s.snoop.cfg.bypL, s.snoop.cfg.bypR]⟩,
   ⟨0x14, 2, s.inj.w.toNat⟩, ⟨0x16, 2, s.inj.r.toNat⟩, ⟨0x18, 4, s.inj.seq.toNat⟩,
   ⟨0x1C, 2, s.faults.lost⟩, ⟨0x1E, 1, s.faults.queue.length⟩,
   ⟨0x20, 1, linkDepth s.link⟩, ⟨0x21, 1, linkKind s.link⟩,
   ⟨0x24, 4, s.snoop.cmdEcho.toNat⟩, ⟨0x28, 1, s.snoop.cmdResult.code⟩,
   ⟨0x2C, 1, s.left.reject⟩, ⟨0x2D, 1, s.right.reject⟩, ⟨0x2E, 1, s.snoop.reject⟩]
  ++ (List.range 6).flatMap fun n =>
    let r := s.link.results.get n ⟨0, .none, 0⟩
    [⟨0x30 + 4 * n, 1, r.tag.toNat⟩, ⟨0x31 + 4 * n, 1, r.outcome.code⟩, ⟨0x32 + 4 * n, 2, r.data.toNat⟩]

/-- The fields of a buffer record (R24, R189). -/
def bufFields (n : Nat) (b : Buf) : List FieldVal :=
  ⟨0x20 + 16 * n, 1, b.code⟩ ::
    match b.info with
    | some f =>
      [⟨0x21 + 16 * n, 1, f.outcome.code⟩, ⟨0x22 + 16 * n, 2, f.number.toNat⟩, ⟨0x24 + 16 * n, 4, f.completed.toNat⟩,
       ⟨0x28 + 16 * n, 4, f.signature.toNat⟩]
    | none => []

/-- The fields of the frame in progress: its buffer index and time of start, or index 3 (R24, R189). -/
def fipFields : Option Fip → List FieldVal
  | some f => [⟨0x14, 1, f.buf⟩, ⟨0x18, 4, f.start.toNat⟩]
  | none => [⟨0x14, 1, 3⟩, ⟨0x18, 4, 0⟩]

/-- The ROI total and the partial-pixel count of the last completed record, 0 while there is none (R43, R189). -/
def statsFields : Option Stats → List FieldVal
  | some r => [⟨0x6C, 4, r.total⟩, ⟨0x70, 4, r.partials⟩]
  | none => [⟨0x6C, 4, 0⟩, ⟨0x70, 4, 0⟩]

/-- The fields of a side's section (R24, R43, R62, R71, R81, R97, R131, R189). -/
def sideFields (d : SideId) (s : State) : List FieldVal :=
  let x := s.side d
  [⟨0x00, 1, x.head.health.code⟩, ⟨0x01, 1, x.head.cause⟩, ⟨0x02, 1, x.head.attempts⟩, ⟨0x03, 1, x.head.streak⟩,
   ⟨0x04, 1, x.seq.state.code⟩, ⟨0x05, 1, x.seq.step⟩, ⟨0x06, 1, levelBits (seqLevel x.seq)⟩,
   ⟨0x07, 1, levelBits (pinLevel s d)⟩, ⟨0x15, 1, x.configured.toNat⟩,
   ⟨0x08, 2, x.cap.frameNumber.toNat⟩, ⟨0x0C, 4, x.cap.accepted⟩, ⟨0x10, 4, x.cap.dropped⟩]
  ++ fipFields x.cap.fip
  ++ (List.range 3).flatMap (fun n => bufFields n (x.cap.bufs.get n .free))
  ++ [⟨0x50, 1, x.scene.state.code⟩,
   ⟨0x51, 1, match x.scene.candidate with | none => 0 | some c => c.code + 1⟩,
   ⟨0x52, 1, x.scene.persist⟩, ⟨0x54, 2, x.scene.key⟩, ⟨0x56, 2, tilesNotClear x.tiles⟩,
   ⟨0x58, 2, x.expo.m16⟩, ⟨0x5A, 2, x.expo.confirmed⟩, ⟨0x5C, 1, x.expo.settle⟩, ⟨0x60, 4, x.expo.aeHeld⟩,
   ⟨0x64, 1, x.disp.repeats⟩, ⟨0x68, 4, x.disp.lastAge.toNat⟩]
  ++ statsFields x.coll.last
  ++ (List.range 21).map fun e => ⟨0x80 + 2 * e, 2, x.tone.get e 0⟩

/-- The fields of the FAULTS section: four bytes a record (R153, R189). -/
def faultFields (s : State) : List FieldVal :=
  (List.range 40).flatMap fun i =>
    let r := s.faults.table.get i FaultRec.empty
    [⟨4 * i, 1, r.flag.toNat⟩, ⟨4 * i + 2, 2, r.count⟩]

/-- The fields of a section. -/
def pageFields (p : PageId) (s : State) : List FieldVal :=
  match p with
  | .global => globalQuiet s ++ globalNoted s
  | .faults => faultFields s
  | .left => sideFields .left s
  | .right => sideFields .right s

/-- `n` bytes of a layout; bytes outside its fields are 0 (R189). -/
def layoutBytes (n : Nat) (fs : List FieldVal) : List Byte := (List.range n).map (byteAt fs)

/-- The 32 beats of a section (R165). -/
def pageBeats (p : PageId) (s : State) : List Beat := beatsOfBytes 32 (layoutBytes 256 (pageFields p s))

/-- Place of a section in the block (R165). -/
def pageOff : PageId → Nat
  | .global => 0xC00
  | .left => 0xD00
  | .right => 0xE00
  | .faults => 0xF00

/-! ## Publication -/

/-- The publish flags after a command that took `pre` to `post`: a section whose published fields have changed is
flagged, and so is FAULTS when a record has changed (R165, R153). A change that the same command undoes is not seen here:
whether it flags its section is left open, and the model flags it where it can happen, in `rejectFrame`, `enterFailed` and
`enqueueEntry` (log 19). -/
def publish (pre post : State) : State :=
  { post with
    inj :=
      { post.inj with
        flagGlobal := post.inj.flagGlobal || decide (globalNoted pre ≠ globalNoted post)
        flagFaults := post.inj.flagFaults || decide (pre.faults.table ≠ post.faults.table)
        flagLeft := post.inj.flagLeft || decide (sideFields .left pre ≠ sideFields .left post)
        flagRight := post.inj.flagRight || decide (sideFields .right pre ≠ sideFields .right post) } }

/-- A command with effect `f`: nothing happens while RESET_N is asserted (log 1); else the effect, and the sections it
changed are flagged. -/
def act (f : State → State) (s : State) : Host.Outcome State Fault Refusal :=
  .next (if s.inReset then s else publish s (f s))

end Sys2Proof.Machine
end

