-- ==== Sys2Proof/Machine/Backlight.lean ====
section
/-! DEFINITION. The backlight unit (chapter 6, R99 to R109): targets, ramp, bypass and PWM periods. -/

namespace Sys2Proof.Machine

/-- A side's monitor. -/
def State.monitor (s : State) (d : SideId) : Monitor :=
  match d with
  | .left => s.backlight.left
  | .right => s.backlight.right

/-- The state with one monitor changed. -/
def updMonitor (d : SideId) (f : Monitor → Monitor) (s : State) : State :=
  match d with
  | .left => { s with backlight := { s.backlight with left := f s.backlight.left } }
  | .right => { s with backlight := { s.backlight with right := f s.backlight.right } }

/-- A monitor's bypass is on (R99). -/
def bypassOn (g : GlobalCfg) : SideId → Bool
  | .left => g.bypL
  | .right => g.bypR

/-- A monitor's bypass duty (R99). -/
def bypassDuty (g : GlobalCfg) : SideId → Nat
  | .left => g.bypDutyL
  | .right => g.bypDutyR

/-- The cab-state duty (R103). -/
def cabDuty (g : GlobalCfg) : Scene → Nat
  | .day => g.blDay
  | .dusk => g.blDusk
  | .night => g.blNight

/-- The target duty of a monitor (R103). -/
def targetOf (s : State) (d : SideId) : Nat :=
  if (s.side d).head.health = .failed then max (cabDuty s.snoop.cfg s.cab) s.snoop.cfg.blFailMin
  else cabDuty s.snoop.cfg s.cab

/-- A monitor's target is re-formed, and a change flags the global section (R103). -/
def reformTarget (d : SideId) (s : State) : State :=
  let t := targetOf s d
  if (s.monitor d).target = t then s else flagPage .global (updMonitor d (fun m => { m with target := t }) s)

/-- The ramp interval in µs (R104). -/
def rampInterval (g : GlobalCfg) : Nat := 4000 * 4 ^ g.rampCode

/-- The ramp timer is due (R104). -/
def rampDue (s : State) : Bool := dueAt s s.backlight.rampTimer (rampInterval s.snoop.cfg)

/-- One step of a duty toward its target (R105). -/
def stepDuty (step cur target : Nat) : Nat :=
  if cur < target then min target (cur + step) else if target < cur then max target (cur - step) else cur

/-- A monitor at a tick: stepped when its bypass is off (R105, R106). -/
def tickMonitor (g : GlobalCfg) (d : SideId) (m : Monitor) : Monitor :=
  if bypassOn g d then m else { m with cur := stepDuty g.rampStep m.cur m.target }

/-- The tick brought the monitor's duty to its target (R105). -/
def arrives (g : GlobalCfg) (d : SideId) (m : Monitor) : Bool :=
  decide (m.cur ≠ m.target) && decide ((tickMonitor g d m).cur = m.target)

/-- A tick of the ramp timer (R104, R105). -/
def rampTickOp (s : State) : State :=
  let g := s.snoop.cfg
  let b := s.backlight
  let s1 :=
    { s with
      backlight :=
        { b with left := tickMonitor g .left b.left, right := tickMonitor g .right b.right, rampTimer := some s.time } }
  if arrives g .left b.left || arrives g .right b.right then flagPage .global s1 else s1

/-- A bypass takes effect at a successful global apply; a released one keeps the duty held (R106, R107). -/
def takeBypass (d : SideId) (s : State) : State :=
  if bypassOn s.snoop.cfg d then updMonitor d (fun m => { m with cur := bypassDuty s.snoop.cfg d }) s else s

/-- The first successful global apply starts the unit (R100, R104). -/
def startBacklight (s : State) : State :=
  if s.backlight.running then s
  else { s with backlight := { s.backlight with running := true, rampTimer := some s.time } }

/-- The backlight unit takes a successful global apply (R108). -/
def backlightApply (s : State) : State :=
  let s1 := takeBypass .right (takeBypass .left (reformTarget .right (reformTarget .left s)))
  if rampDue s1 then rampTickOp s1 else s1

/-- High time of a period of length `p` with duty `duty` (R101). -/
def highTime (p duty : Nat) : Nat := p * duty / 1000

/-- A monitor at the start of a period of length `p` (R101, R102). -/
def periodMonitor (p : Nat) (m : Monitor) : Monitor := { m with out := m.cur, high := decide (0 < highTime p m.cur) }

/-- The running period's length has passed (R102). -/
def periodDue (s : State) : Bool := decide (s.backlight.periodLen ≤ s.since s.backlight.periodStart)

/-- A new period begins (R102). -/
def periodStartOp (s : State) : State :=
  let p := s.snoop.cfg.blPeriod
  let b := s.backlight
  { s with
    backlight :=
      { b with left := periodMonitor p b.left, right := periodMonitor p b.right, periodStart := s.time, periodLen := p } }

/-- An output's high time has ended within its period (R101). -/
def highEndDue (d : SideId) (s : State) : Bool :=
  (s.monitor d).high && decide ((s.monitor d).out < 1000) &&
    decide (highTime s.backlight.periodLen (s.monitor d).out ≤ s.since s.backlight.periodStart)

/-- The output falls (R101). -/
def highEndOp (d : SideId) (s : State) : State := updMonitor d (fun m => { m with high := false }) s

/-! ## The commands -/

/-- RAMP_TICK (R104, R105). -/
def execRampTick (s : State) : Host.Outcome State Fault Refusal :=
  act (fun s => if rampDue s then rampTickOp s else s) s

/-- PWM_PERIOD_START (R102). -/
def execPwmPeriodStart (s : State) : Host.Outcome State Fault Refusal :=
  act (fun s => if periodDue s then periodStartOp s else s) s

/-- PWM_HIGH_TIME_END (R101). -/
def execPwmHighTimeEnd (d : SideId) (s : State) : Host.Outcome State Fault Refusal :=
  act (fun s => if highEndDue d s then highEndOp d s else s) s

end Sys2Proof.Machine
end

