-- ==== Sys2Proof/Machine/Tone.lean ====
section
/-! DEFINITION. The tone unit (chapter 3, R44 to R51): the automatic curve, the monotone pass and host curves. -/

namespace Sys2Proof.Machine

/-- Sum of a list of counts. -/
def sumOf : List Nat → Nat
  | [] => 0
  | x :: rest => x + sumOf rest

/-- Clip limit L (R47, step 1). -/
def clipLimit (total clip : Nat) : Nat := max 1 (total * clip / 256)

/-- Excess Ex (R47, step 2). -/
def clipExcess (limit : Nat) (h : List Nat) : Nat := sumOf (h.map fun x => x - limit)

/-- Clipped bins H' (R47, step 3). -/
def clippedBins (limit : Nat) (h : List Nat) : List Nat :=
  h.map fun x => min x limit + clipExcess limit h / 20

/-- Cumulative counts C, given the sum before the list (R48, step 4). -/
def cumulate : Nat → List Nat → List Nat
  | _, [] => []
  | acc, x :: rest => (acc + x) :: cumulate (acc + x) rest

/-- Target node at cumulative count `c` of `c19` (R48, step 5). -/
def targetNode (floor c c19 : Nat) : Nat := floor + roundHalfUp ((Config.toneMax - floor) * c) c19

/-- The 21 target nodes (R47, R48). -/
def targetCurve (t : ToneCfg) (r : Stats) : List Nat :=
  let h := clippedBins (clipLimit r.total t.clip) r.hist.list
  let cs := cumulate 0 h
  t.blackFloor :: cs.map fun c => targetNode t.blackFloor c (sumOf h)

/-- The blend of one node toward its target (R49). -/
def blendNode (alpha old target : Nat) : Nat :=
  let d : Int := (target : Int) - old
  let q := Int.tdiv (d * alpha) 16
  let step := if q = 0 ∧ d ≠ 0 then (if 0 < d then 1 else -1) else q
  ((old : Int) + step).toNat

/-- The monotone pass, given the node already passed below (R50). -/
def monotoneFrom : Nat → List Nat → List Nat
  | _, [] => []
  | lo, x :: rest => max x lo :: monotoneFrom (max x lo) rest

/-- The monotone pass over a curve (R50): N0 keeps its value. -/
def monotone (t : Table Nat 21) : Table Nat 21 := Table.ofFn 21 fun e => (monotoneFrom 0 t.list).getD e 0

/-- The curve after an accepted completion with this record (R45, R46). -/
def toneUpdate (t : ToneCfg) (cur : Table Nat 21) (r : Stats) : Table Nat 21 :=
  if t.host || r.total == 0 then cur
  else
    let goal := targetCurve t r
    monotone (Table.ofFn 21 fun e => blendNode t.alpha (cur.get e 0) (goal.getD e 0))

/-- The curve after a successful side apply (R45, R51). -/
def toneInstall (t : ToneCfg) (cur : Table Nat 21) : Table Nat 21 := if t.host then monotone t.hostNodes else cur

end Sys2Proof.Machine
end

