-- ==== Sys2Proof/Machine/Scene.lean ====
section
/-! DEFINITION. The scene monitors, the lamp state and the cab state (chapter 4, R72 to R81). -/

namespace Sys2Proof.Machine

/-- The exposure octave X16 of a confirmed exposure (R74). -/
def exposureOctave (e : Nat) : Nat := 16 * Nat.log2 e + 16 * (e - 2 ^ Nat.log2 e) / 2 ^ Nat.log2 e

/-- The sum over the bins of e · H_e, from bin `e` on (R54). -/
def octaveSum : List Nat → Nat → Nat
  | [], _ => 0
  | h :: rest, e => e * h + octaveSum rest (e + 1)

/-- M16 of a record, 0 for one with T = 0 (R54). -/
def meanOctave (r : Stats) : Nat :=
  if r.total = 0 then 0 else min 304 (16 * octaveSum r.hist.list 0 / r.total)

/-- The scene key K (R75). -/
def sceneKey (r : Stats) (e : Nat) : Nat := meanOctave r + 256 - exposureOctave e

/-- An effective threshold (R77). -/
def effective (c : SceneCfg) (lampOn : Bool) (t : Nat) : Nat := if lampOn then t + c.lampBias else t

/-- The verdict of a completion with key `k` (R77). -/
def verdict (c : SceneCfg) (lampOn : Bool) (st : Scene) (k : Nat) : Option Scene :=
  match st with
  | .day => if k < effective c lampOn c.duskEnter then some .dusk else none
  | .dusk =>
    if effective c lampOn c.duskExit < k then some .day
    else if k < effective c lampOn c.nightEnter then some .night else none
  | .night => if effective c lampOn c.nightExit < k then some .dusk else none

/-- The verdict acts on the candidate and the count (R78). -/
def takeVerdict (c : SceneCfg) (v : Option Scene) (m : SceneMon) : SceneMon :=
  match v with
  | none => { m with candidate := none, persist := 0 }
  | some x =>
    let n := if m.candidate = some x then m.persist + 1 else 1
    if c.persist ≤ n then { m with state := x, candidate := none, persist := 0 }
    else { m with candidate := some x, persist := n }

/-- The scene monitor at the hand-off of a record, with confirmed exposure `e` (R75, R77, R78). -/
def sceneUpdate (c : SceneCfg) (lampOn : Bool) (e : Nat) (r : Stats) (m : SceneMon) : SceneMon :=
  if r.total = 0 ∨ e = 0 then m
  else
    let k := sceneKey r e
    takeVerdict c (verdict c lampOn m.state k) { m with key := k }

/-- The darker of two scene states (R80). -/
def Scene.darker (a b : Scene) : Scene := if a.code < b.code then b else a

/-- The cab state a re-forming gives (R80). -/
def cabOf (s : State) : Scene :=
  if s.left.inService then
    (if s.right.inService then s.left.scene.state.darker s.right.scene.state else s.left.scene.state)
  else if s.right.inService then s.right.scene.state
  else s.cab

/-- The cab state is re-formed; a change flags the global section and re-forms both targets (R80, R103). -/
def reformCab (s : State) : State :=
  let c := cabOf s
  if s.cab = c then s
  else reformTarget .right (reformTarget .left (flagPage .global { s with cab := c }))

/-- The scene monitor of a side takes a completion (R75, R78, R80). -/
def sceneCompletion (d : SideId) (r : Stats) (s : State) : State :=
  let x := s.side d
  let m := sceneUpdate x.cfg.scene s.lamp.on x.expo.confirmed r x.scene
  let s1 := updSide d (fun x => { x with scene := m }) s
  if m.state = x.scene.state then s1 else reformCab s1

/-! ## The lamp state (R76) -/

/-- The lamp level: LAMPS read through LAMP_POL. -/
def lampLevel (s : State) : Bool := s.lamp.pin != s.snoop.cfg.lampPol

/-- The lamp level is compared with the lamp state: a difference keeps or starts the measurement, agreement abandons
it. -/
def lampCompare (s : State) : State :=
  if lampLevel s = s.lamp.on then { s with lamp := { s.lamp with measure := none } }
  else if s.lamp.measure.isSome then s
  else { s with lamp := { s.lamp with measure := some s.time } }

/-- The lamp level is read anew: a measurement in progress is abandoned, and one starts if the level differs. -/
def lampRestart (s : State) : State := lampCompare { s with lamp := { s.lamp with measure := none } }

/-- The measurement is complete. -/
def lampDue (s : State) : Bool := dueAt s s.lamp.measure Config.lampMicros

/-- The lamp state takes the lamp level. -/
def lampTake (s : State) : State := { s with lamp := { s.lamp with on := lampLevel s, measure := none } }

/-- LAMPS takes a level. -/
def lampPin (level : Bool) (s : State) : State := { s with lamp := { s.lamp with pin := level } }

/-! ## The commands -/

/-- LAMPS_LEVEL_CHANGE (R76). In reset only the level on the pin changes. -/
def execLampsLevelChange (level : Bool) (s : State) : Host.Outcome State Fault Refusal :=
  if s.inReset then .next (lampPin level s) else act (fun s => lampCompare (lampPin level s)) s

/-- LAMP_MEASUREMENT_EXPIRY (R76). -/
def execLampMeasurementExpiry (s : State) : Host.Outcome State Fault Refusal :=
  act (fun s => if lampDue s then lampTake s else s) s

end Sys2Proof.Machine
end

