-- ==== Sys2Proof/Machine/Exposure.lean ====
section
/-! DEFINITION. The exposure unit (chapter 3, R52 to R61). -/

namespace Sys2Proof.Machine

/-- A side's exposure unit changed. -/
def updExpo (d : SideId) (f : Exposure → Exposure) (s : State) : State :=
  updSide d (fun x => { x with expo := f x.expo }) s

/-- An EXPOSURE entry writing `v` is queued, and the request becomes present (R53, R57). -/
def queueExposure (d : SideId) (v : Nat) (s : State) : State :=
  enqueueEntry
    { kind := .exposure, side := d, read := false, reg := (s.side d).cfg.expo.expoReg, data := BitVec.ofNat 16 v,
      attempts := 0 }
    (updExpo d (fun e => { e with request := true }) s)

/-- The error of a measured M16 (R57, step 1). -/
def expoError (c : ExpoCfg) (m16 : Nat) : Int := (c.target16 : Int) - m16

/-- The ratio, limited to 192 and 320 (R57, step 2). -/
def expoRatio (c : ExpoCfg) (m16 : Nat) : Nat := (max 192 (min 320 (256 + expoError c m16 * c.aeGain))).toNat

/-- The new exposure, limited to E_MIN and E_MAX (R57, step 3). -/
def newExposure (c : ExpoCfg) (m16 e : Nat) : Nat := clampNat c.eMin c.eMax (gainMul e (expoRatio c m16))

/-- The exposure step makes a request (R57). -/
def expoWanted (c : ExpoCfg) (m16 e : Nat) : Bool :=
  decide (c.deadband < (expoError c m16).natAbs) && decide (newExposure c m16 e ≠ e)

/-- The exposure step of a completion whose record has ROI total `total` (R57). -/
def exposureStep (d : SideId) (total : Nat) (s : State) : State :=
  let x := s.side d
  if total ≠ 0 ∧ expoWanted x.cfg.expo x.expo.m16 x.expo.confirmed = true then
    queueExposure d (newExposure x.cfg.expo x.expo.m16 x.expo.confirmed) s
  else s

/-- The unit acts: the settle step, or the exposure step (R56). -/
def exposureActs (d : SideId) (total : Nat) (s : State) : State :=
  if 0 < (s.side d).expo.settle then updExpo d (fun e => { e with settle := e.settle - 1 }) s
  else exposureStep d total s

/-- The exposure unit takes a completion with this record (R54, R55). -/
def exposureCompletion (d : SideId) (r : Stats) (s : State) : State :=
  let s1 := updExpo d (fun e => { e with m16 := meanOctave r }) s
  let x := s1.side d
  if x.inService && !x.cfg.expo.manual && decide (x.expo.confirmed ≠ 0) && !x.expo.request then
    exposureActs d r.total s1
  else
    let s2 := updExpo d (fun e => { e with aeHeld := satAdd Config.max32 e.aeHeld 1 }) s1
    if x.inService && !x.cfg.expo.manual && !x.expo.request then queueExposure d x.cfg.expo.eInit s2 else s2

/-- A DONE write of register `reg` with value `v` is tested as a confirmation (R60). -/
def confirmExposure (d : SideId) (reg v : Half) (s : State) : State :=
  if (s.side d).cfg.expo.expoReg = reg then
    updSide d (fun x => { x with expo := { x.expo with confirmed := v.toNat, settle := x.cfg.expo.settle } }) s
  else s

end Sys2Proof.Machine
end

