-- ==== Sys2Proof/Machine/Head.lean ====
section
/-! DEFINITION. The head controller and the power sequencer (chapter 7, R110 to R130), with the frame watchdog (R22) and
the display watchdog (R93). An operation that can discard a frame in progress takes `release`, what follows the discard:
the release of an apply deferred behind that frame (R18; log 11). -/

namespace Sys2Proof.Machine

/-- A side's head controller changed. -/
def updHead (d : SideId) (f : Head → Head) (s : State) : State := updSide d (fun x => { x with head := f x.head }) s

/-- A side's power sequencer changed. -/
def updSeq (d : SideId) (f : Sequencer → Sequencer) (s : State) : State := updSide d (fun x => { x with seq := f x.seq }) s

/-! ## The power sequencer (R126 to R128) -/

/-- A RAISE request: EN1 at once (R127). -/
def seqRaise (d : SideId) (s : State) : State :=
  updSeq d (fun _ => { state := .raising, step := 1, timer := some (s.timer (s.side d).cfg.head.delay12) }) s

/-- LOW is reported to the head controller (R122, R123). -/
def reportLow (d : SideId) (s : State) : State :=
  let x := s.side d
  if x.head.awaitingLower then
    match x.head.health with
    | .recovering =>
      updHead d (fun h =>
        { h with awaitingLower := false, stageTimer := some (s.timer (x.cfg.head.offDwellMs * 1000)) }) s
    | .stopping => updHead d (fun h => { h with awaitingLower := false, health := .off }) s
    | .off => updHead d (fun h => { h with awaitingLower := false }) s
    | .powering => updHead d (fun h => { h with awaitingLower := false }) s
    | .stabilizing => updHead d (fun h => { h with awaitingLower := false }) s
    | .probing => updHead d (fun h => { h with awaitingLower := false }) s
    | .running => updHead d (fun h => { h with awaitingLower := false }) s
    | .degraded => updHead d (fun h => { h with awaitingLower := false }) s
    | .failed => updHead d (fun h => { h with awaitingLower := false }) s
  else s

/-- The highest asserted line is released: the lower goes on to the next line after a delay, or LOW is reported
(R128). -/
def seqRelease (d : SideId) (s : State) : State :=
  let x := s.side d
  match x.seq.step with
  | 3 => updSeq d (fun _ => { state := .lowering, step := 2, timer := some (s.timer x.cfg.head.delay23) }) s
  | 2 => updSeq d (fun _ => { state := .lowering, step := 1, timer := some (s.timer x.cfg.head.delay12) }) s
  | _ => reportLow d (updSeq d (fun _ => { state := .low, step := 0, timer := none }) s)

/-- A LOWER request (R128). -/
def seqLower (d : SideId) (s : State) : State :=
  match (s.side d).seq.state with
  | .high => seqRelease d s
  | .raising => seqRelease d s
  | .lowering => s
  | .low => reportLow d s

/-! ## Entries to health states -/

/-- What every entry to POWERING does (R113, steps 1 to 5). -/
def enterPowering (d : SideId) (s : State) : State :=
  seqRaise d
    (updSide d (fun x =>
      { x with
        tiles := clearTiles
        expo := { x.expo with confirmed := 0, settle := 0 }
        cap := { x.cap with prevSig := none, identical := 0 }
        head := { x.head with health := .powering, goodFrames := 0, streak := 0 } }) s)

/-- A side leaves OFF for POWERING (R113). -/
def powerUp (d : SideId) (s : State) : State :=
  enterPowering d (updHead d (fun h => { h with attempts := 0, cause := 0 }) s)

/-- The raise is complete: POWERING becomes STABILIZING (R114). -/
def raiseComplete (d : SideId) (s : State) : State :=
  let x := s.side d
  if x.head.health = .powering then
    updHead d (fun h => { h with health := .stabilizing, stageTimer := some (s.timer (x.cfg.head.stabMs * 1000)) }) s
  else s

/-- STABILIZING becomes PROBING, and the probe is queued (R114). -/
def enterProbing (d : SideId) (s : State) : State :=
  enqueueEntry { kind := .probe, side := d, read := true, reg := (s.side d).cfg.head.idReg, data := 0, attempts := 0 }
    (updHead d (fun h => { h with health := .probing, stageTimer := none }) s)

/-- PROBING becomes RUNNING (R116). -/
def enterRunning (d : SideId) (s : State) : State :=
  let s1 := updHead d (fun h => { h with health := .running, cause := 0, goodFrames := 0, runCount := 0 }) s
  let s2 := startWatchdogs d s1
  let x := s2.side d
  reformCab (if x.cfg.expo.manual then s2 else queueExposure d x.cfg.expo.eInit s2)

/-- A degrading cause with its code of R112 (R117). -/
def degrade (d : SideId) (code : Nat) (s : State) : State :=
  match (s.side d).head.health with
  | .running =>
    raiseCond .sideDegraded (scopeOf d) (BitVec.ofNat 32 code)
      (updHead d (fun h => { h with health := .degraded, goodFrames := 0, cause := code }) s)
  | .degraded => updHead d (fun h => { h with goodFrames := 0, cause := code }) s
  | .off => s
  | .powering => s
  | .stabilizing => s
  | .probing => s
  | .failed => s
  | .recovering => s
  | .stopping => s

/-- The conditions a side loses when it leaves FAILED or DEGRADED for RECOVERING or STOPPING (R122, R123). -/
def clearHealth (d : SideId) (s : State) : State :=
  clearCond .sideDegraded (scopeOf d)
    (clearCond .cameraFrozen (scopeOf d) (clearCond .sideFailed (scopeOf d) s))

/-- What an entry to RECOVERING or STOPPING does after its health cause is set: conditions cleared, teardown, watchdogs
stopped, link entries cancelled, stage timer stopped, cab state and target re-formed, LOWER asked for (R122, R123).
`was` says that the side was a member before. -/
def leaveUp (release : State → State) (was : Bool) (d : SideId) (s : State) : State :=
  let s1 := stopWatchdogs d (teardownRelease release d (clearHealth d s))
  let s2 := updHead d (fun h => { h with stageTimer := none }) (cancelSide d s1)
  let s3 := reformTarget d (if was then reformCab s2 else s2)
  seqLower d (updHead d (fun h => { h with awaitingLower := true }) s3)

/-- Entry to RECOVERING (R122). -/
def enterRecovering (release : State → State) (d : SideId) (s : State) : State :=
  leaveUp release (s.side d).inService d (followPin s (updHead d (fun h => { h with health := .recovering }) s))

/-- Entry to STOPPING (R123). -/
def enterStopping (release : State → State) (d : SideId) (s : State) : State :=
  leaveUp release (s.side d).inService d (followPin s (updHead d (fun h => { h with health := .stopping, cause := 9 }) s))

/-- The automatic recovery test (R121). -/
def recoveryTest (release : State → State) (d : SideId) (s : State) : State :=
  let x := s.side d
  if x.cfg.head.autoRecover then
    if x.head.attempts < x.cfg.head.recoverMax then
      enterRecovering release d (updHead d (fun h => { h with attempts := h.attempts + 1 }) s)
    else raiseEvent .recoveryExhausted (scopeOf d) (BitVec.ofNat 32 x.head.attempts) s
  else s

/-- Entry to FAILED with its cause (R120). FAULT_N is asserted for as long as the side is FAILED, be it a passage into
automatic recovery (R168); and a record of the FAULTS section changes, whatever the passage changes back (R153). -/
def enterFailed (release : State → State) (d : SideId) (code : Nat) (s : State) : State :=
  let s0 := flagPage .faults s
  let s1 := followPin s0 (updHead d (fun h => { h with health := .failed, cause := code }) s0)
  let s2 := clearCond .sideDegraded (scopeOf d) s1
  let s3 := raiseCond .sideFailed (scopeOf d) (BitVec.ofNat 32 code) s2
  let s4 := stopWatchdogs d (teardownRelease release d s3)
  recoveryTest release d (reformTarget d (reformCab s4))

/-- A failure cause of a running side: it has no effect in any other state (R120). -/
def failRunning (release : State → State) (d : SideId) (code : Nat) (s : State) : State :=
  if (s.side d).inService then enterFailed release d code s else s

/-! ## Frames and link outcomes (R118, R119, R121) -/

/-- The run count of an accepted completion, and the attempts count it may zero (R121). -/
def countRun (d : SideId) (s : State) : State :=
  updSide d (fun x =>
    let n := satAdd Config.max16 x.head.runCount 1
    { x with
      head :=
        { x.head with runCount := n, attempts := if x.cfg.head.recoverClear ≤ n then 0 else x.head.attempts } }) s

/-- A COMPLETE frame: the good-frame count rises, and a DEGRADED side may return to RUNNING (R119). -/
def goodFrame (d : SideId) (s : State) : State :=
  let s1 := updHead d (fun h => { h with goodFrames := satAdd Config.max16 h.goodFrames 1 }) s
  let x := s1.side d
  if x.head.health = .degraded ∧ x.cfg.head.degradeClear ≤ x.head.goodFrames ∧
      isActive .viewStale (scopeOf d) s1 = false then
    clearCond .sideDegraded (scopeOf d) (updHead d (fun h => { h with health := .running, cause := 0 }) s1)
  else s1

/-- The head controller takes the outcome of an accepted frame (R15 step 6, R119, R121). -/
def headFrame (d : SideId) (o : FrameOutcome) (s : State) : State :=
  if (s.side d).inService then
    match o with
    | .complete => goodFrame d (countRun d s)
    | .acceptedShort => degrade d 4 (countRun d s)
  else s

/-- A final link success zeroes the streak (R118). -/
def streakDone (d : SideId) (s : State) : State := updHead d (fun h => { h with streak := 0 }) s

/-- A final link failure raises the streak, and at the limit it is a degrading cause (R118). -/
def streakFail (d : SideId) (s : State) : State :=
  let s1 := updHead d (fun h => { h with streak := satAdd 255 h.streak 1 }) s
  if (s1.side d).cfg.head.linkFailLimit ≤ (s1.side d).head.streak then degrade d 7 s1 else s1

/-! ## Watchdogs -/

/-- The frame watchdog is due (R21). It runs in RUNNING and DEGRADED. -/
def frameDue (d : SideId) (s : State) : Bool :=
  (s.side d).inService && dueAt s (s.side d).cap.watchdog (s.side d).cfg.cap.frameTimeout

/-- The frame watchdog expires (R22). -/
def frameExpiry (release : State → State) (d : SideId) (s : State) : State :=
  let n := satAdd 15 (s.side d).cap.expiries 1
  let s1 := updCap d (fun c => { c with expiries := n }) s
  let s2 := raiseEvent .frameMissing (scopeOf d) (BitVec.ofNat 32 n) s1
  let s3 := updCap d (fun c => { c with watchdog := some s.time }) s2
  if (s3.side d).cfg.cap.missingLimit ≤ n then failRunning release d 1 s3 else s3

/-- The display watchdog is due (R92, R93). -/
def displayDue (d : SideId) (s : State) : Bool :=
  (s.side d).inService && !(s.side d).disp.expired &&
    dueAt s (s.side d).disp.watchdog (s.side d).cfg.disp.displayTimeout

/-- The display watchdog expires (R93). -/
def displayExpiry (d : SideId) (s : State) : State :=
  let start := (s.side d).disp.watchdog.getD 0
  raiseCond .displayIdle (scopeOf d) start (updDisp d (fun p => { p with expired := true }) s)

/-! ## Stage and step timers -/

/-- The stage timer is due in STABILIZING (R114). -/
def stabDue (d : SideId) (s : State) : Bool :=
  (s.side d).head.health == .stabilizing && timerDue s (s.side d).head.stageTimer

/-- The stage timer is due in RECOVERING (R122). -/
def dwellDue (d : SideId) (s : State) : Bool :=
  (s.side d).head.health == .recovering && timerDue s (s.side d).head.stageTimer

/-- The dwell ends: the timer stops and the side enters POWERING (R122). -/
def dwellEnd (d : SideId) (s : State) : State :=
  enterPowering d (updHead d (fun h => { h with stageTimer := none }) s)

/-- The step timer is due during a raise (R127). -/
def raiseDue (d : SideId) (s : State) : Bool :=
  (s.side d).seq.state == .raising && timerDue s (s.side d).seq.timer

/-- The next enable is asserted (R127). -/
def raiseStep (d : SideId) (s : State) : State :=
  let x := s.side d
  if x.seq.step = 1 then
    updSeq d (fun _ => { state := .raising, step := 2, timer := some (s.timer x.cfg.head.delay23) }) s
  else raiseComplete d (updSeq d (fun _ => { state := .high, step := 3, timer := none }) s)

/-- The step timer is due during a lower (R128). -/
def lowerDue (d : SideId) (s : State) : Bool :=
  (s.side d).seq.state == .lowering && timerDue s (s.side d).seq.timer

/-! ## Probe outcomes (R115) -/

/-- A probe that failed: the event with its detail, then FAILED with cause 3. -/
def probeFailed (release : State → State) (d : SideId) (detail : BitVec 32) (s : State) : State :=
  enterFailed release d 3 (raiseEvent .probeFailed (scopeOf d) detail s)

/-- A probe answered DONE with this data. -/
def probeDone (release : State → State) (d : SideId) (data : Half) (s : State) : State :=
  if data = (s.side d).cfg.head.idExpect then enterRunning d s else probeFailed release d (data.setWidth 32) s

end Sys2Proof.Machine
end

