-- ==== Sys2Proof/Machine/Validate.lean ====
section
/-! DEFINITION. The pending values of the settings with their clamps (R189 and the owning chapters), and the validation
of an apply (R186). -/

namespace Sys2Proof.Machine

/-! ## Pending values -/

/-- A 32-bit pending field as an address. -/
def Image.addr (m : Image) (off : Nat) : Addr := BitVec.ofNat 32 (Image.field m off 4)

/-- A 16-bit pending field. -/
def Image.half (m : Image) (off : Nat) : Half := BitVec.ofNat 16 (Image.field m off 2)

/-- Bits 0 to 2 of a pending byte. -/
def Image.bits3 (m : Image) (off : Nat) : BitVec 3 := (Image.get m off).setWidth 3

/-- The pending global settings, clamped (R99, R133, R152, R189). -/
def pendingGlobal (m : Image) : GlobalCfg where
  ringBase := m.field 0x010 4
  ringSize := m.field 0x014 1
  attnLevel := min 4 (m.field 0x015 1)
  faultPinLevel := min 4 (m.field 0x016 1)
  lampPol := m.bit 0x017 0
  levelCapture := min 3 (m.field 0x018 1)
  levelDisplay := min 3 (m.field 0x019 1)
  levelCamera := min 3 (m.field 0x01A 1)
  levelHealth := min 3 (m.field 0x01B 1)
  levelSettings := min 3 (m.field 0x01C 1)
  levelPath := min 3 (m.field 0x01D 1)
  linkDivisor := m.field 0x020 1
  linkTimeout := m.field 0x021 1
  linkRetries := min 3 (m.field 0x022 1)
  blPeriod := m.field 0x030 2
  blDay := min 1000 (m.field 0x032 2)
  blDusk := min 1000 (m.field 0x034 2)
  blNight := min 1000 (m.field 0x036 2)
  blFailMin := min 1000 (m.field 0x038 2)
  rampCode := m.field 0x03A 1 % 4
  rampStep := clampNat 1 100 (m.field 0x03B 1)
  bypL := m.bit 0x03C 0
  bypR := m.bit 0x03C 1
  bypDutyL := min 1000 (m.field 0x03E 2)
  bypDutyR := min 1000 (m.field 0x040 2)

/-- Pending capture settings of the side area at `o` (R1). -/
def pendingCapture (m : Image) (o : Nat) : CaptureCfg where
  capCode := m.addr (o + 0x004)
  capMask := m.addr (o + 0x008)
  dispCode := m.addr (o + 0x00C)
  dispMask := m.addr (o + 0x010)
  width := m.field (o + 0x014) 2
  height := m.field (o + 0x016) 2
  pitch := m.field (o + 0x018) 2
  bufBase := Table.ofFn 3 fun n => m.addr (o + 0x020 + 4 * n)
  fallback := m.addr (o + 0x02C)
  frameTimeout := m.field (o + 0x030) 4
  missingLimit := m.field (o + 0x034) 1
  freezeLimit := m.field (o + 0x035) 1
  shortTolerance := m.field (o + 0x036) 1

/-- Pending development settings, clamped (R26). -/
def pendingDev (m : Image) (o : Nat) : DevCfg where
  knee1 := m.field (o + 0x040) 2
  knee2 := m.field (o + 0x042) 2
  knee3 := m.field (o + 0x044) 2
  shift0 := m.field (o + 0x046) 1
  shift1 := m.field (o + 0x047) 1
  shift2 := m.field (o + 0x048) 1
  shift3 := m.field (o + 0x049) 1
  black := m.field (o + 0x04A) 2
  gain00 := min 4095 (m.field (o + 0x04C) 2)
  gain01 := min 4095 (m.field (o + 0x04E) 2)
  gain10 := min 4095 (m.field (o + 0x050) 2)
  gain11 := min 4095 (m.field (o + 0x052) 2)
  glareKnee := min Config.linMax (m.field (o + 0x054) 4)
  roiX0 := m.field (o + 0x058) 2
  roiX1 := m.field (o + 0x05A) 2
  roiY0 := m.field (o + 0x05C) 2
  roiY1 := m.field (o + 0x05E) 2

/-- Pending tone settings, clamped (R44). -/
def pendingTone (m : Image) (o : Nat) : ToneCfg where
  host := m.bit (o + 0x060) 0
  blackFloor := m.field (o + 0x062) 2 % 1024
  clip := max 1 (m.field (o + 0x064) 1)
  alpha := clampNat 1 16 (m.field (o + 0x065) 1)
  hostNodes := Table.ofFn 21 fun e => min Config.toneMax (m.field (o + 0x066 + 2 * e) 2)

/-- Pending exposure settings (R52). -/
def pendingExpo (m : Image) (o : Nat) : ExpoCfg where
  manual := m.bit (o + 0x090) 0
  target16 := m.field (o + 0x092) 2 % 512
  deadband := m.field (o + 0x094) 1
  aeGain := m.field (o + 0x095) 1
  settle := m.field (o + 0x096) 1 % 16
  eInit := m.field (o + 0x098) 2
  eMin := m.field (o + 0x09A) 2
  eMax := m.field (o + 0x09C) 2
  expoReg := m.half (o + 0x09E)

/-- Pending glare settings, clamped (R63). -/
def pendingGlare (m : Image) (o : Nat) : GlareCfg where
  enterCount := m.field (o + 0x0A0) 2
  exitCount := m.field (o + 0x0A2) 2
  onsetFrames := m.field (o + 0x0A4) 1
  rampDown := max 1 (m.field (o + 0x0A5) 1)
  rampUp := max 1 (m.field (o + 0x0A6) 1)
  releaseHold := m.field (o + 0x0A7) 1
  aMin := clampNat 16 256 (m.field (o + 0x0A8) 2)

/-- Pending scene settings (R72). -/
def pendingScene (m : Image) (o : Nat) : SceneCfg where
  duskExit := m.field (o + 0x0B0) 2
  duskEnter := m.field (o + 0x0B2) 2
  nightExit := m.field (o + 0x0B4) 2
  nightEnter := m.field (o + 0x0B6) 2
  persist := m.field (o + 0x0B8) 1
  lampBias := m.field (o + 0x0B9) 1

/-- Pending display settings (R82). -/
def pendingDisp (m : Image) (o : Nat) : DispCfg where
  staleLimit := m.field (o + 0x0C0) 1
  latencyLimit := m.field (o + 0x0C4) 4
  displayTimeout := m.field (o + 0x0C8) 4

/-- Pending head settings (R110, R133). -/
def pendingHead (m : Image) (o : Nat) : HeadCfg where
  autoStart := m.bit (o + 0x0D0) 0
  autoRecover := m.bit (o + 0x0D1) 0
  recoverMax := m.field (o + 0x0D2) 1
  degradeClear := m.field (o + 0x0D3) 1
  linkFailLimit := m.field (o + 0x0D4) 1
  recoverClear := m.field (o + 0x0D6) 2
  stabMs := m.field (o + 0x0D8) 2
  offDwellMs := m.field (o + 0x0DA) 2
  delay12 := m.field (o + 0x0DC) 2
  delay23 := m.field (o + 0x0DE) 2
  idReg := m.half (o + 0x0E0)
  idExpect := m.half (o + 0x0E2)
  camAddr := m.field (o + 0x0E4) 1
  bypEn := m.bits3 (o + 0x0E5)
  bypVal := m.bits3 (o + 0x0E6)

/-- The pending settings of a side, clamped (R189). -/
def pendingSide (d : SideId) (m : Image) : SideCfg where
  cap := pendingCapture m (sideArea d)
  dev := pendingDev m (sideArea d)
  tone := pendingTone m (sideArea d)
  expo := pendingExpo m (sideArea d)
  glare := pendingGlare m (sideArea d)
  scene := pendingScene m (sideArea d)
  disp := pendingDisp m (sideArea d)
  head := pendingHead m (sideArea d)

/-! ## Validation (R186) -/

/-- `v` lies in `lo` to `hi`. -/
def inRange (lo hi v : Nat) : Bool := decide (lo ≤ v) && decide (v ≤ hi)

/-- A mask is a run of ones from bit 31 down to a bit from 12 to 28 (code 1). -/
def maskOk (m : Addr) : Bool := (List.range 17).any fun k => m.toNat == 2 ^ 32 - 2 ^ (k + 12)

/-- Ranges of a list do not overlap each other. -/
def disjointAll : List Range → Bool
  | [] => true
  | r :: rest => (rest.all fun x => !r.overlaps x) && disjointAll rest

/-- No range of one list overlaps a range of the other. -/
def disjointFrom (xs ys : List Range) : Bool := xs.all fun x => ys.all fun y => !x.overlaps y

/-- A side's two windows under these settings. -/
def cfgWindows (c : CaptureCfg) : List Range := [window c.capCode c.capMask, window c.dispCode c.dispMask]

/-- The active windows of a side, once it is configured. -/
def activeWindows (x : Side) : List Range := if x.configured then cfgWindows x.cfg.cap else []

/-- The area of `n` bytes from a base. -/
def areaAt (base : Addr) (n : Nat) : Range := ⟨base.toNat, base.toNat + n - 1⟩

/-- The bases of a side that hold a frame area: the buffers, and the fallback image when there is one (R186, code 5). -/
def bases (c : CaptureCfg) : List Addr := c.bufBase.list ++ (if c.fallback = 0 then [] else [c.fallback])

/-- The frame areas keep apart from one another and from everything else (code 5). -/
def areasOk (c : CaptureCfg) (others : List Range) : Bool :=
  ((bases c).all fun b => b.toNat % 64 == 0 && decide (b.toNat + c.area ≤ 2 ^ 32)) &&
    disjointAll ((bases c).map fun b => areaAt b c.area) &&
    disjointFrom ((bases c).map fun b => areaAt b c.area) others

/-- The geometry fields are in range (code 3). -/
def geometryOk (c : CaptureCfg) : Bool :=
  inRange 64 2048 c.width && c.width % 4 == 0 && inRange 64 2048 c.height && c.pitch % 8 == 0 &&
    decide (2 * c.width ≤ c.pitch) && decide (c.pitch ≤ 8192)

/-- The region of interest lies in the frame and is not empty (code 6). -/
def roiOk (c : CaptureCfg) (v : DevCfg) : Bool :=
  decide (v.roiX0 < v.roiX1) && decide (v.roiX1 ≤ c.width) && decide (v.roiY0 < v.roiY1) && decide (v.roiY1 ≤ c.height)

/-- Knees rising and shifts in range (code 7). -/
def kneesOk (v : DevCfg) : Bool :=
  decide (1 ≤ v.knee1) && decide (v.knee1 < v.knee2) && decide (v.knee2 < v.knee3) && decide (v.knee3 ≤ 4095) &&
    decide (v.shift0 ≤ 8) && decide (v.shift1 ≤ 8) && decide (v.shift2 ≤ 8) && decide (v.shift3 ≤ 8)

/-- Scene thresholds in range and in order (code 8). -/
def sceneOk (c : SceneCfg) : Bool :=
  inRange 1 560 c.duskExit && inRange 1 560 c.duskEnter && inRange 1 560 c.nightExit && inRange 1 560 c.nightEnter &&
    decide (c.nightEnter < c.nightExit) && decide (c.nightExit ≤ c.duskEnter) && decide (c.duskEnter < c.duskExit)

/-- Exposure limits in order (code 9). -/
def expoOk (c : ExpoCfg) : Bool :=
  decide (1 ≤ c.eMin) && decide (c.eMin ≤ c.eInit) && decide (c.eInit ≤ c.eMax)

/-- The head's address is in range and not the other side's (code 10). -/
def camOk (h other : HeadCfg) : Bool := inRange 1 127 h.camAddr && h.camAddr != other.camAddr

/-- Glare counts in order (code 11). -/
def glareOk (c : GlareCfg) : Bool := decide (1 ≤ c.enterCount) && decide (c.exitCount ≤ c.enterCount)

/-- The timing fields of a side are in range (code 13). -/
def timingOk (x : SideCfg) : Bool :=
  inRange 1000 1000000 x.cap.frameTimeout && inRange 1 15 x.cap.missingLimit && inRange 1 255 x.cap.freezeLimit &&
    inRange 0 15 x.cap.shortTolerance && inRange 1 15 x.glare.onsetFrames && inRange 0 14 x.glare.releaseHold &&
    inRange 1 255 x.scene.persist && inRange 1 255 x.disp.staleLimit && inRange 1000 1000000 x.disp.latencyLimit &&
    inRange 1000 1000000 x.disp.displayTimeout && inRange 0 15 x.head.recoverMax && inRange 1 65535 x.head.recoverClear &&
    inRange 1 255 x.head.degradeClear && inRange 1 15 x.head.linkFailLimit && inRange 1 1000 x.head.stabMs &&
    inRange 1 5000 x.head.offDwellMs && inRange 1 50000 x.head.delay12 && inRange 1 50000 x.head.delay23

/-- The first code whose requirement does not hold, 0 when all hold. -/
def firstBroken : List (Nat × Bool) → Nat
  | [] => 0
  | (code, ok) :: rest => if ok then firstBroken rest else code

/-- The reason a side apply with these settings is refused, 0 when it is valid: the lowest code broken (R186). `other` is
the other side and `block` the settings block. -/
def sideReason (x : SideCfg) (other : Side) (block : Range) : Nat :=
  let beyond := block :: activeWindows other
  firstBroken
    [(1, maskOk x.cap.capMask && maskOk x.cap.dispMask),
     (2, disjointAll (cfgWindows x.cap) && disjointFrom (cfgWindows x.cap) beyond),
     (3, geometryOk x.cap),
     (4, decide (x.cap.area ≤ windowSize x.cap.capMask) && decide (x.cap.area ≤ windowSize x.cap.dispMask)),
     (5, areasOk x.cap (cfgWindows x.cap ++ beyond)),
     (6, roiOk x.cap x.dev),
     (7, kneesOk x.dev),
     (8, sceneOk x.scene),
     (9, expoOk x.expo),
     (10, camOk x.head other.cfg.head),
     (11, glareOk x.glare),
     (13, timingOk x)]

/-- Records of the ring for a RING_SIZE code (R152, R160). -/
def ringCount (size : Nat) : Nat := if 1 ≤ size ∧ size ≤ 5 then 8 * 2 ^ size else 0

/-- The ring's place and size are legal (code 12). -/
def ringOk (g : GlobalCfg) : Bool :=
  decide (g.ringSize ≤ 5) && g.ringBase % 32 == 0 &&
    (g.ringSize == 0 || decide (g.ringBase + 32 * ringCount g.ringSize ≤ 2 ^ 32))

/-- The reason a global apply with these settings is refused, 0 when it is valid (R186). -/
def globalReason (g : GlobalCfg) : Nat :=
  firstBroken [(12, ringOk g), (13, inRange 50 5000 g.blPeriod && decide (1 ≤ g.linkTimeout))]

end Sys2Proof.Machine
end

