-- ==== Sys2Proof/Machine/Apply.lean ====
section
/-! DEFINITION. Applies (R184 to R187): refusal, the side apply with its deferral and release, the global apply with the
ring's reconfiguration. -/

namespace Sys2Proof.Machine

/-! ## Refusal (R187) -/

/-- A side apply is refused with a reason code. -/
def refuseSide (d : SideId) (code : Nat) (s : State) : State :=
  flagPage .global
    (updSide d (fun x => { x with reject := code })
      (raiseEvent .configRejected (scopeOf d) (BitVec.ofNat 32 code) s))

/-- A global apply is refused with a reason code. -/
def refuseGlobal (code : Nat) (s : State) : State :=
  let s1 := raiseEvent .configRejected .global (BitVec.ofNat 32 code) s
  flagPage .global { s1 with snoop := { s1.snoop with reject := code } }

/-! ## Side apply (R185) -/

/-- A geometry change between two capture settings (R185). -/
def geometryChange (a b : CaptureCfg) : Bool :=
  a.capCode != b.capCode || a.capMask != b.capMask || a.dispCode != b.dispCode || a.dispMask != b.dispMask ||
    decide (a.bufBase ≠ b.bufBase) || a.fallback != b.fallback || a.width != b.width || a.height != b.height ||
    a.pitch != b.pitch

/-- The side's settings and what they install: the settings become active, the side becomes configured, a HOST curve is
installed and a raised A_MIN lifts the tile gains (R185 steps 1, 2 and 4). -/
def adoptSide (x : Side) (c : SideCfg) : Side :=
  { x with
    cfg := c
    configured := true
    reject := 0
    tone := toneInstall c.tone x.tone
    tiles := liftTiles x.cfg.glare.aMin c.glare.aMin x.tiles }

/-- The watchdogs are compared at once with their intervals (R185 step 6). No frame is in progress. R185 gives the two
comparisons no order; the frame watchdog goes first, so that where both are due and its expiry fails the side, the display
watchdog has stopped and raises no DISPLAY_IDLE (DESIGN CHOICE, log 31). -/
def compareWatchdogs (d : SideId) (s : State) : State :=
  let s1 := if frameDue d s then frameExpiry id d s else s
  if displayDue d s1 then displayExpiry d s1 else s1

/-- A valid side apply is applied (R185). -/
def applySide (d : SideId) (c : SideCfg) (s : State) : State :=
  let x := s.side d
  let s1 := updSide d (fun x => adoptSide x c) s
  let s2 := if !x.configured || geometryChange x.cfg.cap c.cap then teardown d s1 else s1
  let s3 := compareWatchdogs d s2
  let s4 := if !x.configured && c.head.autoStart then powerUp d s3 else s3
  flagPage .global (flagPage (pageOf d) s4)

/-- The reason a side apply made now is refused, 0 when it is valid (R186). -/
def sideApplyReason (d : SideId) (s : State) : Nat :=
  sideReason (pendingSide d s.snoop.image) (s.side d.other) (blockRange s.anchor)

/-- A side's pending settings are applied or refused now (R185). -/
def applyNow (d : SideId) (s : State) : State :=
  if sideApplyReason d s = 0 then applySide d (pendingSide d s.snoop.image) s
  else refuseSide d (sideApplyReason d s) s

/-- A side's deferred flag set to a value. -/
def setDeferred (d : SideId) (v : Bool) (s : State) : State := updSide d (fun x => { x with deferred := v }) s

/-- The APPLY word of a side is written (R185). -/
def sideApply (d : SideId) (s : State) : State :=
  if sideApplyReason d s = 0 then
    if (s.side d).cap.fip.isSome then setDeferred d true s else applyNow d s
  else setDeferred d false (applyNow d s)

/-- The frame an apply was deferred behind has ended (R18, R185). -/
def releaseDeferred (d : SideId) (s : State) : State :=
  if (s.side d).deferred then applyNow d (setDeferred d false s) else s

/-! ## Global apply (R184) -/

/-- A ring record in flight was addressed to a ring that has been reconfigured (R161). -/
def staleBurst (b : InjBurst) : InjBurst :=
  match b.kind with
  | .ringRecord o c l _ => { b with kind := .ringRecord o c l true }
  | .page p => { b with kind := .page p }

/-- The ring is reconfigured (R161). -/
def reconfigureRing (s : State) : State :=
  flagPage .global
    { s with
      inj := { s.inj with w := 0, r := 0, attn := false, inflight := s.inj.inflight.map staleBurst }
      snoop := { s.snoop with image := Image.put (Image.put s.snoop.image 0x004 0) 0x005 0 } }

/-- The first successful global apply starts the injector and the backlight, and flags all four sections (R162, R184). -/
def startService (s : State) : State :=
  if s.inj.serving then s
  else
    startBacklight
      { s with
        inj :=
          { s.inj with serving := true, flagGlobal := true, flagFaults := true, flagLeft := true, flagRight := true } }

/-- A valid global apply is applied (R184); a changed level re-judges FAULT_N at once (R168). -/
def adoptGlobal (g : GlobalCfg) (s : State) : State :=
  let old := s.snoop.cfg
  let s1 := startService (followPin s { s with snoop := { s.snoop with cfg := g, reject := 0 } })
  let s2 := if old.ringBase != g.ringBase || old.ringSize != g.ringSize then reconfigureRing s1 else s1
  let s3 := backlightApply s2
  flagPage .global (if old.lampPol != g.lampPol then lampRestart s3 else s3)

/-- The GLOBAL_APPLY word is written (R184). -/
def globalApplyOp (s : State) : State :=
  let g := pendingGlobal s.snoop.image
  if globalReason g = 0 then adoptGlobal g s else refuseGlobal (globalReason g) s

end Sys2Proof.Machine
end

