-- ==== Sys2Proof/Machine/HeadTimers.lean ====
section
/-! DEFINITION. The commands of a side's own timers: the two watchdogs, the stage timer and the step timer (R22, R93,
R114, R122, R127, R128). -/

namespace Sys2Proof.Machine

/-- FRAME_MISSING (R22). -/
def execFrameMissing (d : SideId) (s : State) : Host.Outcome State Fault Refusal :=
  act (fun s => if frameDue d s then frameExpiry (releaseDeferred d) d s else s) s

/-- DISPLAY_IDLE (R93). -/
def execDisplayIdle (d : SideId) (s : State) : Host.Outcome State Fault Refusal :=
  act (fun s => if displayDue d s then displayExpiry d s else s) s

/-- STABILIZATION_EXPIRY (R114). -/
def execStabilizationExpiry (d : SideId) (s : State) : Host.Outcome State Fault Refusal :=
  act (fun s => if stabDue d s then enterProbing d s else s) s

/-- OFF_DWELL_EXPIRY (R122). -/
def execOffDwellExpiry (d : SideId) (s : State) : Host.Outcome State Fault Refusal :=
  act (fun s => if dwellDue d s then dwellEnd d s else s) s

/-- RAISE_STEP_EXPIRY (R127). -/
def execRaiseStepExpiry (d : SideId) (s : State) : Host.Outcome State Fault Refusal :=
  act (fun s => if raiseDue d s then raiseStep d s else s) s

/-- LOWER_STEP_EXPIRY (R128). -/
def execLowerStepExpiry (d : SideId) (s : State) : Host.Outcome State Fault Refusal :=
  act (fun s => if lowerDue d s then seqRelease d s else s) s

end Sys2Proof.Machine
end

