-- ==== Sys2Proof/Machine/Link.lean ====
section
/-! DEFINITION. The link controller's line (chapter 8, R134 to R141): reception, judgement, final outcomes, guard. -/

namespace Sys2Proof.Machine

/-- The result of an attempt (R137, R138). DONE carries the response data. -/
inductive Attempt where
  | done (data : Half)
  | refused
  | badCheck
  | noAnswer
  deriving DecidableEq, Repr

/-- A character received with a framing error or a mark bit of 1 (R137, test 1). -/
def rxBad (c : RxChar) : Bool := !c.stop || c.mark

/-- A 16-bit value from its two bytes. -/
def halfOf (hi lo : Byte) : Half := hi ++ lo

/-- Judgement of a response to an entry (R137). -/
def judge (e : LinkEntry) (c1 c2 c3 c4 : RxChar) : Attempt :=
  if rxBad c1 || rxBad c2 || rxBad c3 || rxBad c4 then .badCheck
  else if c4.data ≠ xorBytes [c1.data, c2.data, c3.data] then .badCheck
  else if c1.data = 0x5A then .refused
  else if c1.data ≠ 0xA5 then .badCheck
  else if !e.read && halfOf c2.data c3.data != e.data then .badCheck
  else .done (halfOf c2.data c3.data)

/-! ## Final outcomes (R141) -/

/-- The detail of a link event: 65,536 · k + register (R141). -/
def linkDetail (e : LinkEntry) : BitVec 32 := BitVec.ofNat 32 (65536 * e.kind.code + e.reg.toNat)

/-- Step 1: the fault event. -/
def outcomeEvent (e : LinkEntry) (a : Attempt) (s : State) : State :=
  match a with
  | .done _ => s
  | .refused => raiseEvent .linkRefused (scopeOf e.side) (linkDetail e) s
  | .badCheck => raiseEvent .linkBadCheck (scopeOf e.side) (linkDetail e) s
  | .noAnswer => raiseEvent .linkNoAnswer (scopeOf e.side) (linkDetail e) s

/-- Step 2: the streak (R118). -/
def outcomeStreak (e : LinkEntry) (a : Attempt) (s : State) : State :=
  match a with
  | .done _ => streakDone e.side s
  | .refused => streakFail e.side s
  | .badCheck => streakFail e.side s
  | .noAnswer => streakFail e.side s

/-- A PROBE outcome at the head controller (R115). -/
def outcomeProbe (d : SideId) (a : Attempt) (s : State) : State :=
  match a with
  | .done v => probeDone (releaseDeferred d) d v s
  | .refused => probeFailed (releaseDeferred d) d 0x10001 s
  | .badCheck => probeFailed (releaseDeferred d) d 0x10002 s
  | .noAnswer => probeFailed (releaseDeferred d) d 0x10003 s

/-- A MAILBOX outcome as a result (R147). -/
def resultOf (tag : Byte) (a : Attempt) : MailResult :=
  match a with
  | .done v => ⟨tag, .done, v⟩
  | .refused => ⟨tag, .camRefused, 0⟩
  | .badCheck => ⟨tag, .badCheck, 0⟩
  | .noAnswer => ⟨tag, .noAnswer, 0⟩

/-- Step 3: the owner. -/
def outcomeOwner (e : LinkEntry) (a : Attempt) (s : State) : State :=
  match e.kind with
  | .probe => outcomeProbe e.side a s
  | .exposure => updExpo e.side (fun x => { x with request := false }) s
  | .mailbox slot tag => setResult slot (resultOf tag a) s

/-- Step 4: a DONE of a write is tested as an exposure confirmation (R60). -/
def outcomeConfirm (e : LinkEntry) (a : Attempt) (s : State) : State :=
  match a with
  | .done _ => if e.read then s else confirmExposure e.side e.reg e.data s
  | .refused => s
  | .badCheck => s
  | .noAnswer => s

/-- A final outcome is handed on. The entry has left the first position, and the controller is in GUARD (R141; log 23). -/
def finalOutcome (e : LinkEntry) (a : Attempt) (s : State) : State :=
  outcomeConfirm e a (outcomeOwner e a (outcomeStreak e a (outcomeEvent e a s)))

/-- The attempt may be retried by its result (R140). -/
def Attempt.retriable : Attempt → Bool
  | .done _ => false
  | .refused => false
  | .badCheck => true
  | .noAnswer => true

/-- An attempt ends with a result: GUARD, and a retry or the final outcome (R139, R140). -/
def endAttempt (a : Attempt) (s : State) : State :=
  let s1 := enterGuard s
  match s.link.inFlight with
  | some e =>
    if a.retriable && decide (e.attempts ≤ s.snoop.cfg.linkRetries) then s1
    else finalOutcome e a (updLink (fun k => { k with inFlight := none }) s1)
  | none => s1

/-! ## Reception (R135, R139) -/

/-- A start edge while the part listens for a character; `low` is the sample half a bit time later (R135). -/
def startEdgeOp (low : Bool) (s : State) : State :=
  if s.link.line.listening && s.link.receiving.isNone && low then
    updLink (fun k => { k with receiving := some s.refNow, silence := none }) s
  else s

/-- The character being received reaches the middle of its stop bit, ten and a half bit times after its start edge
(R135). -/
def characterDue (s : State) : Bool :=
  match s.link.receiving with
  | some t => s.link.line.listening && decide (10 * bitRef s.link.divisor + bitRef s.link.divisor / 2 ≤ s.refSince t)
  | none => false

/-- The first, second or third response character is complete (R138, R139). -/
def characterOp (c : RxChar) (s : State) : State :=
  updLink (fun k =>
    { k with
      chars := k.chars ++ [c]
      receiving := none
      silence := some s.refNow
      line := if k.line = .awaiting then .receiving else k.line }) s

/-- The fourth response character is complete: judged, or discarded when DRAINING (R137, R139). -/
def responseOp (c : RxChar) (s : State) : State :=
  match s.link.line with
  | .draining => enterGuard s
  | .idle => s
  | .guard => s
  | .sending => s
  | .awaiting => receive
  | .receiving => receive
where
  /-- The response is judged against the entry in flight. -/
  receive : State :=
    match s.link.inFlight, s.link.chars with
    | some e, [c1, c2, c3] => endAttempt (judge e c1 c2 c3 c) s
    | some _, _ => s
    | none, _ => s

/-! ## Line timers (R138, R139) -/

/-- The sixth request character has ended. -/
def sentDue (s : State) : Bool :=
  s.link.line == .sending && s.link.cutAt.isNone && decide (6 * charRef s.link.divisor ≤ s.refSince s.link.txStart)

/-- The character being sent at a cancellation has ended. -/
def cutDue (s : State) : Bool :=
  match s.link.cutAt with
  | some t => s.link.line == .sending && decide (t ≤ s.refSince s.link.txStart)
  | none => false

/-- Silence has lasted LINK_TIMEOUT character times (R138). -/
def silenceDue (s : State) : Bool :=
  match s.link.silence with
  | some t => s.link.line.listening && decide (s.link.timeout * charRef s.link.divisor ≤ s.refSince t)
  | none => false

/-- The guard of two character times has passed (R139). -/
def guardDue (s : State) : Bool :=
  s.link.line == .guard && decide (2 * charRef s.link.divisor ≤ s.refSince s.link.guardStart)

/-- The request is sent: AWAITING, with the silence interval running (R138, R139). -/
def sentOp (s : State) : State := updLink (fun k => { k with line := .awaiting, silence := some s.refNow }) s

/-- The timeout of R138: the attempt is judged NO_ANSWER, or the drain ends (R139). -/
def silenceOp (s : State) : State := if s.link.line = .draining then enterGuard s else endAttempt .noAnswer s

/-! ## The commands -/

/-- REQUEST_SENT (R139). -/
def execRequestSent (s : State) : Host.Outcome State Fault Refusal :=
  act (fun s => if sentDue s then sentOp s else s) s

/-- CANCELLED_CHARACTER_END (R139, R144). -/
def execCancelledCharacterEnd (s : State) : Host.Outcome State Fault Refusal :=
  act (fun s => if cutDue s then enterGuard s else s) s

/-- RESPONSE_RECEIVED (R137). -/
def execResponseReceived (c : RxChar) (s : State) : Host.Outcome State Fault Refusal :=
  act (fun s => if characterDue s && s.link.chars.length == 3 then responseOp c s else s) s

/-- NO_ANSWER (R138). -/
def execNoAnswer (s : State) : Host.Outcome State Fault Refusal :=
  act (fun s => if silenceDue s then silenceOp s else s) s

/-- GUARD_END (R139). -/
def execGuardEnd (s : State) : Host.Outcome State Fault Refusal :=
  act (fun s => if guardDue s then startNext s else s) s

/-- START_EDGE (R135). -/
def execStartEdge (low : Bool) (s : State) : Host.Outcome State Fault Refusal := act (startEdgeOp low) s

/-- RESPONSE_CHARACTER_COMPLETE (R139). -/
def execResponseCharacterComplete (c : RxChar) (s : State) : Host.Outcome State Fault Refusal :=
  act (fun s => if characterDue s && decide (s.link.chars.length < 3) then characterOp c s else s) s

end Sys2Proof.Machine
end

