-- ==== Sys2Proof/Machine/Capture.lean ====
section
/-! DEFINITION. The capture tracker (chapter 1, R4 to R19): start, truncation and completion of a frame. -/

namespace Sys2Proof.Machine

/-! ## Start of a frame (R6) -/

/-- The frame-in-progress record at the start of a frame in buffer `n` (R5). -/
def freshFip (n : Nat) (now : Time) : Fip :=
  { buf := n, lines := 1, highest := 0, writeError := false, outstanding := 0, closing := false, start := now }

/-- The frame snapshot taken now (R30). -/
def takeSnapshot (x : Side) : Snapshot := { nodes := x.tone, gains := x.tiles.map Tile.gain }

/-- A side at the start of a frame in buffer `n` (R6, R30, R37). -/
def startSide (n : Nat) (now : Time) (x : Side) : Side :=
  { x with
    cap := { x.cap with bufs := x.cap.bufs.set n .filling, fip := some (freshFip n now) }
    coll := { x.coll with acc := some (Stats.fresh x.scene.state), snap := takeSnapshot x } }

/-- A frame starts in the FREE buffer of the lowest index (R6). -/
def startFrame (d : SideId) (s : State) : State :=
  match firstFree (s.side d).cap.bufs with
  | some n => updSide d (startSide n s.time) s
  | none => s

/-! ## Rejection (R7, R14, R17) -/

/-- A frame is rejected: its buffer is freed, its record and its statistics go (R17), and the side's section is flagged,
whatever the buffer is next (R19, R24). -/
def rejectFrame (d : SideId) (f : Fip) (s : State) : State :=
  flagPage (pageOf d)
    (updSide d (fun x =>
      { x with
        cap := { x.cap with bufs := x.cap.bufs.set f.buf .free, fip := none }
        coll := { x.coll with acc := none } }) s)

/-- A frame is truncated by a repeated line 0, and an apply that waited for it is taken (R7, R18). -/
def truncateFrame (d : SideId) (f : Fip) (s : State) : State :=
  let s1 := raiseEvent .lineShortfall (scopeOf d) (BitVec.ofNat 32 f.lines) s
  releaseDeferred d (orphanWrites d (rejectFrame d f s1))

/-! ## Completion (R14 to R16) -/

/-- The outcomes of a completion (R14). -/
inductive Completion where
  | rejected (shortfall : Bool)
  | accepted (o : FrameOutcome)
  deriving DecidableEq, Repr

/-- The outcome the record decides, first row first (R14). -/
def outcomeOf (c : CaptureCfg) (f : Fip) : Completion :=
  if f.writeError then .rejected false
  else if f.lines = c.height then .accepted .complete
  else if c.height - f.lines ≤ c.shortTolerance then .accepted .acceptedShort
  else .rejected true

/-- The buffer table of an accepted completion: the filled buffer becomes READY and an older READY one FREE (R15 steps 2
and 3). -/
def acceptBufs (n : Nat) (info : FrameInfo) (t : Table Buf 3) : Table Buf 3 :=
  match readyBuf t with
  | some (k, _) => (t.set k .free).set n (.ready info)
  | none => t.set n (.ready info)

/-- The capture tracker at an accepted completion: frame number, accepted and dropped counts, buffer table, and the
record removed (R15 steps 1 to 3). -/
def acceptCapture (f : Fip) (o : FrameOutcome) (sig : BitVec 32) (now : Time) (c : Capture) : Capture :=
  let num := c.frameNumber + 1
  { c with
    bufs := acceptBufs f.buf ⟨num, now, sig, o⟩ c.bufs
    fip := none
    frameNumber := num
    accepted := satAdd Config.max32 c.accepted 1
    dropped := if (readyBuf c.bufs).isSome then satAdd Config.max32 c.dropped 1 else c.dropped }

/-- The tone unit and the glare map of a side act on the last completed record (R46, R66). -/
def curveAndTiles (r : Stats) (x : Side) : Side :=
  { x with tone := toneUpdate x.cfg.tone x.tone r, tiles := glareUpdate x.cfg.glare x.tiles r }

/-- The statistics hand-off: the accumulating record becomes the last completed one and the four consumers act (R15
step 4, R42). -/
def handOff (d : SideId) (r : Stats) (s : State) : State :=
  let s1 := updSide d (fun x => curveAndTiles r { x with coll := { x.coll with acc := none, last := some r } }) s
  sceneCompletion d r (exposureCompletion d r s1)

/-- The identical count after a frame with this signature (R16). -/
def identicalAfter (c : Capture) (sig : BitVec 32) : Nat :=
  if c.prevSig = some sig then satAdd 255 c.identical 1 else 0

/-- The freeze check (R16). The frame is no longer in progress, so nothing is released behind a teardown here. -/
def freezeCheck (d : SideId) (sig : BitVec 32) (s : State) : State :=
  let n := identicalAfter (s.side d).cap sig
  let s1 := updCap d (fun c => { c with prevSig := some sig, identical := n }) s
  if (s1.side d).cfg.cap.freezeLimit ≤ n then failRunning id d 2 (raiseCond .cameraFrozen (scopeOf d) sig s1) else s1

/-- The effects of an accepted completion in the order of R15. The LINE_SHORTFALL of an ACCEPTED_SHORT frame is raised as
its outcome is decided (R14), before step 1, so that its report carries the frame number from before the frame: the manual
gives R14's fault no place among the steps (DEDUCED, log 30). -/
def acceptFrame (d : SideId) (f : Fip) (o : FrameOutcome) (s : State) : State :=
  let r := (s.side d).coll.acc.getD (Stats.fresh .day)
  let s0 :=
    if o = .acceptedShort then raiseEvent .lineShortfall (scopeOf d) (BitVec.ofNat 32 f.lines) s else s
  let s3 := updCap d (acceptCapture f o r.signature s.time) s0
  let s4 := handOff d r s3
  let s5 := updCap d (fun c => { c with watchdog := some s.time, expiries := 0 }) s4
  flagPage (pageOf d) (freezeCheck d r.signature (headFrame d o s5))

/-- A frame completes, and an apply that waited for it is taken after all its effects (R14, R18). -/
def completeFrame (d : SideId) (f : Fip) (s : State) : State :=
  match outcomeOf (s.side d).cfg.cap f with
  | .accepted o => releaseDeferred d (acceptFrame d f o s)
  | .rejected short =>
    let s1 := if short then raiseEvent .lineShortfall (scopeOf d) (BitVec.ofNat 32 f.lines) s else s
    releaseDeferred d (rejectFrame d f s1)

/-- The frame completes if its closing flag is set and no write is outstanding (R13). -/
def tryComplete (d : SideId) (s : State) : State :=
  match (s.side d).cap.fip with
  | some f => if f.closing && f.outstanding == 0 then completeFrame d f s else s
  | none => s

/-! ## Lines (R8) -/

/-- The frame-in-progress record changed, where there is one. -/
def updFip (d : SideId) (g : Fip → Fip) (s : State) : State := updCap d (fun c => { c with fip := c.fip.map g }) s

/-- A line start above line 0 with a frame in progress: counted, or LINE_ORDER (R8). -/
def lineStarted (d : SideId) (line : Nat) (f : Fip) (s : State) : State :=
  if line ≤ f.highest then raiseEvent .lineOrder (scopeOf d) (BitVec.ofNat 32 line) s
  else updFip d (fun f => { f with lines := f.lines + 1, highest := line }) s

end Sys2Proof.Machine
end

