-- ==== Sys2Proof/Machine/Display.lean ====
section
/-! DEFINITION. The display redirector (chapter 5, R84 to R93): the display frame start and the source of a read. -/

namespace Sys2Proof.Machine

/-! ## Display frame start (R88 to R91) -/

/-- The buffer table swaps (R89). -/
def swapFrames (d : SideId) (s : State) : State :=
  clearCond .viewStale (scopeOf d)
    (updSide d (fun x =>
      { x with cap := { x.cap with bufs := x.cap.bufs.map swapBuf }, disp := { x.disp with repeats := 0 } }) s)

/-- A frame start with a SHOWN buffer and no READY one: the repeat count rises, and at STALE_LIMIT VIEW_STALE is raised
and handed to the head controller (R90, R95). -/
def repeatFrame (d : SideId) (s : State) : State :=
  let n := satAdd 255 (s.side d).disp.repeats 1
  let s1 := updDisp d (fun p => { p with repeats := n }) s
  if (s1.side d).cfg.disp.staleLimit ≤ n ∧ isActive .viewStale (scopeOf d) s1 = false then
    degrade d 5 (raiseCond .viewStale (scopeOf d) (BitVec.ofNat 32 n) s1)
  else s1

/-- Step 1 of a frame start: the swap, or the repeat (R89, R90). -/
def swapOrRepeat (d : SideId) (s : State) : State :=
  if (readyBuf (s.side d).cap.bufs).isSome then swapFrames d s
  else if (shownBuf (s.side d).cap.bufs).isSome then repeatFrame d s
  else s

/-- Step 2: the age of the shown frame, and VIEW_LATE (R91, R95). -/
def ageCheck (d : SideId) (s : State) : State :=
  match shownBuf (s.side d).cap.bufs with
  | some (_, f) =>
    let age := s.time - f.completed
    let s1 := updDisp d (fun p => { p with lastAge := age }) s
    if (s1.side d).cfg.disp.latencyLimit < age.toNat then degrade d 6 (raiseEvent .viewLate (scopeOf d) age s1) else s1
  | none => s

/-- Step 3: the watchdog restarts in RUNNING and DEGRADED, and DISPLAY_IDLE is cleared (R92, R93). -/
def restartDisplay (d : SideId) (s : State) : State :=
  if (s.side d).inService then
    clearCond .displayIdle (scopeOf d) (updDisp d (fun p => { p with watchdog := some s.time, expired := false }) s)
  else s

/-- A display frame start is taken: steps 1 to 3 of R88. -/
def frameStart (d : SideId) (s : State) : State := restartDisplay d (ageCheck d (swapOrRepeat d s))

/-! ## Source of a read (R84, R12) -/

/-- Where a decoded read is served from: a downstream address, counted as an outstanding display read or not, or zeros by
the part. -/
inductive Source where
  | memory (addr : Addr) (counted : Bool)
  | zeros
  deriving DecidableEq, Repr

/-- The last offset of a burst that starts at offset `off`. -/
def lastOffset (b : Burst) (off : Nat) : Nat := off + ((byteRange b).2 - (byteRange b).1)

/-- The base of a buffer (R19). -/
def bufBase (c : CaptureCfg) (n : Nat) : Addr := c.bufBase.get n 0

/-- Source of a display read that starts at offset `off` (R84, R85). -/
def displaySource (x : Side) (b : Burst) (off : Nat) : Source :=
  let c := x.cfg.cap
  if c.area ≤ lastOffset b off then .zeros
  else
    match shownBuf x.cap.bufs with
    | some (n, _) => .memory (bufBase c n + BitVec.ofNat 32 off) true
    | none => if c.fallback = 0 then .zeros else .memory (c.fallback + BitVec.ofNat 32 off) false

/-- Source of a capture read that starts at offset `off` (R12). -/
def captureSource (x : Side) (b : Burst) (off : Nat) : Source :=
  let c := x.cfg.cap
  match x.cap.fip with
  | some f => if c.area ≤ lastOffset b off then .zeros else .memory (bufBase c f.buf + BitVec.ofNat 32 off) false
  | none => .zeros

end Sys2Proof.Machine
end

