-- ==== Sys2Proof/Machine/Arbiter.lean ====
section
/-! DEFINITION. The downstream write arbiter (R180): what waits, what is granted, and what leaves at a grant (R162, R170,
R176). -/

namespace Sys2Proof.Machine

/-- The injector changed. -/
def updInj (f : Injector → Injector) (s : State) : State := { s with inj := f s.inj }

/-- A pass-through write waits: a passed-through burst from its taking, a capture write from its last beat. -/
def passWaits (p : Path) : Bool :=
  match p.cur with
  | some c =>
    !c.granted &&
      match c.route with
      | .pass => true
      | .absorbed => false
      | .capture _ _ _ => decide (c.burst.len ≤ c.taken) && !c.discarded
  | none => false

/-- A granted passed-through burst, of which beats are still to be taken, holds the channels. -/
def channelsHeld (p : Path) : Bool :=
  match p.cur with
  | some c => c.granted
  | none => false

/-- An injected burst waits. -/
def injectedWaits (i : Injector) : Bool :=
  match i.inflight with
  | some b => !b.granted
  | none => false

/-- A burst waits, and the channels are free or come free: no burst holds them of which beats are still to be taken. -/
def grantDue (s : State) : Bool := !channelsHeld s.path && (passWaits s.path || injectedWaits s.inj)

/-- A burst waits and the channels are free already: it is granted at once (R180). -/
def grantAtOnce (s : State) : Bool := grantDue s && s.path.tail.isNone

/-- Beats as they leave, the last one marked. -/
def dataMsgs : List Beat → List DownMsg
  | [] => []
  | [b] => [.writeData b true]
  | b :: b' :: rest => .writeData b false :: dataMsgs (b' :: rest)

/-- What leaves for a redirected capture write: one burst, or two split at the 4 KiB boundary (R176). -/
def redirectedMsgs (b : Burst) (addr : Addr) (beats : List Beat) : List DownMsg :=
  let k := beatsBelow b addr
  match redirected b addr with
  | [x, y] => .writeAddr x :: dataMsgs (beats.take k) ++ .writeAddr y :: dataMsgs (beats.drop k)
  | xs => xs.map .writeAddr ++ dataMsgs beats

/-- The current pass-through write is granted: a passed-through burst sends its address and holds the channels, a
collected capture write leaves whole and holds them until its last beat has been sent (R176, R180; log 9). The two
bursts of one split at 4 KiB leave under this one grant: R176 does not name the arbiter among what counts them as one
(log 36). -/
def grantPass (s : State) : State :=
  match s.path.cur with
  | some c =>
    match c.route with
    | .pass =>
      sendDown [.writeAddr (passBurst c.burst)]
        (updPath (fun p => { p with cur := some { c with granted := true }, tail := none }) s)
    | .absorbed => s
    | .capture _ addr _ =>
      sendDown (redirectedMsgs c.burst addr c.beats)
        (updPath (fun p => { p with cur := none, tail := some (.upstream c.burst.id) })
          (updCurEntry (fun e =>
            { e with
              parts := (redirected c.burst addr).map DownBurst.addr
              cut := decide (beatsBelow c.burst addr ≠ c.burst.len) }) s))
  | none => s

/-- The address channel of an injected burst (R162). -/
def injectedAddr (b : InjBurst) : DownBurst :=
  { id := 0x100, addr := b.addr, lenM1 := BitVec.ofNat 8 (b.beats.length - 1), size := .eight, kind := .incr, attrs := 0 }

/-- The injected burst is granted: it leaves whole, it holds the channels until its last beat has been sent, and the wait
count returns to 0 (R180; log 9). -/
def grantInjected (s : State) : State :=
  match s.inj.inflight with
  | some b =>
    sendDown (.writeAddr (injectedAddr b) :: dataMsgs b.beats)
      (updPath (fun p => { p with tail := some .injector, waitCount := 0 })
        (updInj (fun i => { i with inflight := some { b with granted := true } }) s))
  | none => s

/-- The arbiter grants (R180). -/
def grantOp (s : State) : State :=
  if passWaits s.path then
    if injectedWaits s.inj then
      if s.path.waitCount < Config.maxWait then
        grantPass (updPath (fun p => { p with waitCount := p.waitCount + 1 }) s)
      else grantInjected s
    else grantPass s
  else grantInjected s

/-- A grant that the free channels make at once is made: before another burst comes to wait for them (R180; log 33). -/
def grantNow (s : State) : State := if grantAtOnce s then grantOp s else s

/-- The waiting pass-through write has been granted, behind the injected burst where the wait count sends that first. -/
def passGranted (s : State) : State :=
  if passWaits s.path then
    let s1 := grantOp s
    if passWaits s1.path then grantOp s1 else s1
  else s

/-- What has been granted when the upstream port delivers an address or a beat that can be taken where `ready` holds: what
the free channels grant at once; and where it can be taken only after the grant of the write that waits, that grant
(R171, R180). -/
def settleGrants (ready : Path → Bool) (s : State) : State :=
  let t := grantNow s
  let u := passGranted t
  if !ready t.path && ready u.path then u else t

/-- The channels come free, or are free, and the arbiter grants where a burst waits (R180). -/
def grantWaiting (s : State) : State := if grantDue s then grantOp s else s

end Sys2Proof.Machine
end

