-- ==== Sys2Proof/Machine/Snoop.lean ====
section
/-! DEFINITION. The settings snoop (R182, R183, R188): merging of beats, the fields that act when written, commands,
mailbox submissions (R145, R146) and the read index (R160). -/

namespace Sys2Proof.Machine

/-! ## The read index (R160, R167) -/

/-- A ring record is in flight. -/
def recordInFlight (i : Injector) : Bool :=
  match i.inflight with
  | some b =>
    match b.kind with
    | .ringRecord _ _ _ _ => true
    | .page _ => false
  | none => false

/-- An offered read index is taken (R160). -/
def readIndexOk (s : State) (v : Half) : Bool :=
  let n := ringCount s.snoop.cfg.ringSize
  decide ((s.inj.w - v).toNat ≤ n) && (!recordInFlight s.inj || decide ((s.inj.w + 1 - v).toNat ≤ n))

/-- The RING_READ field is written (R160, R167). -/
def ringReadOp (s : State) : State :=
  let v := Image.half s.snoop.image 0x004
  if readIndexOk s v then { s with inj := { s.inj with r := v, attn := s.inj.attn && v != s.inj.w } } else s

/-! ## Commands (R124, R156, R188) -/

/-- POWER_ON for a side (R124). -/
def powerOnOp (d : SideId) (s : State) : CmdResult × State :=
  if (s.side d).head.health = .off ∧ (s.side d).configured = true then (.done, powerUp d s) else (.refusedState, s)

/-- The states POWER_OFF is refused in are OFF and STOPPING (R123). -/
def Health.canStop : Health → Bool
  | .off => false
  | .stopping => false
  | .powering => true
  | .stabilizing => true
  | .probing => true
  | .running => true
  | .degraded => true
  | .failed => true
  | .recovering => true

/-- POWER_OFF for a side (R123, R124). -/
def powerOffOp (d : SideId) (s : State) : CmdResult × State :=
  if (s.side d).head.health.canStop then (.done, enterStopping (releaseDeferred d) d s) else (.refusedState, s)

/-- The states RECOVER is taken in (R124). -/
def Health.canRecover : Health → Bool
  | .running => true
  | .degraded => true
  | .failed => true
  | .off => false
  | .powering => false
  | .stabilizing => false
  | .probing => false
  | .recovering => false
  | .stopping => false

/-- RECOVER for a side (R124). -/
def recoverOp (d : SideId) (s : State) : CmdResult × State :=
  if (s.side d).head.health.canRecover then
    (.done, enterRecovering (releaseDeferred d) d (updHead d (fun h => { h with attempts := 0, cause := 8 }) s))
  else (.refusedState, s)

/-- ACK_FAULTS (R156). -/
def ackFaultsOp (arg : BitVec 16) (s : State) : CmdResult × State :=
  (.done, { s with faults := { s.faults with table := ackTable arg s.faults.table } })

/-- A side command with its argument (R124). -/
def sideCommand (f : SideId → State → CmdResult × State) (arg : BitVec 16) (s : State) : CmdResult × State :=
  if arg = 0 then f .left s else if arg = 1 then f .right s else (.refusedArg, s)

/-- The command of a code (R188). -/
def runCode (code : Nat) (arg : BitVec 16) (s : State) : CmdResult × State :=
  if code = 1 then sideCommand powerOnOp arg s
  else if code = 2 then sideCommand powerOffOp arg s
  else if code = 3 then sideCommand recoverOp arg s
  else if code = 4 then ackFaultsOp arg s
  else (.unknown, s)

/-- A command's echo and result are published (R188). -/
def publishResult (echo : BitVec 32) (r : CmdResult) (s : State) : State :=
  flagPage .global { s with snoop := { s.snoop with cmdEcho := echo, cmdResult := r } }

/-- CMD_SEQ is written (R188). -/
def commandOp (s : State) : State :=
  let m := s.snoop.image
  let z := runCode (Image.field m 0x00C 1) (Image.half m 0x00E) s
  publishResult (BitVec.ofNat 32 (Image.field m 0x008 4)) z.1 z.2

/-! ## Mailbox submissions (R145, R146) -/

/-- The entry is one of this slot. -/
def LinkEntry.ofSlot (slot : Fin 6) (e : LinkEntry) : Bool :=
  match e.kind with
  | .probe => false
  | .exposure => false
  | .mailbox n _ => n == slot

/-- The slot has an entry, waiting or in flight (R146). -/
def slotBusy (slot : Fin 6) (k : Link) : Bool :=
  (match k.inFlight with
   | some e => e.ofSlot slot
   | none => false) || k.waiting.any (LinkEntry.ofSlot slot)

/-- The side a slot names (R145, R189). -/
def slotSide (m : Image) (slot : Nat) : SideId := if m.bit (slotOff slot) 0 then .right else .left

/-- The entry a slot submits with a TAG (R145, R146). -/
def slotEntry (m : Image) (slot : Fin 6) (tag : Byte) : LinkEntry :=
  let rd := m.bit (slotOff slot.val + 1) 0
  { kind := .mailbox slot tag, side := slotSide m slot.val, read := rd, reg := m.half (slotOff slot.val + 2),
    data := if rd then 0 else m.half (slotOff slot.val + 4), attempts := 0 }

/-- A slot's TAG byte is written: a nonzero merged TAG submits the slot (R145, R146). PENDING and BUSY carry data 0 (R147);
that REFUSED_STATE does too is the model's choice (log 35). -/
def submitSlot (slot : Fin 6) (s : State) : State :=
  let m := s.snoop.image
  let tag := Image.get m (tagOff slot.val)
  if tag = 0 then s
  else if slotBusy slot s.link then setResult slot ⟨tag, .busy, 0⟩ s
  else if (s.side (slotSide m slot.val)).head.health.linkServed then
    enqueueEntry (slotEntry m slot tag) (setResult slot ⟨tag, .pending, 0⟩ s)
  else setResult slot ⟨tag, .refusedState, 0⟩ s

/-! ## Beats (R183) -/

/-- Some strobed offset lies in `lo` to `hi` − 1. -/
def hits (os : List Nat) (lo hi : Nat) : Bool := os.any fun o => decide (lo ≤ o) && decide (o < hi)

/-- An action taken when its field is strobed. -/
def when (c : Bool) (f : State → State) (s : State) : State := if c then f s else s

/-- The slots in order, each acting when its TAG byte is strobed. -/
def slotActions (os : List Nat) : List (Fin 6) → State → State
  | [], s => s
  | n :: rest, s => slotActions os rest (when (hits os (tagOff n.val) (tagOff n.val + 1)) (submitSlot n) s)

/-- The fields that act, in ascending order of offset (R183). -/
def snoopActions (os : List Nat) (s : State) : State :=
  slotActions os [0, 1, 2, 3, 4, 5]
    (when (hits os 0x600 0x604) (sideApply .right)
      (when (hits os 0x200 0x204) (sideApply .left)
        (when (hits os 0x008 0x00C) commandOp
          (when (hits os 0x004 0x006) ringReadOp
            (when (hits os 0x000 0x004) globalApplyOp s)))))

/-- Every strobed byte of a beat at block offset `off` replaces its pending byte (R183). -/
def mergeOp (off : Nat) (b : Beat) (s : State) : State :=
  { s with snoop := { s.snoop with image := Image.mergeBeat s.snoop.image off b } }

/-- A beat handed to the snoop: the whole beat is merged, then its fields act (R183). -/
def snoopBeat (off : Nat) (b : Beat) (s : State) : State :=
  snoopActions (strobedOffsets off b.strb) (mergeOp off b s)

/-! ## The commands -/

/-- A beat at offset `off` from its lanes. -/
def laneBeat (vals : List Byte) (strobes : List Bool) : Beat := Beat.ofLanes (vals.zip strobes)

/-- The beat of a command: CMD_SEQ, CMD_CODE and CMD_ARG (R188, R189; log 26). -/
def commandBeat (code : Byte) (arg : BitVec 16) (sq : BitVec 32) : Beat :=
  laneBeat (bytesOfNat 4 sq.toNat ++ [code, 0] ++ bytesOfNat 2 arg.toNat)
    [true, true, true, true, true, false, true, true]

/-- SETTINGS_WRITE (R175, R183). -/
def execSettingsWrite (off : BitVec 12) (data : BitVec 64) (strb : BitVec 8) (s : State) :
    Host.Outcome State Fault Refusal :=
  act (snoopBeat off.toNat ⟨data, strb⟩) s

/-- GLOBAL_APPLY (R184). -/
def execGlobalApply (value : BitVec 32) (strb : BitVec 4) (s : State) : Host.Outcome State Fault Refusal :=
  act (snoopBeat 0x000 ⟨value.setWidth 64, strb.setWidth 8⟩) s

/-- APPLY (R185). -/
def execApply (d : SideId) (value : BitVec 32) (strb : BitVec 4) (s : State) : Host.Outcome State Fault Refusal :=
  act (snoopBeat (sideArea d) ⟨value.setWidth 64, strb.setWidth 8⟩) s

/-- RING_READ (R160). -/
def execRingRead (value : BitVec 16) (strb : BitVec 2) (s : State) : Host.Outcome State Fault Refusal :=
  act (snoopBeat 0x000 ⟨value.setWidth 64 <<< 32, strb.setWidth 8 <<< 4⟩) s

/-- POWER_ON (R124, R188). -/
def execPowerOn (arg : BitVec 16) (sq : BitVec 32) (s : State) : Host.Outcome State Fault Refusal :=
  act (snoopBeat 0x008 (commandBeat 1 arg sq)) s

/-- POWER_OFF (R123, R188). -/
def execPowerOff (arg : BitVec 16) (sq : BitVec 32) (s : State) : Host.Outcome State Fault Refusal :=
  act (snoopBeat 0x008 (commandBeat 2 arg sq)) s

/-- RECOVER (R124, R188). -/
def execRecover (arg : BitVec 16) (sq : BitVec 32) (s : State) : Host.Outcome State Fault Refusal :=
  act (snoopBeat 0x008 (commandBeat 3 arg sq)) s

/-- ACK_FAULTS (R156, R188). -/
def execAckFaults (arg : BitVec 16) (sq : BitVec 32) (s : State) : Host.Outcome State Fault Refusal :=
  act (snoopBeat 0x008 (commandBeat 4 arg sq)) s

/-- UNKNOWN_COMMAND (R188). -/
def execUnknownCommand (code : Byte) (arg : BitVec 16) (sq : BitVec 32) (s : State) : Host.Outcome State Fault Refusal :=
  act (snoopBeat 0x008 (commandBeat code arg sq)) s

/-- MAILBOX_SUBMISSION (R145, R146). -/
def execMailboxSubmission (slot : Fin 6) (tag : Byte) (s : State) : Host.Outcome State Fault Refusal :=
  act (snoopBeat (tagOff slot.val) ⟨tag.setWidth 64, 1⟩) s

end Sys2Proof.Machine
end

