-- ==== Sys2Proof/Machine/Injector.lean ====
section
/-! DEFINITION. The report injector (chapter 9, R162 to R167): what it issues, and the responses to it. -/

namespace Sys2Proof.Machine

/-- The lost count raised, saturating (R159, R161, R164). -/
def addLost (n : Nat) (s : State) : State :=
  { s with faults := { s.faults with lost := satAdd Config.max16 s.faults.lost n } }

/-! ## Issue (R162, R163, R165) -/

/-- The ring has room (R160). -/
def ringRoom (s : State) : Bool := decide ((s.inj.w - s.inj.r).toNat < ringCount s.snoop.cfg.ringSize)

/-- The injector serves and no burst is in flight (R162). -/
def injectorFree (i : Injector) : Bool := i.serving && i.inflight.isNone

/-- A record is due: the lost count is above 0 or a report is pending, and the ring has room (R162). -/
def recordDue (s : State) : Bool :=
  injectorFree s.inj && ringRoom s && (decide (0 < s.faults.lost) || !s.faults.queue.isEmpty)

/-- A section is due: no record is, and a publish flag is set (R162). -/
def sectionDue (s : State) : Bool := injectorFree s.inj && !recordDue s && (firstFlagged s.inj).isSome

/-- Downstream address of the slot of W (R163). -/
def slotAddr (s : State) : Addr :=
  BitVec.ofNat 32 (s.snoop.cfg.ringBase + 32 * (s.inj.w.toNat % ringCount s.snoop.cfg.ringSize))

/-- Fields of a report record (R163, R189). -/
def reportFields (sq : BitVec 32) (r : Report) : List FieldVal :=
  [⟨0, 4, sq.toNat⟩, ⟨4, 4, r.time.toNat⟩, ⟨8, 1, r.kind.code⟩, ⟨9, 1, r.scope.num⟩, ⟨10, 1, r.type.code⟩,
   ⟨11, 1, r.level⟩, ⟨12, 2, r.count⟩, ⟨14, 2, r.frame.toNat⟩, ⟨16, 4, r.detail.toNat⟩, ⟨20, 4, r.first.toNat⟩]

/-- Fields of an OVERFLOW record carrying `lost`: kind 0, scope GLOBAL, type OVERFLOW, level 3 (R163, R189). -/
def overflowFields (sq : BitVec 32) (now : Time) (lost : Nat) : List FieldVal :=
  [⟨0, 4, sq.toNat⟩, ⟨4, 4, now.toNat⟩, ⟨9, 1, 2⟩, ⟨10, 1, 3⟩, ⟨11, 1, 3⟩, ⟨16, 4, lost⟩]

/-- The four beats of a record (R163). -/
def recordBeats (fs : List FieldVal) : List Beat := beatsOfBytes 4 (layoutBytes 32 fs)

/-- A burst is handed to the arbiter (R162). -/
def issueBurst (kind : InjKind) (addr : Addr) (beats : List Beat) (s : State) : State :=
  updInj (fun i => { i with inflight := some ⟨kind, addr, beats, false⟩ }) s

/-- A ring record is issued with these fields: it takes a sequence number and the global section is flagged (R163). -/
def issueRecord (kind : InjKind) (fs : List FieldVal) (s : State) : State :=
  flagPage .global
    (updInj (fun i => { i with seq := i.seq + 1 }) (issueBurst kind (slotAddr s) (recordBeats fs) s))

/-- The OVERFLOW record, or the record of the highest-ranked report, is issued (R162, R163). -/
def issueRing (s : State) : State :=
  if 0 < s.faults.lost then
    let n := s.faults.lost
    issueRecord (.ringRecord true n 3 false) (overflowFields s.inj.seq s.time n)
      { s with faults := { s.faults with lost := 0 } }
  else
    match s.faults.queue with
    | r :: rest =>
      issueRecord (.ringRecord false 0 r.level false) (reportFields s.inj.seq r)
        { s with faults := { s.faults with queue := rest } }
    | [] => s

/-- The first flagged section is issued, and its flag cleared (R162, R165). -/
def issueSection (s : State) : State :=
  match firstFlagged s.inj with
  | some p =>
    issueBurst (.page p) (blockBase s.anchor + BitVec.ofNat 32 (pageOff p)) (pageBeats p s) (unflagPage p s)
  | none => s

/-! ## Responses (R161, R164, R165, R166) -/

/-- REPORT_PATH follows the response to an injected burst sent to `addr` (R166). -/
def reportPath (r : Resp) (addr : Addr) (s : State) : State :=
  if r.isError then raiseCond .reportPath .global addr s else clearCond .reportPath .global s

/-- What a lost ring record gives the lost count: 1 for a report, its carried count for an OVERFLOW record (R161, R164). -/
def lostBy (overflow : Bool) (carried : Nat) : Nat := if overflow then carried else 1

/-- W advances, and ATTN_N may be asserted (R164, R167). -/
def landRecord (level : Nat) (s : State) : State :=
  flagPage .global
    (updInj (fun i => { i with w := i.w + 1, attn := i.attn || decide (s.snoop.cfg.attnLevel ≤ level) }) s)

/-- The injected burst has been answered: none is in flight, and it has been sent whole (R162, R180; log 9). -/
def endInjected (s : State) : State :=
  let s1 := updInj (fun i => { i with inflight := none }) s
  if s1.path.tail = some .injector then endTail s1 else s1

/-- The response to a ring record (R161, R164). -/
def recordResponse (overflow : Bool) (carried level : Nat) (stale : Bool) (addr : Addr) (r : Resp) (s : State) : State :=
  let s1 := endInjected s
  let s2 := if stale || r.isError then addLost (lostBy overflow carried) s1 else landRecord level s1
  reportPath r addr s2

/-- The response to a section (R165). -/
def sectionResponseOp (p : PageId) (addr : Addr) (r : Resp) (s : State) : State :=
  let s1 := endInjected s
  reportPath r addr (if r.isError then flagPage p s1 else s1)

/-- A ring record's response is taken when one is in flight and has been sent (R162, R179; log 25). -/
def ringResponseOp (r : Resp) (s : State) : State :=
  match s.inj.inflight with
  | some b =>
    match b.kind with
    | .ringRecord o c l st => if b.granted then recordResponse o c l st b.addr r s else s
    | .page _ => s
  | none => s

/-- A section's response is taken when one is in flight and has been sent (R162, R179; log 25). -/
def pageResponseOp (r : Resp) (s : State) : State :=
  match s.inj.inflight with
  | some b =>
    match b.kind with
    | .ringRecord _ _ _ _ => s
    | .page p => if b.granted then sectionResponseOp p b.addr r s else s
  | none => s

/-! ## The commands -/

/-- RING_RECORD_ISSUE (R163, R180). -/
def execRingRecordIssue (s : State) : Host.Outcome State Fault Refusal :=
  act (fun s => if recordDue s then issueRing (grantNow s) else s) s

/-- SECTION_ISSUE (R165, R180). -/
def execSectionIssue (s : State) : Host.Outcome State Fault Refusal :=
  act (fun s => if sectionDue s then issueSection (grantNow s) else s) s

/-- RING_RECORD_RESPONSE (R164). -/
def execRingRecordResponse (r : Resp) (s : State) : Host.Outcome State Fault Refusal := act (ringResponseOp r) s

/-- SECTION_RESPONSE (R165). -/
def execSectionResponse (r : Resp) (s : State) : Host.Outcome State Fault Refusal := act (pageResponseOp r) s

end Sys2Proof.Machine
end

