-- ==== Sys2Proof/Machine/MemoryPath.lean ====
section
/-! DEFINITION. The memory path unit (chapter 10): taking bursts and beats, holds, and the responses that
come back (R170 to R180), with the capture writes of R3 to R13. -/

namespace Sys2Proof.Machine

/-! ## Taking a write address (R171) -/

/-- The next write address may be taken (R171). -/
def writeFree (p : Path) : Bool := p.cur.isNone && p.heldWrite.isNone && decide (p.writes.length < Config.maxBursts)

/-- A write burst is taken: its entry joins the order list and it holds the write channel (R171, R178). -/
def takeWrite (b : Burst) (owner : WOwner) (route : WRoute) (s : State) : State :=
  updPath (fun p =>
    { p with
      cur := some { burst := b, route := route, beats := [], taken := 0, granted := false, discarded := false }
      writes := p.writes ++ [{ id := b.id, owner := owner, parts := [], cut := false, err := none, ready := none }] }) s

/-- A write burst is taken to be passed through (R170). -/
def takePass (b : Burst) (s : State) : State := takeWrite b .pass .pass s

/-- A write burst is taken to be absorbed (R177). -/
def takeAbsorbed (b : Burst) (s : State) : State := takeWrite b .part .absorbed s

/-- A capture write is taken as the material of frame `f`: redirected to its buffer, and counted (R11, R176). -/
def takeMaterial (d : SideId) (off : Nat) (f : Fip) (b : Burst) (s : State) : State :=
  takeWrite b (.capture d true)
    (.capture d (bufBase (s.side d).cfg.cap f.buf + BitVec.ofNat 32 off) off)
    (updFip d (fun f => { f with outstanding := f.outstanding + 1 }) s)

/-- A capture write is taken as material of the frame in progress. -/
def takeIntoFrame (d : SideId) (off : Nat) (b : Burst) (s : State) : State :=
  match (s.side d).cap.fip with
  | some f => takeMaterial d off f b s
  | none => takeAbsorbed b s

/-- An orphan write (R8, R9). -/
def takeOrphan (d : SideId) (off : Nat) (b : Burst) (s : State) : State :=
  takeAbsorbed b (raiseEvent .orphanWrite (scopeOf d) (BitVec.ofNat 32 off) s)

/-- A line-0 capture write is held (R6, R13): behind a closing frame, or, where it would start a frame, behind display
reads of a freed buffer. -/
def line0Held (d : SideId) (off : Nat) (s : State) : Bool :=
  let x := s.side d
  x.inService && lineStart x.cfg.cap off == some 0 && decide (off < x.cfg.cap.area) &&
    match x.cap.fip with
    | some f => f.closing
    | none => (shownBuf x.cap.bufs).isNone && decide (0 < x.disp.outstanding)

/-- A capture write that is not held is handled (R3, R4, R6 to R9). `again` handles it afresh after a truncation
(R7). -/
def captureWrite (again : Burst → State → State) (d : SideId) (off : Nat) (b : Burst) (s : State) : State :=
  let x := s.side d
  if !x.inService || decide (x.cfg.cap.area ≤ off) then takeAbsorbed b s
  else
    match lineStart x.cfg.cap off, x.cap.fip with
    | some 0, some f => again b (truncateFrame d f s)
    | some 0, none => takeIntoFrame d off b (startFrame d s)
    | some (n + 1), some f => takeIntoFrame d off b (lineStarted d (n + 1) f s)
    | some (_ + 1), none => takeOrphan d off b s
    | none, some _ => takeIntoFrame d off b s
    | none, none => takeOrphan d off b s

/-- A write address at the upstream port is held, or taken and handled (R170, R171, R174). -/
def handleWrite (again : Burst → State → State) (b : Burst) (s : State) : State :=
  match decodeBurst b s with
  | .plain => takePass b s
  | .split => takePass b (raiseEvent .splitBurst .global b.addr s)
  | .display d off => takeAbsorbed b (raiseEvent .aliasWrite (scopeOf d) (BitVec.ofNat 32 off) s)
  | .capture d off =>
    if line0Held d off s then updPath (fun p => { p with heldWrite := some (d, b) }) s
    else captureWrite again d off b s

/-- A write address arrives. A truncation leaves no frame, so the write is handled afresh at most once (R7). -/
def arriveWrite (b : Burst) (s : State) : State := handleWrite (handleWrite takeAbsorbed) b s

/-- The held write is released: it is no longer a write that its side holds (R171). -/
def heldWriteDue (s : State) : Bool :=
  match s.path.heldWrite with
  | some (_, b) =>
    match decodeBurst b s with
    | .capture d off => !line0Held d off s
    | .plain => true
    | .split => true
    | .display _ _ => true
  | none => false

/-- The held write is taken under the state of this moment (R13, R171). -/
def heldWriteOp (s : State) : State :=
  match s.path.heldWrite with
  | some (_, b) => arriveWrite b (updPath (fun p => { p with heldWrite := none }) s)
  | none => s

/-! ## Write data (R172, R175, R176) -/

/-- A beat with the strobes outside its lanes taken as clear (R172). -/
def maskBeat (b : Burst) (n : Nat) (bt : Beat) : Beat :=
  Beat.ofLanes ((List.range 8).map fun k => (bt.byte k, bt.strobed k && inLane b n k))

/-- Beat `n` of a passed-through write burst is observed by the settings snoop where it lies in the settings block
(R175). -/
def observeBeat (b : Burst) (n : Nat) (bt : Beat) (s : State) : State :=
  let a := beatAddr b n / 8 * 8
  let w := blockRange s.anchor
  if w.lo ≤ a ∧ a ≤ w.hi then snoopBeat (a - w.lo) (maskBeat b n bt) s else s

/-- A beat of a granted passed-through burst leaves. With the last one taken the next write address may be taken, and the
channels are held until that beat has been sent (R170, R171, R180; log 9). -/
def passBeat (c : CurWrite) (bt : Beat) (s : State) : State :=
  let last := c.taken + 1 == c.burst.len
  let s1 :=
    if last then
      updPath (fun p => { p with cur := none, tail := some (.upstream c.burst.id) })
        (updCurEntry (fun e => { e with parts := [c.burst.addr] }) s)
    else updPath (fun p => { p with cur := some { c with taken := c.taken + 1 } }) s
  observeBeat c.burst c.taken bt (sendDown [.writeData bt last] s1)

/-- A beat of an absorbed or discarded burst is taken and dropped; after the last one the part answers (R177). -/
def dropBeat (c : CurWrite) (s : State) : State :=
  let s1 := updPath (fun p => { p with cur := some { c with taken := c.taken + 1 } }) s
  if c.taken + 1 = c.burst.len then answerCur s1 else s1

/-- PARTIAL_PIXEL of a burst (R29). -/
def notePartial (d : SideId) (o : Option Nat) (s : State) : State :=
  match o with
  | some off => raiseEvent .partialPixel (scopeOf d) (BitVec.ofNat 32 off) s
  | none => s

/-- A capture write has been collected whole: it is developed, its statistics are counted, and a closing write sets the
closing flag (R10, R13, R28, R29). It then waits for the arbiter with its developed beats. -/
def finishCapture (c : CurWrite) (d : SideId) (off : Nat) (beats : List Beat) (s : State) : State :=
  let x := s.side d
  let z := develop x.cfg x.coll.snap c.burst off beats (x.coll.acc.getD (Stats.fresh .day))
  let s1 := updColl d (fun k => { k with acc := some z.stats }) s
  let s2 := notePartial d z.half s1
  let s3 := updFip d (fun f => { f with closing := f.closing || z.closing }) s2
  updPath (fun p => { p with cur := some { c with taken := c.burst.len, beats := z.beats } }) s3

/-- A beat of a capture write is collected (R176). -/
def collectBeat (c : CurWrite) (d : SideId) (off : Nat) (bt : Beat) (s : State) : State :=
  let beats := c.beats ++ [bt]
  if c.taken + 1 = c.burst.len then finishCapture c d off beats s
  else updPath (fun p => { p with cur := some { c with taken := c.taken + 1, beats := beats } }) s

/-- A write data beat may be taken: the burst that holds the write channel has beats to come and, where it is passed
through, has been granted (R171, R180). -/
def beatFree (p : Path) : Bool :=
  match p.cur with
  | some c => decide (c.taken < c.burst.len) && (decide (c.route ≠ .pass) || c.granted)
  | none => false

/-- A write data beat is taken for the burst that holds the write channel (R171); with none, with its beats all taken, or
before its grant the beat waits at the port (log 6). -/
def takeBeat (bt : Beat) (s : State) : State :=
  match s.path.cur with
  | some c =>
    if c.burst.len ≤ c.taken then s
    else
      match c.route with
      | .pass => if c.granted then passBeat c bt s else s
      | .absorbed => dropBeat c s
      | .capture d _ off => if c.discarded then dropBeat c s else collectBeat c d off bt s
  | none => s

/-! ## Downstream write responses (R11, R176, R179) -/

/-- A side's frame learns that one of its writes was answered: an error sets the write-error flag, and when the burst
is answered whole it is no longer outstanding and the frame may complete (R11, R13). -/
def frameAnswered (d : SideId) (error whole : Bool) (s : State) : State :=
  let s1 := updFip d (fun f =>
    { f with writeError := f.writeError || error, outstanding := if whole then f.outstanding - 1 else f.outstanding }) s
  if whole then tryComplete d s1 else s1

/-- What the capture tracker does with a response to a redirected write (R11; log 12). -/
def captureAnswered (d : SideId) (live : Bool) (e : WEntry) (r : Resp) (s : State) : State :=
  let s1 :=
    if r.isError && e.err.isNone then raiseEvent .downstreamError .global (e.parts.headD 0) s else s
  if live then frameAnswered d r.isError e.parts.tail.isEmpty s1 else s1

/-- A write response of an ID has come: where no burst of the ID awaits one any more, one of that ID has been sent whole
(R180; log 9). -/
def sentWhole (id : BitVec 8) (s : State) : State :=
  if s.path.tail = some (.upstream id) ∧ writeTarget id s.path.writes = none then endTail s else s

/-- A top-bit-0 write response arrives (R178, R179). -/
def writeResponseOp (id : BitVec 8) (r : Resp) (s : State) : State :=
  match writeTarget id s.path.writes with
  | some n =>
    match s.path.writes[n]? with
    | some e =>
      let s1 := releaseWrites (sentWhole id (updPath (fun p => { p with writes := p.writes.set n (e.take r) }) s))
      match e.owner with
      | .pass => s1
      | .part => s1
      | .capture d live => captureAnswered d live e r s1
    | none => s
  | none => s

/-! ## Reads (R12, R84, R171, R176, R177) -/

/-- The next read address may be taken (R171). -/
def readFree (p : Path) : Bool := p.heldRead.isNone && decide (p.reads.length < Config.maxBursts)

/-- A read burst is taken, with its entry. -/
def takeRead (e : REntry) (ms : List DownMsg) (s : State) : State :=
  releaseReads (sendDown ms (updPath (fun p => { p with reads := p.reads ++ [e] }) s))

/-- A read burst is passed through (R170). -/
def passRead (b : Burst) (s : State) : State :=
  takeRead
    { id := b.id, owner := .pass, addr1 := b.addr, beats1 := b.len, addr2 := b.addr, total := b.len, got := 0,
      errored := false, kept := [] }
    [.readAddr (passBurst b)] s

/-- The beats of a zero read (R177). -/
def zeroBeats (n : Nat) : List RBeat := (List.range n).map fun k => ⟨0, .okay, k + 1 == n⟩

/-- The part answers a read with zeros (R177). -/
def zeroRead (b : Burst) (s : State) : State :=
  takeRead
    { id := b.id, owner := .part, addr1 := b.addr, beats1 := b.len, addr2 := b.addr, total := b.len, got := b.len,
      errored := false, kept := zeroBeats b.len }
    [] s

/-- A read burst is redirected (R176). -/
def redirectRead (owner : ROwner) (b : Burst) (addr : Addr) (s : State) : State :=
  takeRead
    { id := b.id, owner := owner, addr1 := addr, beats1 := beatsBelow b addr, addr2 := splitAddr addr, total := b.len,
      got := 0, errored := false, kept := [] }
    ((redirected b addr).map .readAddr) s

/-- A capture read (R12). -/
def captureRead (d : SideId) (off : Nat) (b : Burst) (s : State) : State :=
  match captureSource (s.side d) b off with
  | .memory a _ => redirectRead (.capture d) b a s
  | .zeros => zeroRead b s

/-- A display read is served from its source (R84, R86). -/
def serveDisplay (d : SideId) (off : Nat) (b : Burst) (s : State) : State :=
  match displaySource (s.side d) b off with
  | .memory a counted =>
    redirectRead (.display d counted) b a
      (if counted then updDisp d (fun p => { p with outstanding := p.outstanding + 1 }) s else s)
  | .zeros => zeroRead b s

/-- A display read: at offset 0 a display frame start, held while display reads are outstanding (R84, R88). -/
def displayRead (d : SideId) (off : Nat) (b : Burst) (s : State) : State :=
  if off = 0 then
    if 0 < (s.side d).disp.outstanding then updPath (fun p => { p with heldRead := some (d, b) }) s
    else serveDisplay d off b (frameStart d s)
  else serveDisplay d off b s

/-- A read address arrives (R170, R174). -/
def arriveRead (b : Burst) (s : State) : State :=
  match decodeBurst b s with
  | .plain => passRead b s
  | .split => passRead b (raiseEvent .splitBurst .global b.addr s)
  | .capture d off => captureRead d off b s
  | .display d off => displayRead d off b s

/-- The held frame start may be taken: the outstanding display reads of its side are 0 (R88). -/
def heldReadDue (s : State) : Bool :=
  match s.path.heldRead with
  | some (d, _) => (s.side d).disp.outstanding == 0
  | none => false

/-- The held frame start is taken under the state of this moment (R88, R171). -/
def heldReadOp (s : State) : State :=
  match s.path.heldRead with
  | some (_, b) => arriveRead b (updPath (fun p => { p with heldRead := none }) s)
  | none => s

/-! ## Downstream read data (R12, R86, R179) -/

/-- The first error beat of a redirected read raises DOWNSTREAM_ERROR with the address of its part (R12, R86, R176). -/
def readError (e : REntry) (r : Resp) (s : State) : State :=
  let s1 := if r.isError && !e.errored then raiseEvent .downstreamError .global e.partAddr s else s
  match e.owner with
  | .pass => s
  | .part => s
  | .capture _ => s1
  | .display _ _ => s1

/-- A counted display read that has wholly returned is no longer outstanding (R86). -/
def readDone (e : REntry) (s : State) : State :=
  match e.owner with
  | .display d true =>
    if e.total ≤ e.got + 1 then updDisp d (fun p => { p with outstanding := p.outstanding - 1 }) s else s
  | .display _ false => s
  | .capture _ => s
  | .pass => s
  | .part => s

/-- A top-bit-0 read data beat arrives (R178, R179). -/
def readDataOp (id : BitVec 8) (data : BitVec 64) (r : Resp) (s : State) : State :=
  match readTarget id s.path.reads with
  | some n =>
    match s.path.reads[n]? with
    | some e =>
      readDone e (readError e r
        (releaseReads (updPath (fun p => { p with reads := p.reads.set n (e.take data r) }) s)))
    | none => s
  | none => s

/-! ## The commands -/

/-- A write address comes to the port: it is taken, or waits there (R171; log 6). -/
def offerWrite (b : Burst) (s : State) : State := if writeFree s.path then arriveWrite b s else s

/-- WRITE_BURST_TAKEN (R171, R180). -/
def execWriteBurstTaken (b : Burst) (s : State) : Host.Outcome State Fault Refusal :=
  act (fun s => offerWrite b (settleGrants writeFree s)) s

/-- WRITE_DATA_BEAT_TAKEN (R172, R175, R176, R180). -/
def execWriteDataBeatTaken (data : BitVec 64) (strb : BitVec 8) (s : State) : Host.Outcome State Fault Refusal :=
  act (fun s => takeBeat ⟨data, strb⟩ (settleGrants beatFree s)) s

/-- READ_BURST_TAKEN (R171). -/
def execReadBurstTaken (b : Burst) (s : State) : Host.Outcome State Fault Refusal :=
  act (fun s => if readFree s.path then arriveRead b s else s) s

/-- HELD_LINE0_WRITE_TAKEN (R13, R180). -/
def execHeldLine0WriteTaken (s : State) : Host.Outcome State Fault Refusal :=
  act (fun s => if heldWriteDue s then heldWriteOp (grantNow s) else s) s

/-- HELD_FRAME_START_TAKEN (R88). -/
def execHeldFrameStartTaken (s : State) : Host.Outcome State Fault Refusal :=
  act (fun s => if heldReadDue s then heldReadOp s else s) s

/-- DOWNSTREAM_WRITE_GRANT (R180). -/
def execDownstreamWriteGrant (s : State) : Host.Outcome State Fault Refusal := act grantWaiting s

/-- DOWNSTREAM_WRITE_RESPONSE (R179). -/
def execDownstreamWriteResponse (id : BitVec 8) (r : Resp) (s : State) : Host.Outcome State Fault Refusal :=
  act (writeResponseOp id r) s

/-- DOWNSTREAM_READ_DATA (R86). -/
def execDownstreamReadData (id : BitVec 8) (data : BitVec 64) (r : Resp) (s : State) : Host.Outcome State Fault Refusal :=
  act (readDataOp id data r) s

end Sys2Proof.Machine
end

