-- ==== Sys2Proof/Machine/Reset.lean ====
section
/-! DEFINITION. RESET_N (R25, R149, R169, R181, R190): its assertion and its release. -/

namespace Sys2Proof.Machine

/-- RESET_N is asserted: every block goes to its reset state and stays there. The level on the LAMPS pin, what has left
the ports, the record of FAULT_N and the commands still waiting are not the part's to reset (log 8, log 32). FAULT_N is
asserted (R168). -/
def assertReset (s : State) : State :=
  followPin s
    { State.reset with
      inReset := true
      lamp := { State.reset.lamp with pin := s.lamp.pin }
      faults := { State.reset.faults with edges := s.faults.edges }
      down := s.down
      up := s.up
      choice := s.choice
      pending := s.pending }

/-- RESET_N is released: ANCHOR is sampled, the timebase counts from 0, and the lamp level is read with LAMP_POL 0
(R76, R150, R182); FAULT_N is judged anew (R168, R169). -/
def releaseReset (anchor : BitVec 2) (s : State) : State := 
  lampCompare (followPin s { s with inReset := false, anchor := anchor })

/-- RESET_ASSERTION (R181). -/
def execResetAssertion (s : State) : Host.Outcome State Fault Refusal := .next (assertReset s)

/-- RESET_RELEASE (R190). Outside reset there is nothing to release (log 2). -/
def execResetRelease (anchor : BitVec 2) (s : State) : Host.Outcome State Fault Refusal :=
  .next (if s.inReset then releaseReset anchor s else s)

end Sys2Proof.Machine
end

