-- ==== Sys2Proof/Machine/Dispatch.lean ====
section
/-! DEFINITION. The effect of each command: one arm per constructor, each a direct call of its meaning. -/

namespace Sys2Proof.Machine

def exec (i : Instr) (s : State) : Host.Outcome State Fault Refusal :=
  match i with
  | .writeBurstTaken b => Sys2Proof.Machine.execWriteBurstTaken b s
  | .writeDataBeatTaken data strb => Sys2Proof.Machine.execWriteDataBeatTaken data strb s
  | .readBurstTaken b => Sys2Proof.Machine.execReadBurstTaken b s
  | .settingsWrite off data strb => Sys2Proof.Machine.execSettingsWrite off data strb s
  | .globalApply value strb => Sys2Proof.Machine.execGlobalApply value strb s
  | .apply d value strb => Sys2Proof.Machine.execApply d value strb s
  | .ringRead value strb => Sys2Proof.Machine.execRingRead value strb s
  | .powerOn arg sq => Sys2Proof.Machine.execPowerOn arg sq s
  | .powerOff arg sq => Sys2Proof.Machine.execPowerOff arg sq s
  | .recover arg sq => Sys2Proof.Machine.execRecover arg sq s
  | .ackFaults arg sq => Sys2Proof.Machine.execAckFaults arg sq s
  | .unknownCommand code arg sq => Sys2Proof.Machine.execUnknownCommand code arg sq s
  | .mailboxSubmission slot tag => Sys2Proof.Machine.execMailboxSubmission slot tag s
  | .heldLine0WriteTaken => Sys2Proof.Machine.execHeldLine0WriteTaken s
  | .heldFrameStartTaken => Sys2Proof.Machine.execHeldFrameStartTaken s
  | .downstreamWriteGrant => Sys2Proof.Machine.execDownstreamWriteGrant s
  | .downstreamWriteResponse id resp => Sys2Proof.Machine.execDownstreamWriteResponse id resp s
  | .downstreamReadData id data resp => Sys2Proof.Machine.execDownstreamReadData id data resp s
  | .frameMissing d => Sys2Proof.Machine.execFrameMissing d s
  | .displayIdle d => Sys2Proof.Machine.execDisplayIdle d s
  | .stabilizationExpiry d => Sys2Proof.Machine.execStabilizationExpiry d s
  | .offDwellExpiry d => Sys2Proof.Machine.execOffDwellExpiry d s
  | .raiseStepExpiry d => Sys2Proof.Machine.execRaiseStepExpiry d s
  | .lowerStepExpiry d => Sys2Proof.Machine.execLowerStepExpiry d s
  | .lampsLevelChange level => Sys2Proof.Machine.execLampsLevelChange level s
  | .lampMeasurementExpiry => Sys2Proof.Machine.execLampMeasurementExpiry s
  | .rampTick => Sys2Proof.Machine.execRampTick s
  | .pwmPeriodStart => Sys2Proof.Machine.execPwmPeriodStart s
  | .requestSent => Sys2Proof.Machine.execRequestSent s
  | .cancelledCharacterEnd => Sys2Proof.Machine.execCancelledCharacterEnd s
  | .responseReceived c => Sys2Proof.Machine.execResponseReceived c s
  | .noAnswer => Sys2Proof.Machine.execNoAnswer s
  | .guardEnd => Sys2Proof.Machine.execGuardEnd s
  | .ringRecordIssue => Sys2Proof.Machine.execRingRecordIssue s
  | .sectionIssue => Sys2Proof.Machine.execSectionIssue s
  | .ringRecordResponse resp => Sys2Proof.Machine.execRingRecordResponse resp s
  | .sectionResponse resp => Sys2Proof.Machine.execSectionResponse resp s
  | .resetAssertion => Sys2Proof.Machine.execResetAssertion s
  | .resetRelease anchor => Sys2Proof.Machine.execResetRelease anchor s
  | .startEdge low => Sys2Proof.Machine.execStartEdge low s
  | .responseCharacterComplete c => Sys2Proof.Machine.execResponseCharacterComplete c s
  | .pwmHighTimeEnd d => Sys2Proof.Machine.execPwmHighTimeEnd d s

end Sys2Proof.Machine
end

