-- ==== Sys2Proof/Machine/Step.lean ====
section
/-! DEFINITION. One step of the block: the command at the front of the queue, or, with none waiting, an event of the
part's own that is due, or one REFCLK period (log 3). -/

namespace Sys2Proof.Machine

/-- The events of a side's own timers that are due. -/
def sideDue (d : SideId) (s : State) : List Instr :=
  (if frameDue d s then [.frameMissing d] else [])
  ++ (if displayDue d s then [.displayIdle d] else [])
  ++ (if stabDue d s then [.stabilizationExpiry d] else [])
  ++ (if dwellDue d s then [.offDwellExpiry d] else [])
  ++ (if raiseDue d s then [.raiseStepExpiry d] else [])
  ++ (if lowerDue d s then [.lowerStepExpiry d] else [])
  ++ (if highEndDue d s then [.pwmHighTimeEnd d] else [])

/-- The events of the shared blocks that are due. -/
def sharedDue (s : State) : List Instr :=
  (if lampDue s then [.lampMeasurementExpiry] else [])
  ++ (if rampDue s then [.rampTick] else [])
  ++ (if periodDue s then [.pwmPeriodStart] else [])
  ++ (if sentDue s then [.requestSent] else [])
  ++ (if cutDue s then [.cancelledCharacterEnd] else [])
  ++ (if silenceDue s then [.noAnswer] else [])
  ++ (if guardDue s then [.guardEnd] else [])
  ++ (if recordDue s then [.ringRecordIssue] else [])
  ++ (if sectionDue s then [.sectionIssue] else [])
  ++ (if grantDue s then [.downstreamWriteGrant] else [])
  ++ (if writeFree { s.path with heldWrite := none } && heldWriteDue s then [.heldLine0WriteTaken] else [])
  ++ (if heldReadDue s then [.heldFrameStartTaken] else [])

/-- The events of the part's own that are due: none in reset. -/
def dueEvents (s : State) : List Instr :=
  if s.inReset then [] else sideDue .left s ++ sideDue .right s ++ sharedDue s

/-- The block with no command waiting: a due event joins the queue, which one of several being a free value; with none
due one REFCLK period passes (log 3, log 4). -/
def idle (s : State) : State :=
  match dueEvents s with
  | [] => refPeriod s
  | c :: rest =>
    { s with
      pending := s.pending ++ [(c :: rest).getD (Config.freeChoice s.choice % (rest.length + 1)) c]
      choice := s.choice + 1 }

/-- One step. -/
def step (s : State) : Host.Outcome State Fault Refusal :=
  match s.pending with
  | c :: rest => exec c { s with pending := rest }
  | [] => .next (idle s)

/-- The state with the command a word spells at the front of its queue; unchanged where it spells none. -/
def State.withFetchWord (s : State) (nbits w : Nat) : State :=
  match Sys2Proof.decodeTableWord nbits w with
  | some c => { s with pending := c :: s.pending }
  | none => s

end Sys2Proof.Machine
end

