-- ==== Sys2Proof/Safety.lean ====
section
/-! DEFINITION. What is meant by a safe state of the SV-240: the laws of the manual that every command keeps, as
predicates that can be decided, and the frame a command leaves. -/

namespace Sys2Proof.Safety

open Sys2Proof.Machine

/-! ## Frames -/

/-- Two injectors agree on all but the publish flags. -/
def sameButFlags (a b : Injector) : Prop :=
  { b with
    flagGlobal := a.flagGlobal, flagFaults := a.flagFaults, flagLeft := a.flagLeft, flagRight := a.flagRight } = a

/-- No publish flag is lost from `a` to `b`. -/
def flagsKept (a b : Injector) : Prop :=
  (a.flagGlobal = true → b.flagGlobal = true) ∧ (a.flagFaults = true → b.flagFaults = true) ∧
    (a.flagLeft = true → b.flagLeft = true) ∧ (a.flagRight = true → b.flagRight = true)

/-- The injector is as it was, but for publish flags that may have been set. -/
def onlyFlags (a b : Injector) : Prop := sameButFlags a b ∧ flagsKept a b

/-- A command's answer is a next state with these properties. -/
def completes (c : Instr) (s : State) (P : State → Prop) : Prop := ∃ t, exec c s = .next t ∧ P t

/-- Everything but this side's state is as it was, publish flags apart. -/
def onlySide (d : SideId) (s t : State) : Prop :=
  onlyFlags s.inj t.inj ∧ { updSide d (fun _ => s.side d) t with inj := s.inj } = s

/-! ## Buffers and frames: L1, L2, R5, R8 -/

/-- The buffer is FILLING. -/
def isFilling (b : Buf) : Bool := b.code == 1

/-- The buffer is READY. -/
def isReady (b : Buf) : Bool := b.code == 2

/-- The buffer is SHOWN. -/
def isShown (b : Buf) : Bool := b.code == 3

/-- At most one buffer is READY and at most one SHOWN; one is FILLING exactly when a frame is in progress, and it is the
one the record names (L1, R5); every buffer is FREE and no frame is in progress outside RUNNING and DEGRADED (L2). -/
def bufferLaws (x : Side) : Bool :=
  decide (x.cap.bufs.list.countP isReady ≤ 1) && decide (x.cap.bufs.list.countP isShown ≤ 1) &&
    (match x.cap.fip with
     | none => x.cap.bufs.list.countP isFilling == 0
     | some f => x.cap.bufs.list.countP isFilling == 1 && x.cap.bufs.get f.buf .free == .filling) &&
    (x.inService || (x.cap.bufs == freeBufs && x.cap.fip.isNone))

/-- Lines counted runs from 1 to HEIGHT and is at most the highest line and one, which lies below HEIGHT (R5, R8). -/
def lineLaws (x : Side) : Bool :=
  match x.cap.fip with
  | none => true
  | some f => decide (1 ≤ f.lines) && decide (f.lines ≤ f.highest + 1) && decide (f.highest < x.cfg.cap.height)

/-! ## Tone curves: L5 -/

/-- Nodes never fall and lie at or below 1023, from a node `lo` on. -/
def risingFrom : Nat → List Nat → Bool
  | _, [] => true
  | lo, x :: rest => decide (lo ≤ x) && decide (x ≤ Config.toneMax) && risingFrom x rest

/-- A curve is non-decreasing with every node in 0 to 1023. -/
def curveOk (t : Table Nat 21) : Bool := risingFrom 0 t.list

/-- The tone settings hold what their clamps leave (R44). -/
def toneCfgOk (t : ToneCfg) : Bool :=
  decide (t.blackFloor ≤ Config.toneMax) && decide (1 ≤ t.alpha) && decide (t.alpha ≤ 16) && decide (1 ≤ t.clip) &&
    t.hostNodes.list.all fun n => decide (n ≤ Config.toneMax)

/-- L5 of a side: the active curve and the snapshot's curve, with the settings' clamps. -/
def toneLaws (x : Side) : Bool := curveOk x.tone && curveOk x.coll.snap.nodes && toneCfgOk x.cfg.tone

/-! ## Glare tiles: L6 -/

/-- A tile's gain lies in 16 to 256, and is 256 in CLEAR and ONSET; its hold lies in 0 to 15. -/
def tileOk (t : Tile) : Bool :=
  inRange 16 256 t.gain && decide (t.hold ≤ 15) &&
    match t.state with
    | .clear => t.gain == 256 && t.hold == 0
    | .onset => t.gain == 256
    | .dimmed => t.hold == 0
    | .release => true

/-- L6 of a side: the tile table and the snapshot's gains, with A_MIN as its clamp leaves it. -/
def tileLaws (x : Side) : Bool :=
  x.tiles.list.all tileOk && (x.coll.snap.gains.list.all fun g => inRange 16 256 g) && inRange 16 256 x.cfg.glare.aMin

/-! ## Reports and faults: R153, R158 -/

/-- No report ranks above one that stands before it. -/
def ranked : List Report → Bool
  | [] => true
  | r :: rest => (rest.all fun x => !x.above r) && ranked rest

/-- The pending report queue holds at most 16 reports in rank order (R158). -/
def queueLaws (f : FaultUnit) : Bool := decide (f.queue.length ≤ Config.maxReports) && ranked f.queue

/-- A record's count lies in 0 to 65,535, and its times are absent while the count is 0 and present otherwise (R153). -/
def recordOk (r : FaultRec) : Bool :=
  decide (r.count ≤ Config.max16) && r.first.isSome == decide (0 < r.count) && r.last.isSome == decide (0 < r.count)

/-- The fault table and the lost count keep their ranges (R153, R159). -/
def tableLaws (f : FaultUnit) : Bool := f.table.list.all recordOk && decide (f.lost ≤ Config.max16)

/-! ## The ring: L11 -/

/-- A ring record in flight that was issued to the current ring. -/
def currentRecord (i : Injector) : Bool :=
  match i.inflight with
  | some b =>
    match b.kind with
    | .ringRecord _ _ _ stale => !stale
    | .page _ => false
  | none => false

/-- W never leads R by more than the ring size, the slot of a record in flight counted (R160, L11). -/
def ringLaws (s : State) : Bool :=
  decide ((s.inj.w - s.inj.r).toNat + (if currentRecord s.inj then 1 else 0) ≤ ringCount s.snoop.cfg.ringSize)

/-! ## The link queue: L8, L9 -/

/-- All entries of the queue: the one in flight, then the waiting ones. -/
def linkEntries (k : Link) : List LinkEntry := k.inFlight.toList ++ k.waiting

/-- Entries of a side of one part kind. -/
def isProbe (d : SideId) (e : LinkEntry) : Bool := e.side == d && e.kind.code == 1

/-- Exposure entries of a side. -/
def isExposure (d : SideId) (e : LinkEntry) : Bool := e.side == d && e.kind.code == 2

/-- A side's part entries: at most one, a PROBE only in PROBING, an EXPOSURE exactly while the request is present and
never in PROBING (R53, R142). -/
def partLaws (d : SideId) (s : State) : Bool :=
  let es := linkEntries s.link
  (es.countP (isProbe d) == 0 || (es.countP (isProbe d) == 1 && (s.side d).head.health == .probing)) &&
    es.countP (isExposure d) == (if (s.side d).expo.request then 1 else 0) &&
    (es.countP (isExposure d) == 0 || (s.side d).head.health != .probing)

/-- The link queue: entries only of sides the link serves (L9), each slot at most one entry, the part entries' laws, and
an unconfigured side is OFF. From these the bounds of L8 follow. -/
def linkLaws (s : State) : Bool :=
  ((linkEntries s.link).all fun e => (s.side e.side).head.health.linkServed) &&
    ([0, 1, 2, 3, 4, 5].all fun n : Fin 6 => decide ((linkEntries s.link).countP (LinkEntry.ofSlot n) ≤ 1)) &&
    partLaws .left s && partLaws .right s &&
    (s.left.configured || s.left.head.health == .off) && (s.right.configured || s.right.head.health == .off)

/-- The link while it waits through the guard after a transaction that ends now (R139). -/
def guarding (now : Nat) (k : Link) : Link :=
  { k with line := .guard, guardStart := now, chars := [], receiving := none, silence := none, cutAt := none }

/-- The link when an attempt of entry `e` begins now: the attempts made risen by 1, the divisor and timeout taken, and the
six characters of the request formed (R134, R136, R138, R139, R140). -/
def beginning (g : GlobalCfg) (cam now : Nat) (e : LinkEntry) (k : Link) : Link :=
  let c1 : Byte := BitVec.ofNat 8 ((if e.read then 128 else 0) + cam)
  let c2 : Byte := e.reg.extractLsb' 8 8
  let c3 : Byte := e.reg.extractLsb' 0 8
  let c4 : Byte := if e.read then 0 else e.data.extractLsb' 8 8
  let c5 : Byte := if e.read then 0 else e.data.extractLsb' 0 8
  { k with
    line := .sending
    inFlight := some { e with attempts := e.attempts + 1 }
    divisor := g.linkDivisor
    timeout := g.linkTimeout
    txStart := now
    request := [c1, c2, c3, c4, c5, c1 ^^^ c2 ^^^ c3 ^^^ c4 ^^^ c5]
    chars := []
    receiving := none
    silence := none
    cutAt := none }

/-! ## The memory path: R86, R171, R180 -/

/-- A counted display read of a side whose last beat has not arrived. -/
def countsFor (d : SideId) (e : REntry) : Bool := decide (e.owner = .display d true) && !e.complete

/-- A side's outstanding display reads are its counted reads in the order list (R86). -/
def displayLaws (d : SideId) (s : State) : Bool :=
  (s.side d).disp.outstanding == s.path.reads.countP (countsFor d)

/-- At most 32 bursts a direction await their response, with room kept for a held address (R171), and the injector wait
count lies in 0 to 4 (R180). -/
def pathLaws (p : Path) : Bool :=
  decide (p.writes.length + (if p.heldWrite.isSome then 1 else 0) ≤ Config.maxBursts) &&
    decide (p.reads.length + (if p.heldRead.isSome then 1 else 0) ≤ Config.maxBursts) &&
    decide (p.waitCount ≤ Config.maxWait)

/-! ## Bursts as they are taken: R171, R178 -/

/-- The state with a write burst taken: it holds the write channel, and its entry joins the order lists. -/
def writeTaken (b : Burst) (owner : WOwner) (route : WRoute) (s : State) : State :=
  { s with
    path :=
      { s.path with
        cur := some { burst := b, route := route, beats := [], taken := 0, granted := false, discarded := false }
        writes := s.path.writes ++ [{ id := b.id, owner := owner, parts := [], cut := false, err := none, ready := none }] } }

/-- The next write address can be taken: no burst holds the write channel, none is held, fewer than 32 await their
response (R171). -/
def writeOpen (s : State) : Prop := s.path.cur = none ∧ s.path.heldWrite = none ∧ s.path.writes.length < 32

/-- The next read address can be taken (R171). -/
def readOpen (s : State) : Prop := s.path.heldRead = none ∧ s.path.reads.length < 32

/-- The state with a read burst taken: its entry joins the order lists, what is sent for it leaves downstream, and what
may go upstream goes. -/
def readTaken (e : REntry) (ms : List DownMsg) (s : State) : State :=
  releaseReads { s with down := s.down ++ ms, path := { s.path with reads := s.path.reads ++ [e] } }

/-- A read burst redirected to downstream address `a`: its entry, whose first part ends at the 4 KiB boundary (R176). -/
def redirectedEntry (b : Burst) (owner : ROwner) (a : Addr) : REntry :=
  { id := b.id, owner := owner, addr1 := a, beats1 := beatsBelow b a, addr2 := splitAddr a, total := b.len, got := 0,
    errored := false, kept := [] }

/-- A read burst that the part answers: LEN beats of zeros, each OKAY, ready at once (R177). -/
def zeroEntry (b : Burst) : REntry :=
  { id := b.id, owner := .part, addr1 := b.addr, beats1 := b.len, addr2 := b.addr, total := b.len, got := b.len,
    errored := false, kept := (List.range b.len).map fun k => ⟨0, .okay, k + 1 == b.len⟩ }

/-- The capture write at offset `off` starts a line, and that line is `l` (R4). -/
def startsLine (c : CaptureCfg) (off l : Nat) : Prop := (off % c.pitch = 0 ∨ off % c.pitch = 1) ∧ off / c.pitch = l

/-- A line-0 write of a side waits: behind a closing frame, or, with no frame in progress and nothing SHOWN, behind
display reads (R6, R13). -/
def line0Waits (x : Side) : Prop :=
  (∃ f, x.cap.fip = some f ∧ f.closing = true) ∨
    (x.cap.fip = none ∧ (∀ n < 3, isShown (x.cap.bufs.get n .free) = false) ∧ 0 < x.disp.outstanding)

/-- The frame in progress of a side rejected: its buffer freed, its record and its statistics gone, its section flagged
(R17, R24). -/
def frameRejected (d : SideId) (f : Fip) (s : State) : State :=
  flagPage (pageOf d)
    (updSide d (fun x =>
      { x with
        cap := { x.cap with bufs := x.cap.bufs.set f.buf .free, fip := none }
        coll := { x.coll with acc := none } }) s)

/-! ## Entries to FAILED, RECOVERING and STOPPING: R20, R94, R120, R122, R123 -/

/-- What teardown and the watchdogs' stop leave of a side: the buffer table all FREE, no frame, no statistics
accumulating, the counts of the freeze check and of the repeats at 0, both watchdogs stopped, VIEW_STALE and DISPLAY_IDLE
not active. -/
def tornDown (d : SideId) (t : State) : Prop :=
  let x := t.side d
  x.cap.bufs = freeBufs ∧ x.cap.fip = none ∧ x.cap.prevSig = none ∧ x.cap.identical = 0 ∧ x.cap.watchdog = none ∧
    x.cap.expiries = 0 ∧ x.coll.acc = none ∧ x.disp.repeats = 0 ∧ x.disp.watchdog = none ∧ x.disp.expired = false ∧
    isActive .viewStale (scopeOf d) t = false ∧ isActive .displayIdle (scopeOf d) t = false

/-- What teardown alone leaves of a side (R20, R94). -/
def tornDownTable (d : SideId) (t : State) : Prop :=
  let x := t.side d
  x.cap.bufs = freeBufs ∧ x.cap.fip = none ∧ x.cap.prevSig = none ∧ x.cap.identical = 0 ∧ x.coll.acc = none ∧
    x.disp.repeats = 0 ∧ isActive .viewStale (scopeOf d) t = false

/-- Where a LOWER request takes the sequencer at once, in the states and steps the sequences go through (R128). -/
def lowerTo (h : HeadCfg) (now : Time) (q : Sequencer) : Option Sequencer :=
  match q.state with
  | .high => if q.step = 3 then some { state := .lowering, step := 2, timer := some ⟨now, h.delay23⟩ } else none
  | .raising =>
    if q.step = 2 then some { state := .lowering, step := 1, timer := some ⟨now, h.delay12⟩ }
    else if q.step = 1 then some { state := .low, step := 0, timer := none }
    else none
  | .lowering => some q
  | .low => some q

/-- What an entry to RECOVERING or STOPPING leaves: the side torn down, its health conditions cleared, none of its link
entries left, its backlight target re-formed, the sequencer lowered, and the other side and the side's settings as they
were. -/
def broughtDown (d : SideId) (s t : State) : Prop :=
  tornDown d t ∧ isActive .sideFailed (scopeOf d) t = false ∧ isActive .sideDegraded (scopeOf d) t = false ∧
    isActive .cameraFrozen (scopeOf d) t = false ∧ (∀ e ∈ linkEntries t.link, e.side ≠ d) ∧
    (t.monitor d).target = targetOf t d ∧
    (∀ q, lowerTo (s.side d).cfg.head s.time (s.side d).seq = some q →
      (t.side d).seq = q ∧ (t.side d).head.awaitingLower = decide (q.state ≠ .low)) ∧
    (t.side d).cfg = (s.side d).cfg ∧ (t.side d).configured = (s.side d).configured ∧
    (t.side d).cap.frameNumber = (s.side d).cap.frameNumber ∧ (t.side d).scene = (s.side d).scene ∧
    (t.side d).tone = (s.side d).tone ∧ (t.side d).tiles = (s.side d).tiles ∧ t.side d.other = s.side d.other

/-! ## Applies: R185, R186 -/

/-- The requirement a reason code of a side apply stands for, spelt out (R186 and the owning chapters): `c` is the side's
pending settings, `other` the other side and `block` the settings block. -/
def meets (c : SideCfg) (other : Side) (block : Range) (code : Nat) : Prop :=
  let g := c.cap
  let area := g.pitch * g.height
  let apart := fun x y : Range => x.hi < y.lo ∨ y.hi < x.lo
  let mask := fun m : Addr => ∃ k, 12 ≤ k ∧ k ≤ 28 ∧ m.toNat = 2 ^ 32 - 2 ^ k
  let mine := [window g.capCode g.capMask, window g.dispCode g.dispMask]
  let beyond := block ::
    if other.configured then
      [window other.cfg.cap.capCode other.cfg.cap.capMask, window other.cfg.cap.dispCode other.cfg.cap.dispMask]
    else []
  let bases := g.bufBase.list ++ if g.fallback = 0 then [] else [g.fallback]
  let frame := fun b : Addr => ({ lo := b.toNat, hi := b.toNat + area - 1 } : Range)
  let within := fun lo hi v : Nat => lo ≤ v ∧ v ≤ hi
  match code with
  | 1 => mask g.capMask ∧ mask g.dispMask
  | 2 => mine.Pairwise apart ∧ ∀ w ∈ mine, ∀ r ∈ beyond, apart w r
  | 3 => within 64 2048 g.width ∧ g.width % 4 = 0 ∧ within 64 2048 g.height ∧ g.pitch % 8 = 0 ∧ 2 * g.width ≤ g.pitch ∧
      g.pitch ≤ 8192
  | 4 => area ≤ 2 ^ 32 - g.capMask.toNat ∧ area ≤ 2 ^ 32 - g.dispMask.toNat
  | 5 => (∀ b ∈ bases, b.toNat % 64 = 0 ∧ b.toNat + area ≤ 2 ^ 32) ∧ (bases.map frame).Pairwise apart ∧
      ∀ b ∈ bases, ∀ r ∈ mine ++ beyond, apart (frame b) r
  | 6 => c.dev.roiX0 < c.dev.roiX1 ∧ c.dev.roiX1 ≤ g.width ∧ c.dev.roiY0 < c.dev.roiY1 ∧ c.dev.roiY1 ≤ g.height
  | 7 => 1 ≤ c.dev.knee1 ∧ c.dev.knee1 < c.dev.knee2 ∧ c.dev.knee2 < c.dev.knee3 ∧ c.dev.knee3 ≤ 4095 ∧
      c.dev.shift0 ≤ 8 ∧ c.dev.shift1 ≤ 8 ∧ c.dev.shift2 ≤ 8 ∧ c.dev.shift3 ≤ 8
  | 8 => within 1 560 c.scene.duskExit ∧ within 1 560 c.scene.duskEnter ∧ within 1 560 c.scene.nightExit ∧
      within 1 560 c.scene.nightEnter ∧ c.scene.nightEnter < c.scene.nightExit ∧ c.scene.nightExit ≤ c.scene.duskEnter ∧
      c.scene.duskEnter < c.scene.duskExit
  | 9 => 1 ≤ c.expo.eMin ∧ c.expo.eMin ≤ c.expo.eInit ∧ c.expo.eInit ≤ c.expo.eMax
  | 10 => within 1 127 c.head.camAddr ∧ c.head.camAddr ≠ other.cfg.head.camAddr
  | 11 => 1 ≤ c.glare.enterCount ∧ c.glare.exitCount ≤ c.glare.enterCount
  | 13 => within 1000 1000000 g.frameTimeout ∧ within 1 15 g.missingLimit ∧ within 1 255 g.freezeLimit ∧
      g.shortTolerance ≤ 15 ∧ within 1 15 c.glare.onsetFrames ∧ c.glare.releaseHold ≤ 14 ∧ within 1 255 c.scene.persist ∧
      within 1 255 c.disp.staleLimit ∧ within 1000 1000000 c.disp.latencyLimit ∧
      within 1000 1000000 c.disp.displayTimeout ∧ c.head.recoverMax ≤ 15 ∧ within 1 65535 c.head.recoverClear ∧
      within 1 255 c.head.degradeClear ∧ within 1 15 c.head.linkFailLimit ∧ within 1 1000 c.head.stabMs ∧
      within 1 5000 c.head.offDwellMs ∧ within 1 50000 c.head.delay12 ∧ within 1 50000 c.head.delay23
  | _ => True

/-- `t` is what `s` becomes when the valid settings `c` are applied to side `d` with no frame in progress (R185): the
settings installed, the table torn down at a geometry change, the frame watchdog and then the display watchdog compared as
their commands compare them, and the side powered up at its first apply with AUTO_START. -/
def applied (d : SideId) (c : SideCfg) (s t : State) : Prop :=
  let x := s.side d
  let a := x.cfg.cap
  let b := c.cap
  let geometry := ¬(a.capCode = b.capCode ∧ a.capMask = b.capMask ∧ a.dispCode = b.dispCode ∧ a.dispMask = b.dispMask ∧
    a.bufBase = b.bufBase ∧ a.fallback = b.fallback ∧ a.width = b.width ∧ a.height = b.height ∧ a.pitch = b.pitch)
  let torn := x.configured = false ∨ geometry
  let s1 := updSide d (fun y =>
    { y with
      cfg := c
      configured := true
      reject := 0
      tone := if c.tone.host then monotone c.tone.hostNodes else y.tone
      tiles :=
        if y.cfg.glare.aMin < c.glare.aMin then y.tiles.map fun z => { z with gain := max c.glare.aMin z.gain }
        else y.tiles }) s
  ∃ s2 s3 s4 s5 : State,
    (torn → s2 = teardown d s1 ∧ tornDownTable d s2) ∧ (¬torn → s2 = s1) ∧
    exec (.frameMissing d) s2 = .next (publish s2 s3) ∧ exec (.displayIdle d) s3 = .next (publish s3 s4) ∧
    (x.configured = false ∧ c.head.autoStart = true →
      s5 = updSide d (fun y =>
        { y with
          tiles := Table.const 128 ⟨.clear, 0, 256⟩
          expo := { y.expo with confirmed := 0, settle := 0 }
          cap := { y.cap with prevSig := none, identical := 0 }
          head := { y.head with health := .powering, attempts := 0, cause := 0, goodFrames := 0, streak := 0 }
          seq := { state := .raising, step := 1, timer := some ⟨s.time, c.head.delay12⟩ } }) s4) ∧
    (¬(x.configured = false ∧ c.head.autoStart = true) → s5 = s4) ∧
    (t.side d).cfg = c ∧ (t.side d).configured = true ∧ (t.side d).reject = 0 ∧ t.side d.other = s.side d.other ∧
    t.snoop = s.snoop ∧
    t =
      match d with
      | .left => { s5 with inj := { s5.inj with flagGlobal := true, flagLeft := true } }
      | .right => { s5 with inj := { s5.inj with flagGlobal := true, flagRight := true } }

/-! ## What the injector writes: R163, R165, R189 -/

/-- The fields of a buffer record that holds a frame: offset, width in bytes and value (R189). -/
def frameFields (n : Nat) (f : FrameInfo) : List (Nat × Nat × Nat) :=
  [(0x21 + 16 * n, 1, f.outcome.code), (0x22 + 16 * n, 2, f.number.toNat), (0x24 + 16 * n, 4, f.completed.toNat),
   (0x28 + 16 * n, 4, f.signature.toNat)]

/-- `n` beats with every byte strobed that hold these fields (offset, width in bytes, value) little-endian and 0 outside
them (R189). -/
def beatsHold (beats : List Beat) (n : Nat) (fields : List (Nat × Nat × Nat)) : Prop :=
  let byte := fun o => ((beats.getD (o / 8) ⟨0, 0⟩).byte (o % 8)).toNat
  beats.length = n ∧ (∀ b ∈ beats, b.strb = 0xFF) ∧
    (∀ f ∈ fields, ((List.range f.2.1).map fun k => 256 ^ k * byte (f.1 + k)).sum = f.2.2 % 256 ^ f.2.1) ∧
    ∀ o < 8 * n, (∀ f ∈ fields, o < f.1 ∨ f.1 + f.2.1 ≤ o) → byte o = 0

/-! ## The write arbiter: R180 -/

/-- A write that holds the write channel waits for the arbiter: a passed-through burst not yet granted, or a capture write
with all its beats taken. -/
def passWaiting (c : CurWrite) : Prop :=
  c.granted = false ∧
    (c.route = .pass ∨ (∃ d a off, c.route = .capture d a off) ∧ c.burst.len ≤ c.taken ∧ c.discarded = false)

/-- No grant is due: a granted passed-through burst, of which beats are still to be taken, holds the channels, or nothing
waits. -/
def noGrantDue (s : State) : Prop :=
  (∃ c, s.path.cur = some c ∧ c.granted = true) ∨
    (∀ c, s.path.cur = some c → ¬passWaiting c) ∧ ∀ b, s.inj.inflight = some b → b.granted = true

/-- No grant is made at once: none is due, or a burst that is still being sent holds the channels. As the arbiter grants at
once when they are free (R180, log 33), a burst that comes to wait while one is due at once comes after it (WriteGrant). -/
def noGrantAtOnce (s : State) : Prop := noGrantDue s ∨ s.path.tail ≠ none

/-- No grant comes before a write address or a data beat: none is made at once, and no pass-through write waits, whose grant
an address or a beat that can be taken after it alone shows to have been made (R171, R180; log 33, WriteGrant). -/
def noGrantFirst (s : State) : Prop := noGrantAtOnce s ∧ ∀ c, s.path.cur = some c → ¬passWaiting c

/-! ## The part's own events -/

/-- The held write address may be taken again: no burst holds the write channel, fewer than 32 await their response, and it
is no longer a line-0 write that its side holds (R13, R171). -/
def heldWriteOpen (s : State) : Prop :=
  s.path.cur = none ∧ s.path.writes.length < 32 ∧
    ∃ d b, s.path.heldWrite = some (d, b) ∧
      ∀ d' off, decodeBurst b s = .capture d' off → (s.side d').inService = true → off < (s.side d').cfg.cap.area →
        startsLine (s.side d').cfg.cap off 0 → ¬line0Waits (s.side d')

/-- The condition under which each of the part's own events is due: a watchdog (R21, R92), a stage timer (R114, R122), a
sequencer timer (R127, R128), the lamp measurement (R76), the ramp timer (R104), the PWM period and its high times (R102),
the line's times (R138, R139, R144), what the injector issues (R162), the arbiter (R180), and the release of a held address
(R13, R88, R171). A command from outside is none of them. -/
def eventDue (s : State) (c : Instr) : Prop :=
  let k := s.link
  let character := 11 * (16 * (k.divisor + 1))
  let past := fun (start : Option Time) (len : Nat) => ∃ t, start = some t ∧ len ≤ (s.time - t).toNat
  let expired := fun timer : Option Timer => ∃ t, timer = some t ∧ t.len ≤ (s.time - t.start).toNat
  let free := s.inj.serving = true ∧ s.inj.inflight = none
  let record := (s.inj.w - s.inj.r).toNat < ringCount s.snoop.cfg.ringSize ∧ (0 < s.faults.lost ∨ s.faults.queue ≠ [])
  match c with
  | .frameMissing d => (s.side d).inService = true ∧ past (s.side d).cap.watchdog (s.side d).cfg.cap.frameTimeout
  | .displayIdle d =>
      (s.side d).inService = true ∧ (s.side d).disp.expired = false ∧
        past (s.side d).disp.watchdog (s.side d).cfg.disp.displayTimeout
  | .stabilizationExpiry d => (s.side d).head.health = .stabilizing ∧ expired (s.side d).head.stageTimer
  | .offDwellExpiry d => (s.side d).head.health = .recovering ∧ expired (s.side d).head.stageTimer
  | .raiseStepExpiry d => (s.side d).seq.state = .raising ∧ expired (s.side d).seq.timer
  | .lowerStepExpiry d => (s.side d).seq.state = .lowering ∧ expired (s.side d).seq.timer
  | .pwmHighTimeEnd d =>
      (s.monitor d).high = true ∧ (s.monitor d).out < 1000 ∧
        s.backlight.periodLen * (s.monitor d).out / 1000 ≤ (s.time - s.backlight.periodStart).toNat
  | .lampMeasurementExpiry => past s.lamp.measure 20000
  | .rampTick => past s.backlight.rampTimer (4000 * 4 ^ s.snoop.cfg.rampCode)
  | .pwmPeriodStart => s.backlight.periodLen ≤ (s.time - s.backlight.periodStart).toNat
  | .requestSent => k.line = .sending ∧ k.cutAt = none ∧ 6 * character ≤ s.refSince k.txStart
  | .cancelledCharacterEnd => k.line = .sending ∧ ∃ t, k.cutAt = some t ∧ t ≤ s.refSince k.txStart
  | .noAnswer =>
      (k.line = .awaiting ∨ k.line = .receiving ∨ k.line = .draining) ∧
        ∃ t, k.silence = some t ∧ k.timeout * character ≤ s.refSince t
  | .guardEnd => k.line = .guard ∧ 2 * character ≤ s.refSince k.guardStart
  | .ringRecordIssue => free ∧ record
  | .sectionIssue => free ∧ ¬record ∧ ∃ p, firstFlagged s.inj = some p
  | .downstreamWriteGrant => ¬noGrantDue s
  | .heldLine0WriteTaken => heldWriteOpen s
  | .heldFrameStartTaken => ∃ d b, s.path.heldRead = some (d, b) ∧ (s.side d).disp.outstanding = 0
  | _ => False

end Sys2Proof.Safety
end

