-- ==== Sys2Proof/WellFormed.lean ====
section
/-! DEFINITION. Which commands are of the form their row describes. An ill-formed command still has an effect (the one
its beat has at the settings snoop), but it is not an instance of its row. -/

namespace Sys2Proof

/-- The command has the form its row describes:
a settings write is a beat of the block below 0xA60 that strobes no field with an action of its own (R183);
an apply word, the apply word of a side and RING_READ are written with some byte strobed (R183);
an unknown command has none of the codes 1 to 4 (R188);
a submission carries a nonzero TAG (R145). -/
def Instr.wf : Instr → Bool
  | .settingsWrite off _ strb =>
    off.toNat % 8 == 0 && decide (off.toNat < Config.imageBytes) &&
      (Machine.strobedOffsets off.toNat strb).all fun o => !Machine.isActionByte o
  | .globalApply _ strb => strb != 0
  | .apply _ _ strb => strb != 0
  | .ringRead _ strb => strb != 0
  | .unknownCommand code _ _ => !(decide (1 ≤ code.toNat) && decide (code.toNat ≤ 4))
  | .mailboxSubmission _ tag => tag != 0
  | .writeBurstTaken _ => true
  | .writeDataBeatTaken _ _ => true
  | .readBurstTaken _ => true
  | .powerOn _ _ => true
  | .powerOff _ _ => true
  | .recover _ _ => true
  | .ackFaults _ _ => true
  | .heldLine0WriteTaken => true
  | .heldFrameStartTaken => true
  | .downstreamWriteGrant => true
  | .downstreamWriteResponse _ _ => true
  | .downstreamReadData _ _ _ => true
  | .frameMissing _ => true
  | .displayIdle _ => true
  | .stabilizationExpiry _ => true
  | .offDwellExpiry _ => true
  | .raiseStepExpiry _ => true
  | .lowerStepExpiry _ => true
  | .lampsLevelChange _ => true
  | .lampMeasurementExpiry => true
  | .rampTick => true
  | .pwmPeriodStart => true
  | .requestSent => true
  | .cancelledCharacterEnd => true
  | .responseReceived _ => true
  | .noAnswer => true
  | .guardEnd => true
  | .ringRecordIssue => true
  | .sectionIssue => true
  | .ringRecordResponse _ => true
  | .sectionResponse _ => true
  | .resetAssertion => true
  | .resetRelease _ => true
  | .startEdge _ => true
  | .responseCharacterComplete _ => true
  | .pwmHighTimeEnd _ => true

end Sys2Proof
end

