-- ==== Sys2Proof/Certificates/Slice0/Obligations.lean ====
section
/-! DEFINITION. The statements for the provers, one definition each, in the order of OBLIGATIONS.json. -/

open Sys2Proof Sys2Proof.Machine Sys2Proof.Safety

/-! ## The block and its queue -/

/-- A step runs the command at the front of the queue on the state with the rest of the queue. -/
def Obligations.StepRunsFrontCommand : Prop :=
  ∀ (c : Instr) (rest : List Instr) (s : State),
    step { s with pending := c :: rest } = exec c { s with pending := rest }

/-- With no command waiting, a due event of the part's own joins the queue, and with none due one REFCLK period passes:
the timebase advances by 1 every 25 of them, stands still in reset, and a burst still being sent downstream has left (the
idle step is the model's choice, log 3; so is that no event is due in reset, log 1, and the end of that burst, log 9). The
due events are each of the part's own rows whose condition holds. -/
def Obligations.IdleStep : Prop :=
  (∀ (s : State) (c : Instr), c ∈ dueEvents s ↔ s.inReset = false ∧ eventDue s c) ∧
  ∀ s : State, s.pending = [] →
    (dueEvents s ≠ [] → ∃ c ∈ dueEvents s, step s = .next { s with pending := [c], choice := s.choice + 1 }) ∧
    (dueEvents s = [] →
      step s = .next (
        let sent : State := { s with path := { s.path with tail := none } }
        if s.inReset then s
        else if s.phase < 24 then { sent with phase := s.phase + 1 }
        else { sent with phase := 0, time := s.time + 1 }))

/-- No command stops the part; and while RESET_N is asserted none but a LAMPS level, the assertion and the release of
RESET_N has an effect (log 1). -/
def Obligations.EveryCommandAnswers : Prop :=
  ∀ (c : Instr) (s : State),
    (∃ t, exec c s = .next t) ∧
    (s.inReset = true → (∀ level, c ≠ .lampsLevelChange level) → c ≠ .resetAssertion → (∀ a, c ≠ .resetRelease a) →
      exec c s = .next s)

/-- RESET_ASSERTION puts everything but the LAMPS level, what has left the ports, the record of FAULT_N and what waits in
the queue into the reset state (log 1, log 8); FAULT_N is asserted, which its record shows where it was released (log 32).
RESET_RELEASE samples ANCHOR and reads the lamp level, and FAULT_N is judged anew; outside reset it does nothing (log 2).
And the settings block is the 4 KiB at the base that ANCHOR selects. -/
def Obligations.ResetAssertionAndRelease : Prop :=
  ∀ (a : BitVec 2) (s : State),
    exec .resetAssertion s = .next
      { State.reset with
        inReset := true, lamp := { pin := s.lamp.pin, on := false, measure := none }, down := s.down, up := s.up,
        choice := s.choice, pending := s.pending,
        faults :=
          { State.reset.faults with
            edges := if s.faultAsserted = true then s.faults.edges else s.faults.edges ++ [true] } } ∧
    (s.inReset = true →
      let out : State := { s with inReset := false, anchor := a }
      exec (.resetRelease a) s = .next
        { out with
          faults :=
            { s.faults with
              edges := if out.faultAsserted = true then s.faults.edges else s.faults.edges ++ [false] }
          lamp :=
            { s.lamp with
              measure :=
                if (s.lamp.pin != s.snoop.cfg.lampPol) = s.lamp.on then none
                else if s.lamp.measure.isSome then s.lamp.measure else some s.time } }) ∧
    (s.inReset = false → exec (.resetRelease a) s = .next s) ∧
    blockBase a =
      (match a with
       | 0 => 0x3FFFF000
       | 1 => 0x7FFFF000
       | 2 => 0xBFFFF000
       | 3 => 0xFFFFF000) ∧
    blockRange a = ⟨(blockBase a).toNat, (blockBase a).toNat + 4095⟩

/-- The part right after reset release: what the manual states for each block (the values it leaves open are log 10, log
17 and log 20, and are not named here), and the model's own record of FAULT_N's changes empty (log 32). That the bytes of
the pending image without a default are 0 is log 38. -/
def Obligations.ResetState : Prop :=
  let s := State.reset
  (∀ d : SideId,
    let x := s.side d
    x.cfg = SideCfg.default d ∧ x.cfg = pendingSide d [] ∧ x.configured = false ∧ x.deferred = false ∧ x.reject = 0 ∧
    (∀ n < 3, x.cap.bufs.get n .filling = .free) ∧ x.cap.fip = none ∧ x.cap.watchdog = none ∧ x.cap.expiries = 0 ∧
    x.cap.prevSig = none ∧ x.cap.identical = 0 ∧ x.cap.frameNumber = 0 ∧ x.cap.accepted = 0 ∧ x.cap.dropped = 0 ∧
    x.coll.acc = none ∧ x.coll.last = none ∧
    (∀ e ≤ 20, x.tone.get e 0 = roundHalfUp (1023 * e) 20 ∧ x.coll.snap.nodes.get e 0 = x.tone.get e 0) ∧
    (∀ i < 128, x.coll.snap.gains.get i 0 = 256 ∧ x.tiles.get i ⟨.onset, 0, 0⟩ = ⟨.clear, 0, 256⟩) ∧
    x.expo = { confirmed := 0, settle := 0, request := false, m16 := 0, aeHeld := 0 } ∧
    x.scene = { state := .day, candidate := none, persist := 0, key := 0 } ∧
    x.disp = { repeats := 0, outstanding := 0, watchdog := none, expired := false, lastAge := 0 } ∧
    x.head =
      { health := .off, cause := 0, attempts := 0, goodFrames := 0, runCount := 0, streak := 0, stageTimer := none,
        awaitingLower := false } ∧
    x.seq = { state := .low, step := 0, timer := none } ∧ (∀ k < 3, pinLevel s d k = false)) ∧
  s.time = 0 ∧ s.inReset = false ∧ s.cab = .day ∧ s.lamp.on = false ∧ s.lamp.measure = none ∧
  s.backlight.running = false ∧ s.backlight.rampTimer = none ∧ s.backlight.periodStart = 0 ∧
  s.backlight.periodLen = 1000 ∧
  (∀ d, s.monitor d = { cur := 0, target := 1000, out := 0, high := false }) ∧
  s.link.line = .idle ∧ s.link.inFlight = none ∧ s.link.waiting = [] ∧
  (∀ n < 6, s.link.results.get n ⟨1, .done, 1⟩ = ⟨0, .none, 0⟩) ∧
  (∀ i < 40, s.faults.table.get i ⟨true, 1, none, none⟩ = ⟨false, 0, none, none⟩) ∧
  s.faults.queue = [] ∧ s.faults.lost = 0 ∧ s.faults.edges = [] ∧
  s.inj.w = 0 ∧ s.inj.r = 0 ∧ s.inj.seq = 0 ∧ s.inj.serving = false ∧
  firstFlagged s.inj = none ∧ s.inj.inflight = none ∧ s.attnAsserted = false ∧ s.faultAsserted = false ∧
  s.path = { cur := none, tail := none, heldWrite := none, heldRead := none, writes := [], reads := [], waitCount := 0 } ∧
  s.snoop =
    { image := [], cfg := GlobalCfg.default, cmdEcho := 0, cmdResult := .none, reject := 0 } ∧
  GlobalCfg.default = pendingGlobal []

/-! ## Invariants that every step keeps -/

/-- The reset state has every law stated below. -/
def Obligations.ResetHasEveryLaw : Prop :=
  let s := State.reset
  (∀ d, bufferLaws (s.side d) = true ∧ lineLaws (s.side d) = true ∧ toneLaws (s.side d) = true ∧
    tileLaws (s.side d) = true ∧ displayLaws d s = true) ∧
  queueLaws s.faults = true ∧ tableLaws s.faults = true ∧ ringLaws s = true ∧ linkLaws s = true ∧
  pathLaws s.path = true ∧ Image.wf s.snoop.image = true

/-- The buffer table's laws L1 and L2, the frame record's tie to the FILLING buffer and its line counts are kept. -/
def Obligations.BufferLawsKept : Prop :=
  ∀ (s t : State), (∀ d, bufferLaws (s.side d) = true ∧ lineLaws (s.side d) = true) → step s = .next t →
    ∀ d, bufferLaws (t.side d) = true ∧ lineLaws (t.side d) = true

/-- L5 and L6: every curve stays non-decreasing with nodes in 0 to 1023; every tile gain stays in 16 to 256, and is 256 in
CLEAR. -/
def Obligations.PictureLawsKept : Prop :=
  ∀ (s t : State) (d : SideId), toneLaws (s.side d) = true → tileLaws (s.side d) = true → step s = .next t →
    toneLaws (t.side d) = true ∧ tileLaws (t.side d) = true

/-- The pending report queue stays in rank order with at most 16 reports; every fault record's count stays in 0 to 65,535
with times exactly where the count is above 0; the lost count stays in 0 to 65,535. -/
def Obligations.FaultLawsKept : Prop :=
  ∀ (s t : State), queueLaws s.faults = true → tableLaws s.faults = true → step s = .next t →
    queueLaws t.faults = true ∧ tableLaws t.faults = true

/-- L11: the write index never leads the read index by more than the ring size. -/
def Obligations.RingLawsKept : Prop :=
  ∀ (s t : State), ringLaws s = true → step s = .next t → ringLaws t = true

/-- The link queue's laws are kept: L9, one entry a slot, one part entry a side; and they bound the queue as L8 does. -/
def Obligations.LinkLawsKept : Prop :=
  ∀ s : State, linkLaws s = true →
    (∀ t, step s = .next t → linkLaws t = true) ∧
    linkDepth s.link ≤ 8 ∧ (linkEntries s.link).countP (fun e => !e.isPart) ≤ 6 ∧
    ∀ d, (linkEntries s.link).countP (fun e => e.isPart && e.side == d) ≤ 1

/-- At most 32 bursts a direction await their response, and the wait count stays in 0 to 4; and a side's outstanding
display reads stay the number of its counted reads not yet returned. -/
def Obligations.PathLawsKept : Prop :=
  ∀ s t : State, step s = .next t →
    (pathLaws s.path = true → pathLaws t.path = true) ∧
    ∀ d, displayLaws d s = true → displayLaws d t = true

/-- The pending image stays in its one canonical form. -/
def Obligations.ImageFormKept : Prop :=
  ∀ (s t : State), Image.wf s.snoop.image = true → step s = .next t → Image.wf t.snoop.image = true

/-! ## Faults and reports -/

/-- What an event occurrence, a raise and a clear do: the record counted, the report made, FAULT_N following with its
change recorded (the record is log 32), nothing else. -/
def Obligations.FaultOccurrences : Prop :=
  ∀ (k : FaultKind) (sc : Scope) (det : BitVec 32) (s : State),
    let r := s.faultRec k sc
    let c := min 65535 (r.count + 1)
    let f := if r.count = 0 then some s.time else r.first
    let s1 := setFaultRec k sc { flag := true, count := c, first := f, last := some s.time } s
    let level := levelOfGroup s.snoop.cfg (groupOfCode k.code)
    let frame := match sc with
      | .left => s.left.cap.frameNumber
      | .right => s.right.cap.frameNumber
      | .global => 0
    let report := fun ty => ({ kind := k, scope := sc, type := ty, level := level, time := s.time, first := f.getD 0,
                               count := c, detail := det, frame := frame } : Report)
    let followed := fun t : State =>
      ({ t with
         faults :=
           { t.faults with
             edges := if t.faultAsserted = s.faultAsserted then s.faults.edges
               else s.faults.edges ++ [t.faultAsserted] } } : State)
    raiseEvent k sc det s = (if r.flag then s1 else pushReport (report .event) s1) ∧
    raiseCond k sc det s = (if r.flag then s else followed (pushReport (report .raise) s1)) ∧
    clearCond k sc s =
      (if r.flag then
        followed
          (pushReport
            { kind := k, scope := sc, type := .clear, level := level, time := s.time,
              first := if r.count = 0 then 0 else r.first.getD 0, count := r.count, detail := 0, frame := frame }
            (setFaultRec k sc { r with flag := false } s))
      else s) ∧
    s1.faultRec k sc = { flag := true, count := c, first := f, last := some s.time } ∧
    ∀ k' sc', recIndex k' sc' ≠ recIndex k sc → s1.faultRec k' sc' = s.faultRec k' sc'

/-- A report takes its place by level, then kind code, then arrival; a full queue of 16 drops its lowest-ranked report or
the new one, and the lost count rises. That the level decides also between a RAISE and its CLEAR, where a global apply has
raised the group's level between them, is log 34. -/
def Obligations.ReportRank : Prop :=
  ∀ (r : Report) (s : State),
    (s.faults.queue.length < 16 →
      pushReport r s = { s with faults := { s.faults with queue := rankInsert r s.faults.queue } }) ∧
    (16 ≤ s.faults.queue.length →
      pushReport r s =
        { s with
          faults :=
            { s.faults with
              queue := (rankInsert r s.faults.queue).take 16, lost := min 65535 (s.faults.lost + 1) } }) ∧
    ∃ a b, s.faults.queue = a ++ b ∧ rankInsert r s.faults.queue = a ++ r :: b ∧
      (∀ x ∈ a, ¬(x.level < r.level ∨ x.level = r.level ∧ r.kind.code < x.kind.code)) ∧
      ∀ x, b.head? = some x → x.level < r.level ∨ r.level = x.level ∧ r.kind.code < x.kind.code

/-- The pins the part drives by its state. FAULT_N is asserted exactly in reset, while a side is FAILED, while REPORT_PATH
is active, or while a condition is active whose group's level is at or above FAULT_PIN_LEVEL. An enable pin is released in
reset, else takes its bypass value where its bypass is on, else its sequence level. CTL is high but for the 0 bits of the
character being sent: its start bit, its data bits that are 0, least significant first, and its mark bit, which is 1 in
the first character only; a cancelled request is cut at the end of its character. -/
def Obligations.OutputPins : Prop :=
  (∀ s : State,
      s.faultAsserted = true ↔
        s.inReset = true ∨ (∃ d, (s.side d).head.health = .failed) ∨ isActive .reportPath .global s = true ∨
          ∃ k sc, k ∈ [.cameraFrozen, .viewStale, .displayIdle, .sideFailed, .sideDegraded, .reportPath] ∧
            (k = FaultKind.reportPath ↔ sc = Scope.global) ∧ isActive k sc s = true ∧
            s.snoop.cfg.faultPinLevel ≤ levelOfGroup s.snoop.cfg (groupOfCode k.code)) ∧
  (∀ (s : State) (d : SideId) (k : Nat), k < 3 →
    let x := s.side d
    (s.inReset = true → pinLevel s d k = false) ∧
    (s.inReset = false → x.cfg.head.bypEn.getLsbD k = true → pinLevel s d k = x.cfg.head.bypVal.getLsbD k) ∧
    (s.inReset = false → x.cfg.head.bypEn.getLsbD k = false → pinLevel s d k = decide (k < x.seq.step))) ∧
  ∀ s : State,
    let k := s.link
    let bit := 16 * (k.divisor + 1)
    let t := s.refSince k.txStart
    (s.inReset = true ∨ k.line ≠ .sending ∨ 66 * bit ≤ t ∨ (∃ e, k.cutAt = some e ∧ e ≤ t) → ctlLow s = false) ∧
    ∀ n < 6, (s.inReset = false ∧ k.line = .sending ∧ (∀ e, k.cutAt = some e → t < e)) →
      let began := 11 * bit * n
      (began ≤ t → t < began + bit → ctlLow s = true) ∧
      (∀ i < 8, began + (1 + i) * bit ≤ t → t < began + (2 + i) * bit →
        ctlLow s = !(k.request.getD n 0).getLsbD i) ∧
      (began + 9 * bit ≤ t → t < began + 10 * bit → ctlLow s = decide (n ≠ 0)) ∧
      (began + 10 * bit ≤ t → t < began + 11 * bit → ctlLow s = false)

/-- What publication flags, exactly: a section is flagged after a command where it was flagged before or where what it
publishes has changed (in the GLOBAL section the timebase and the duties apart; for FAULTS the record table), and nothing
else changes. That this is judged by the net change a command makes is log 19. -/
def Obligations.PublishFlags : Prop :=
  ∀ pre post : State,
    let p := publish pre post
    let global := fun s : State =>
      let x := s.inj
      let k := s.link
      ((s.cab, s.lamp.on, isActive .reportPath .global s, s.backlight.left.target, s.backlight.right.target,
         s.snoop.cfg.bypL, s.snoop.cfg.bypR),
       (x.w, x.r, x.seq, s.faults.lost, s.faults.queue.length),
       (k.waiting.length + k.inFlight.toList.length, k.inFlight.map (fun e => e.kind.code), s.snoop.cmdEcho,
         s.snoop.cmdResult),
       (s.left.reject, s.right.reject, s.snoop.reject),
       (List.range 6).map fun n => k.results.get n ⟨0, .none, 0⟩)
    let ofSide := fun (d : SideId) (s : State) =>
      let x := s.side d
      ((x.head.health, x.head.cause, x.head.attempts, x.head.streak, x.seq.state, x.seq.step,
         (List.range 3).map (pinLevel s d), x.configured),
       (x.cap.frameNumber, x.cap.accepted, x.cap.dropped,
         (match x.cap.fip with
          | some f => (f.buf, f.start)
          | none => (3, 0)),
         (List.range 3).map fun n => x.cap.bufs.get n .free),
       (x.scene, x.tiles.list.countP fun y => y.state != .clear),
       (x.expo.m16, x.expo.confirmed, x.expo.settle, x.expo.aeHeld),
       (x.disp.repeats, x.disp.lastAge),
       (match x.coll.last with
        | some r => (r.total, r.partials)
        | none => (0, 0)),
       (List.range 21).map fun e => x.tone.get e 0)
    { p with inj := post.inj } = post ∧
    { p.inj with
      flagGlobal := post.inj.flagGlobal, flagFaults := post.inj.flagFaults, flagLeft := post.inj.flagLeft,
      flagRight := post.inj.flagRight } = post.inj ∧
    (p.inj.flagGlobal = true ↔ post.inj.flagGlobal = true ∨ global pre ≠ global post) ∧
    (p.inj.flagFaults = true ↔ post.inj.flagFaults = true ∨ pre.faults.table ≠ post.faults.table) ∧
    (p.inj.flagLeft = true ↔ post.inj.flagLeft = true ∨ ofSide .left pre ≠ ofSide .left post) ∧
    (p.inj.flagRight = true ↔ post.inj.flagRight = true ∨ ofSide .right pre ≠ ofSide .right post)

/-! ## Lamps and backlight -/

/-- The lamp state: LAMPS takes a level, and the measurement of 20,000 µs; that the expiry has no effect before it is due is
the model's choice (log 2), and that in reset only the level on the pin changes is log 1. -/
def Obligations.LampState : Prop :=
  ∀ s : State,
    (∀ level, s.inReset = false →
      exec (.lampsLevelChange level) s = .next
        { s with
          lamp :=
            { pin := level
              on := s.lamp.on
              measure :=
                if (level != s.snoop.cfg.lampPol) = s.lamp.on then none
                else if s.lamp.measure.isSome then s.lamp.measure else some s.time } }) ∧
    (∀ level, s.inReset = true →
      exec (.lampsLevelChange level) s = .next { s with lamp := { s.lamp with pin := level } }) ∧
    (∀ t, s.inReset = false → s.lamp.measure = some t → 20000 ≤ (s.time - t).toNat →
      exec .lampMeasurementExpiry s = .next (publish s
        { s with lamp := { s.lamp with on := s.lamp.pin != s.snoop.cfg.lampPol, measure := none } })) ∧
    ((s.lamp.measure = none ∨ ∃ t, s.lamp.measure = some t ∧ (s.time - t).toNat < 20000) →
      exec .lampMeasurementExpiry s = .next s)

/-- The backlight's timers (that none of the three commands has an effect before it is due is the model's choice, log 2). A
tick of the ramp timer moves each monitor whose bypass is off one BL_RAMP_STEP toward its target, restarts the timer, flags
the global section when a duty arrives, and changes nothing else. A new PWM period begins when the running one has passed;
an output falls when its high time floor(P · D / 1000) has passed. -/
def Obligations.BacklightTimers : Prop :=
  (∀ (s : State) (t : Time),
      let g := s.snoop.cfg
      let next := fun (byp : Bool) (m : Monitor) =>
        if byp then m.cur
        else if m.cur < m.target then min m.target (m.cur + g.rampStep)
        else if m.target < m.cur then max m.target (m.cur - g.rampStep)
        else m.cur
      let l := s.backlight.left
      let r := s.backlight.right
      s.inReset = false → s.backlight.rampTimer = some t →
      (4000 * 4 ^ g.rampCode ≤ (s.time - t).toNat →
        exec .rampTick s = .next
          { s with
            backlight :=
              { s.backlight with
                left := { l with cur := next g.bypL l }
                right := { r with cur := next g.bypR r }
                rampTimer := some s.time }
            inj :=
              { s.inj with
                flagGlobal :=
                  s.inj.flagGlobal || decide (l.cur ≠ l.target ∧ next g.bypL l = l.target) ||
                    decide (r.cur ≠ r.target ∧ next g.bypR r = r.target) } }) ∧
      ((s.time - t).toNat < 4000 * 4 ^ g.rampCode → exec .rampTick s = .next s)) ∧
  ∀ s : State, s.inReset = false →
    let b := s.backlight
    let p := s.snoop.cfg.blPeriod
    let begin := fun m : Monitor => ({ m with out := m.cur, high := decide (0 < p * m.cur / 1000) } : Monitor)
    (b.periodLen ≤ (s.time - b.periodStart).toNat →
      exec .pwmPeriodStart s = .next
        { s with
          backlight :=
            { b with left := begin b.left, right := begin b.right, periodStart := s.time, periodLen := p } }) ∧
    ((s.time - b.periodStart).toNat < b.periodLen → exec .pwmPeriodStart s = .next s) ∧
    ∀ d,
      ((s.monitor d).high = true → (s.monitor d).out < 1000 →
        b.periodLen * (s.monitor d).out / 1000 ≤ (s.time - b.periodStart).toNat →
        exec (.pwmHighTimeEnd d) s = .next (updMonitor d (fun m => { m with high := false }) s)) ∧
      (((s.monitor d).high = false ∨ (s.monitor d).out = 1000 ∨
          (s.time - b.periodStart).toNat < b.periodLen * (s.monitor d).out / 1000) →
        exec (.pwmHighTimeEnd d) s = .next s)

/-- The target duty of a monitor whenever it is re-formed; and the cab state whenever it is re-formed: the darkest scene
state of the sides in RUNNING and DEGRADED, kept where there is none, a change flagging the global section and re-forming
both targets. -/
def Obligations.TargetDuty : Prop :=
  (∀ (s : State) (d : SideId),
    let g := s.snoop.cfg
    let duty := match s.cab with
      | .day => g.blDay
      | .dusk => g.blDusk
      | .night => g.blNight
    let target := if (s.side d).head.health = .failed then max duty g.blFailMin else duty
    targetOf s d = target ∧
      ((s.monitor d).target = target → reformTarget d s = s) ∧
      ((s.monitor d).target ≠ target →
        reformTarget d s =
          updMonitor d (fun m => { m with target := target }) { s with inj := { s.inj with flagGlobal := true } })) ∧
  ∀ s : State,
    let member := fun d => (s.side d).head.health = .running ∨ (s.side d).head.health = .degraded
    let scene := fun d => (s.side d).scene.state
    ∃ cab : Scene,
      ((∀ d, ¬member d) → cab = s.cab) ∧
      ((∃ d, member d ∧ scene d = .night) → cab = .night) ∧
      ((∀ d, member d → scene d ≠ .night) → (∃ d, member d ∧ scene d = .dusk) → cab = .dusk) ∧
      ((∀ d, member d → scene d = .day) → (∃ d, member d) → cab = .day) ∧
      (s.cab = cab → reformCab s = s) ∧
      (s.cab ≠ cab →
        reformCab s =
          reformTarget .right (reformTarget .left { s with cab := cab, inj := { s.inj with flagGlobal := true } }))

/-! ## Watchdogs -/

/-- An expiry of the frame watchdog below MISSING_LIMIT: the count, the event, the restart, and the frame in progress left
in place; DISPLAY_IDLE raised at the display watchdog's first expiry. That either command has no effect with the side out of
service, with its watchdog stopped or already expired, or before it is due is the model's choice (log 2). -/
def Obligations.WatchdogExpiries : Prop :=
  ∀ (s : State) (d : SideId),
    let x := s.side d
    let n := min 15 (x.cap.expiries + 1)
    (∀ w, s.inReset = false → x.inService = true → x.cap.watchdog = some w →
      x.cfg.cap.frameTimeout ≤ (s.time - w).toNat → n < x.cfg.cap.missingLimit →
      exec (.frameMissing d) s = .next (publish s
        (updCap d (fun c => { c with expiries := n, watchdog := some s.time })
          (raiseEvent .frameMissing (scopeOf d) (BitVec.ofNat 32 n) s)))) ∧
    (∀ w, s.inReset = false → x.inService = true → x.disp.watchdog = some w → x.disp.expired = false →
      x.cfg.disp.displayTimeout ≤ (s.time - w).toNat →
      exec (.displayIdle d) s = .next (publish s
        (updDisp d (fun p => { p with expired := true }) (raiseCond .displayIdle (scopeOf d) w s)))) ∧
    ((x.inService = false ∨ x.cap.watchdog = none ∨
        ∃ w, x.cap.watchdog = some w ∧ (s.time - w).toNat < x.cfg.cap.frameTimeout) →
      exec (.frameMissing d) s = .next s) ∧
    ((x.inService = false ∨ x.disp.watchdog = none ∨ x.disp.expired = true ∨
        ∃ w, x.disp.watchdog = some w ∧ (s.time - w).toNat < x.cfg.disp.displayTimeout) →
      exec (.displayIdle d) s = .next s)

/-! ## Heads and sequencers -/

/-- An expiry of the frame watchdog at MISSING_LIMIT: the side enters FAILED with cause 1, its table torn down and its
watchdogs stopped, and the automatic recovery test follows; a passage through FAILED asserts FAULT_N for that passage, which
the record of its changes shows (log 32). -/
def Obligations.MissingLimitFailsSide : Prop :=
  ∀ (s : State) (d : SideId) (w : Time),
    let x := s.side d
    let n := min 15 (x.cap.expiries + 1)
    s.inReset = false → x.inService = true → x.cap.watchdog = some w → x.cfg.cap.frameTimeout ≤ (s.time - w).toNat →
    x.cfg.cap.missingLimit ≤ n →
    exec (.frameMissing d) s = .next (publish s (enterFailed (releaseDeferred d) d 1
      (updCap d (fun c => { c with expiries := n, watchdog := some s.time })
        (raiseEvent .frameMissing (scopeOf d) (BitVec.ofNat 32 n) s)))) ∧
    ((x.deferred = false ∨ x.cap.fip = none) →
      ∃ t, exec (.frameMissing d) s = .next t ∧ tornDown d t ∧ (t.side d).head.cause = 1 ∧
        (t.faultRec .frameMissing (scopeOf d)).count = min 65535 ((s.faultRec .frameMissing (scopeOf d)).count + 1) ∧
        isActive .sideDegraded (scopeOf d) t = false ∧ (t.side d).cfg = x.cfg ∧ t.side d.other = s.side d.other ∧
        t.snoop = s.snoop ∧ t.lamp = s.lamp ∧ t.down = s.down ∧
        (isActive .sideFailed (scopeOf d) s = false →
          (t.faultRec .sideFailed (scopeOf d)).count = min 65535 ((s.faultRec .sideFailed (scopeOf d)).count + 1)) ∧
        (x.cfg.head.autoRecover = true → x.head.attempts < x.cfg.head.recoverMax →
          (t.side d).head.health = .recovering ∧ (t.side d).head.attempts = x.head.attempts + 1 ∧
            isActive .sideFailed (scopeOf d) t = false ∧ (∀ e ∈ linkEntries t.link, e.side ≠ d) ∧
            (s.faultAsserted = false → t.faults.edges = s.faults.edges ++ [true, false])) ∧
        (¬(x.cfg.head.autoRecover = true ∧ x.head.attempts < x.cfg.head.recoverMax) →
          (t.side d).head.health = .failed ∧ (t.side d).head.attempts = x.head.attempts ∧
            isActive .sideFailed (scopeOf d) t = true ∧ (t.side d).seq = x.seq ∧ t.link = s.link ∧
            (t.monitor d).target = targetOf t d ∧
            (t.faultRec .recoveryExhausted (scopeOf d)).count =
              if x.cfg.head.autoRecover then min 65535 ((s.faultRec .recoveryExhausted (scopeOf d)).count + 1)
              else (s.faultRec .recoveryExhausted (scopeOf d)).count))

/-- The stage timer's expiries: STABILIZING becomes PROBING with a probe queued; RECOVERING becomes POWERING with the
side's blocks at their power-up values. That neither command has an effect in other states or before it is due is the
model's choice (log 2). -/
def Obligations.StageTimers : Prop :=
  ∀ (s : State) (d : SideId) (t : Timer),
    let x := s.side d
    s.inReset = false → x.head.stageTimer = some t →
    (t.len ≤ (s.time - t.start).toNat →
      (x.head.health = .stabilizing →
        exec (.stabilizationExpiry d) s = .next (publish s
          (enqueueEntry
            { kind := .probe, side := d, read := true, reg := x.cfg.head.idReg, data := 0, attempts := 0 }
            (updHead d (fun h => { h with health := .probing, stageTimer := none }) s)))) ∧
      (x.head.health = .recovering →
        exec (.offDwellExpiry d) s = .next (publish s
          (updSide d (fun x =>
            { x with
              tiles := Table.const 128 ⟨.clear, 0, 256⟩
              expo := { x.expo with confirmed := 0, settle := 0 }
              cap := { x.cap with prevSig := none, identical := 0 }
              head := { x.head with health := .powering, goodFrames := 0, streak := 0, stageTimer := none }
              seq := { state := .raising, step := 1, timer := some ⟨s.time, x.cfg.head.delay12⟩ } }) s)))) ∧
    ((s.time - t.start).toNat < t.len ∨ x.head.health ≠ .stabilizing → exec (.stabilizationExpiry d) s = .next s) ∧
    ((s.time - t.start).toNat < t.len ∨ x.head.health ≠ .recovering → exec (.offDwellExpiry d) s = .next s)

/-- The sequencer's steps, with each timer's length taken from the active settings as it starts, and what the head
controller does at "raise complete" and at LOW. That neither command has an effect in the other direction or before it is
due is the model's choice (log 2). -/
def Obligations.SequencerSteps : Prop :=
  ∀ (s : State) (d : SideId) (t : Timer),
    let x := s.side d
    let h := x.cfg.head
    s.inReset = false → x.seq.timer = some t →
    (t.len ≤ (s.time - t.start).toNat →
      (x.seq.state = .raising → x.seq.step = 1 →
        exec (.raiseStepExpiry d) s = .next (publish s
          (updSeq d (fun _ => { state := .raising, step := 2, timer := some ⟨s.time, h.delay23⟩ }) s))) ∧
      (x.seq.state = .raising → x.seq.step = 2 →
        exec (.raiseStepExpiry d) s = .next (publish s
          (updSide d (fun x =>
            { x with
              seq := { state := .high, step := 3, timer := none }
              head :=
                if x.head.health = .powering then
                  { x.head with health := .stabilizing, stageTimer := some ⟨s.time, h.stabMs * 1000⟩ }
                else x.head }) s))) ∧
      (x.seq.state = .lowering → x.seq.step = 2 →
        exec (.lowerStepExpiry d) s = .next (publish s
          (updSeq d (fun _ => { state := .lowering, step := 1, timer := some ⟨s.time, h.delay12⟩ }) s))) ∧
      (x.seq.state = .lowering → x.seq.step = 1 →
        exec (.lowerStepExpiry d) s = .next (publish s
          (updSide d (fun x =>
            { x with
              seq := { state := .low, step := 0, timer := none }
              head :=
                if x.head.awaitingLower = false then x.head
                else if x.head.health = .recovering then
                  { x.head with awaitingLower := false, stageTimer := some ⟨s.time, h.offDwellMs * 1000⟩ }
                else if x.head.health = .stopping then { x.head with awaitingLower := false, health := .off }
                else { x.head with awaitingLower := false } }) s)))) ∧
    ((s.time - t.start).toNat < t.len ∨ x.seq.state ≠ .raising → exec (.raiseStepExpiry d) s = .next s) ∧
    ((s.time - t.start).toNat < t.len ∨ x.seq.state ≠ .lowering → exec (.lowerStepExpiry d) s = .next s)

/-- POWER_ON, POWER_OFF and RECOVER for a side: where each is taken, what it does, and the result it publishes. The beat
that carries the command is merged first. -/
def Obligations.PowerCommands : Prop :=
  ∀ (s : State) (d : SideId) (sq : BitVec 32),
    let arg : BitVec 16 := match d with
      | .left => 0
      | .right => 1
    let merged := fun code : Byte =>
      ({ s with snoop := { s.snoop with image := Image.mergeBeat s.snoop.image 8 (commandBeat code arg sq) } } : State)
    let answer := fun (r : CmdResult) (t : State) =>
      ({ t with
         snoop := { t.snoop with cmdEcho := sq, cmdResult := r }
         inj := { t.inj with flagGlobal := true } } : State)
    let x := s.side d
    s.inReset = false → Image.wf s.snoop.image = true →
    (x.head.health = .off ∧ x.configured = true →
      exec (.powerOn arg sq) s = .next (publish s (answer .done
        (updSide d (fun x =>
          { x with
            tiles := Table.const 128 ⟨.clear, 0, 256⟩
            expo := { x.expo with confirmed := 0, settle := 0 }
            cap := { x.cap with prevSig := none, identical := 0 }
            head :=
              { x.head with health := .powering, attempts := 0, cause := 0, goodFrames := 0, streak := 0 }
            seq := { state := .raising, step := 1, timer := some ⟨s.time, x.cfg.head.delay12⟩ } }) (merged 1))))) ∧
    (¬(x.head.health = .off ∧ x.configured = true) →
      exec (.powerOn arg sq) s = .next (publish s (answer .refusedState (merged 1)))) ∧
    (x.head.health = .off ∨ x.head.health = .stopping →
      exec (.powerOff arg sq) s = .next (publish s (answer .refusedState (merged 2)))) ∧
    (x.head.health ≠ .off → x.head.health ≠ .stopping →
      exec (.powerOff arg sq) s = .next (publish s (answer .done (enterStopping (releaseDeferred d) d (merged 2)))) ∧
      ((x.deferred = false ∨ x.cap.fip = none) →
        ∃ t, exec (.powerOff arg sq) s = .next t ∧ broughtDown d s t ∧ t.snoop.cmdEcho = sq ∧ t.snoop.cmdResult = .done ∧
          t.inj.flagGlobal = true ∧ (t.side d).head.cause = 9 ∧ (t.side d).head.stageTimer = none ∧
          ∀ q, lowerTo x.cfg.head s.time x.seq = some q →
            (t.side d).head.health = if q.state = .low then .off else .stopping)) ∧
    (¬(x.head.health = .running ∨ x.head.health = .degraded ∨ x.head.health = .failed) →
      exec (.recover arg sq) s = .next (publish s (answer .refusedState (merged 3)))) ∧
    (x.head.health = .running ∨ x.head.health = .degraded ∨ x.head.health = .failed →
      exec (.recover arg sq) s = .next (publish s (answer .done
        (enterRecovering (releaseDeferred d) d
          (updHead d (fun h => { h with attempts := 0, cause := 8 }) (merged 3))))) ∧
      ((x.deferred = false ∨ x.cap.fip = none) →
        ∃ t, exec (.recover arg sq) s = .next t ∧ broughtDown d s t ∧ t.snoop.cmdEcho = sq ∧ t.snoop.cmdResult = .done ∧
          t.inj.flagGlobal = true ∧ (t.side d).head.cause = 8 ∧ (t.side d).head.attempts = 0 ∧
          (t.side d).head.health = .recovering))

/-- A side command with an argument other than 0 and 1, ACK_FAULTS, and a command code other than 1 to 4: the result,
the echo, and all that changes beside the beat's merge. -/
def Obligations.OtherCommands : Prop :=
  ∀ (s : State) (code : Byte) (arg : BitVec 16) (sq : BitVec 32),
    let merged := fun code : Byte =>
      ({ s with snoop := { s.snoop with image := Image.mergeBeat s.snoop.image 8 (commandBeat code arg sq) } } : State)
    let answer := fun (r : CmdResult) (t : State) =>
      ({ t with
         snoop := { t.snoop with cmdEcho := sq, cmdResult := r }
         inj := { t.inj with flagGlobal := true } } : State)
    s.inReset = false → Image.wf s.snoop.image = true →
    (arg ≠ 0 → arg ≠ 1 →
      exec (.powerOn arg sq) s = .next (publish s (answer .refusedArg (merged 1))) ∧
      exec (.powerOff arg sq) s = .next (publish s (answer .refusedArg (merged 2))) ∧
      exec (.recover arg sq) s = .next (publish s (answer .refusedArg (merged 3)))) ∧
    (code.toNat = 0 ∨ 5 ≤ code.toNat →
      exec (.unknownCommand code arg sq) s = .next (publish s (answer .unknown (merged code)))) ∧
    ∃ table : Table FaultRec 40,
      exec (.ackFaults arg sq) s =
        .next (publish s (answer .done { merged 4 with faults := { s.faults with table := table } })) ∧
      ∀ (k : FaultKind) (sc : Scope),
        let old := s.faultRec k sc
        let condition := k ∈ [.cameraFrozen, .viewStale, .displayIdle, .sideFailed, .sideDegraded, .reportPath]
        table.get (recIndex k sc) old =
          if arg.getLsbD (groupOfCode k.code) then
            { flag := if condition then old.flag else false
              count := if arg.getLsbD 8 then 0 else old.count
              first := if arg.getLsbD 8 then none else old.first
              last := if arg.getLsbD 8 then none else old.last }
          else old

/-! ## The control link -/

/-- A new entry takes its place: a PROBE or EXPOSURE behind the waiting ones of its kind and ahead of every MAILBOX, a
MAILBOX at the tail; on an idle line with nothing waiting its first attempt begins at once, with its request formed. The
queue depth has changed, and GLOBAL is flagged. -/
def Obligations.LinkQueuePlacement : Prop :=
  ∀ (e : LinkEntry) (s : State),
    (s.link.line ≠ .idle →
      ∃ a b, s.link.waiting = a ++ b ∧
        enqueueEntry e s =
          { s with
            link := { s.link with waiting := a ++ e :: b }
            inj := { s.inj with flagGlobal := true } } ∧
        ((e.kind = .probe ∨ e.kind = .exposure) →
          (∀ x ∈ a, x.kind = .probe ∨ x.kind = .exposure) ∧
            ∀ x, b.head? = some x → ¬(x.kind = .probe ∨ x.kind = .exposure)) ∧
        (¬(e.kind = .probe ∨ e.kind = .exposure) → b = [])) ∧
    (s.link.line = .idle → s.link.inFlight = none → s.link.waiting = [] →
      enqueueEntry e s =
        { s with
          link := beginning s.snoop.cfg (s.side e.side).cfg.head.camAddr s.refNow e s.link
          inj := { s.inj with flagGlobal := true } })

/-- The line's own timers: the sixth character's end, the end of the character being sent at a cancellation, and the
guard's end, after which the entry in flight or the first waiting one begins. That none of the commands has an effect
before it is due is the model's choice (log 2). -/
def Obligations.LinkLineTimers : Prop :=
  ∀ s : State,
    let k := s.link
    let bit := 16 * (k.divisor + 1)
    let character := 11 * bit
    s.inReset = false →
    (k.line = .sending → k.cutAt = none → 6 * character ≤ s.refSince k.txStart →
      exec .requestSent s = .next { s with link := { k with line := .awaiting, silence := some s.refNow } }) ∧
    (¬(k.line = .sending ∧ k.cutAt = none ∧ 6 * character ≤ s.refSince k.txStart) →
      exec .requestSent s = .next s) ∧
    (∀ t, k.line = .sending → k.cutAt = some t → t ≤ s.refSince k.txStart →
      exec .cancelledCharacterEnd s = .next { s with link := guarding s.refNow k }) ∧
    (k.line ≠ .sending ∨ k.cutAt = none ∨ (∃ t, k.cutAt = some t ∧ s.refSince k.txStart < t) →
      exec .cancelledCharacterEnd s = .next s) ∧
    (k.line = .guard → 2 * character ≤ s.refSince k.guardStart →
      (∀ e, k.inFlight = some e →
        exec .guardEnd s =
          .next { s with link := beginning s.snoop.cfg (s.side e.side).cfg.head.camAddr s.refNow e k }) ∧
      (∀ e rest, k.inFlight = none → k.waiting = e :: rest →
        exec .guardEnd s = .next (publish s
          { s with
            link :=
              beginning s.snoop.cfg (s.side e.side).cfg.head.camAddr s.refNow e { k with waiting := rest } })) ∧
      (k.inFlight = none → k.waiting = [] →
        exec .guardEnd s = .next { s with link := { k with line := .idle } })) ∧
    (¬(k.line = .guard ∧ 2 * character ≤ s.refSince k.guardStart) → exec .guardEnd s = .next s)

/-- Reception: a start edge counts only while the part listens, between characters, and when the sample half a bit later
is low; a character completes ten and a half bit times after its start edge. That a command of a character that is not due
has no effect is the model's choice (log 2). -/
def Obligations.ResponseReception : Prop :=
  ∀ (s : State) (c : RxChar),
    let k := s.link
    let bit := 16 * (k.divisor + 1)
    let listening := k.line = .awaiting ∨ k.line = .receiving ∨ k.line = .draining
    s.inReset = false →
    (listening → k.receiving = none →
      exec (.startEdge true) s = .next { s with link := { k with receiving := some s.refNow, silence := none } }) ∧
    exec (.startEdge false) s = .next s ∧
    (¬(listening ∧ k.receiving = none) → exec (.startEdge true) s = .next s) ∧
    (∀ t, listening → k.receiving = some t → 10 * bit + bit / 2 ≤ s.refSince t → k.chars.length < 3 →
      exec (.responseCharacterComplete c) s = .next
        { s with
          link :=
            { k with
              chars := k.chars ++ [c]
              receiving := none
              silence := some s.refNow
              line := if k.line = .awaiting then .receiving else k.line } }) ∧
    (¬listening ∨ k.receiving = none ∨ (∃ t, k.receiving = some t ∧ s.refSince t < 10 * bit + bit / 2) →
      exec (.responseCharacterComplete c) s = .next s ∧ exec (.responseReceived c) s = .next s)

/-- The judgement of a response, its tests in order. -/
def Obligations.ResponseJudged : Prop :=
  ∀ (e : LinkEntry) (c1 c2 c3 c4 : RxChar),
    let flawed := fun c : RxChar => c.stop = false ∨ c.mark = true
    let data : Half := c2.data ++ c3.data
    let garbled := flawed c1 ∨ flawed c2 ∨ flawed c3 ∨ flawed c4 ∨ c4.data ≠ c1.data ^^^ c2.data ^^^ c3.data
    (garbled → judge e c1 c2 c3 c4 = .badCheck) ∧
    (¬garbled → c1.data = 0x5A → judge e c1 c2 c3 c4 = .refused) ∧
    (¬garbled → c1.data ≠ 0xA5 → c1.data ≠ 0x5A → judge e c1 c2 c3 c4 = .badCheck) ∧
    (¬garbled → c1.data = 0xA5 → e.read = false → data ≠ e.data → judge e c1 c2 c3 c4 = .badCheck) ∧
    (¬garbled → c1.data = 0xA5 → (e.read = true ∨ data = e.data) → judge e c1 c2 c3 c4 = .done data)

/-- An attempt ends at the fourth character or at the timeout: into GUARD, with a retry kept in flight or the final
outcome handed on; a drained response is discarded. The entry has left and GUARD has begun before the outcome is handed on
(log 23), and NO_ANSWER before the silence has lasted has no effect (log 2): both are the model's. -/
def Obligations.AttemptEnds : Prop :=
  ∀ (s : State) (c : RxChar),
    let k := s.link
    let character := 11 * (16 * (k.divisor + 1))
    let guarded : State := { s with link := guarding s.refNow k }
    let removed : State := { s with link := { guarding s.refNow k with inFlight := none } }
    let silent := (k.line = .awaiting ∨ k.line = .receiving ∨ k.line = .draining) ∧
      ∃ t, k.silence = some t ∧ k.timeout * character ≤ s.refSince t
    let arrived := ∃ t, k.receiving = some t ∧ 21 * (16 * (k.divisor + 1)) / 2 ≤ s.refSince t
    s.inReset = false →
    (silent → k.line ≠ .draining → ∀ e, k.inFlight = some e →
      (e.attempts ≤ s.snoop.cfg.linkRetries → exec .noAnswer s = .next guarded) ∧
      (s.snoop.cfg.linkRetries < e.attempts →
        exec .noAnswer s = .next (publish s (finalOutcome e .noAnswer removed)))) ∧
    (silent → k.line = .draining → exec .noAnswer s = .next guarded) ∧
    (¬silent → exec .noAnswer s = .next s) ∧
    (arrived → ∀ c1 c2 c3 : RxChar, k.chars = [c1, c2, c3] →
      (k.line = .draining → exec (.responseReceived c) s = .next guarded) ∧
      ((k.line = .awaiting ∨ k.line = .receiving) → ∀ e, k.inFlight = some e →
        let a := judge e c1 c2 c3 c
        (a = .badCheck → e.attempts ≤ s.snoop.cfg.linkRetries → exec (.responseReceived c) s = .next guarded) ∧
        (a ≠ .badCheck ∨ s.snoop.cfg.linkRetries < e.attempts →
          exec (.responseReceived c) s = .next (publish s (finalOutcome e a removed)))))

/-- A final outcome at its owner and at the streak: the fault event with its detail, the streak, the degrading cause a
streak at its limit is, the mailbox result or the exposure request, and the confirmation of an exposure by a DONE write.
A PROBE entry's is stated in ProbeOutcome. -/
def Obligations.FinalOutcomes : Prop :=
  ∀ (e : LinkEntry) (a : Attempt) (s : State), e.kind ≠ .probe →
    let d := e.side
    let x := s.side d
    let t := finalOutcome e a s
    let detail : BitVec 32 := BitVec.ofNat 32 (65536 * (if e.kind = .exposure then 2 else 3) + e.reg.toNat)
    let failed := raiseEvent (match a with
      | .refused => .linkRefused
      | .badCheck => .linkBadCheck
      | .noAnswer => .linkNoAnswer
      | .done _ => .linkNoAnswer) (scopeOf d) detail s
    let n := min 255 (x.head.streak + 1)
    t.side d.other = s.side d.other ∧
    (∀ v, a = .done v →
      t.faults = s.faults ∧ (t.side d).head = { x.head with streak := 0 } ∧
      (t.side d).expo.confirmed = (if e.read = false ∧ x.cfg.expo.expoReg = e.reg then e.data.toNat else x.expo.confirmed) ∧
      (t.side d).expo.settle =
        (if e.read = false ∧ x.cfg.expo.expoReg = e.reg then x.cfg.expo.settle else x.expo.settle)) ∧
    ((∀ v, a ≠ .done v) →
      (t.side d).expo.confirmed = x.expo.confirmed ∧ (t.side d).expo.settle = x.expo.settle ∧
      (n < x.cfg.head.linkFailLimit ∨ x.inService = false →
        t.faults = failed.faults ∧ (t.side d).head = { x.head with streak := n }) ∧
      (x.cfg.head.linkFailLimit ≤ n → x.head.health = .running →
        t.faults = (raiseCond .sideDegraded (scopeOf d) 7 failed).faults ∧
        (t.side d).head = { x.head with streak := n, health := .degraded, goodFrames := 0, cause := 7 }) ∧
      (x.cfg.head.linkFailLimit ≤ n → x.head.health = .degraded →
        t.faults = failed.faults ∧ (t.side d).head = { x.head with streak := n, goodFrames := 0, cause := 7 })) ∧
    (e.kind = .exposure → (t.side d).expo.request = false ∧ t.link = s.link) ∧
    ∀ slot tag, e.kind = .mailbox slot tag →
      (t.side d).expo.request = x.expo.request ∧
      t.link.results.get slot.val ⟨0, .none, 0⟩ =
        (match a with
         | .done v => ⟨tag, .done, v⟩
         | .refused => ⟨tag, .camRefused, 0⟩
         | .badCheck => ⟨tag, .badCheck, 0⟩
         | .noAnswer => ⟨tag, .noAnswer, 0⟩)

/-- A PROBE entry's final outcome: the link event with its detail and the streak first, then the head controller: RUNNING
where the data is ID_EXPECT, with the watchdogs started, the EXPOSURE entry of the INIT exposure queued and the cab state
re-formed; else PROBE_FAILED with its detail and FAILED with cause 3, from which the side may recover by itself. A PROBE is
a read of a side outside RUNNING and DEGRADED, as the link's laws have it (LinkLawsKept). -/
def Obligations.ProbeOutcome : Prop :=
  (∀ (e : LinkEntry) (a : Attempt) (s : State), e.kind = .probe → e.read = true → (s.side e.side).inService = false →
    let detail : BitVec 32 := BitVec.ofNat 32 (65536 + e.reg.toNat)
    let counted := fun (k : FaultKind) =>
      updSide e.side (fun x => { x with head := { x.head with streak := min 255 (x.head.streak + 1) } })
        (raiseEvent k (scopeOf e.side) detail s)
    finalOutcome e a s = outcomeProbe e.side a (match a with
      | .done _ => updSide e.side (fun x => { x with head := { x.head with streak := 0 } }) s
      | .refused => counted .linkRefused
      | .badCheck => counted .linkBadCheck
      | .noAnswer => counted .linkNoAnswer)) ∧
  ∀ (d : SideId) (a : Attempt) (s : State),
    let x := s.side d
    let t := outcomeProbe d a s
    let detail : BitVec 32 := match a with
      | .done v => v.setWidth 32
      | .refused => 0x10001
      | .badCheck => 0x10002
      | .noAnswer => 0x10003
    let up := updSide d (fun x =>
      { x with
        head := { x.head with health := .running, cause := 0, goodFrames := 0, runCount := 0 }
        cap := { x.cap with watchdog := some s.time, expiries := 0 }
        disp := { x.disp with watchdog := some s.time, expired := false } }) s
    (a = .done x.cfg.head.idExpect →
      (x.cfg.expo.manual = true → t = reformCab up) ∧
      (x.cfg.expo.manual = false →
        t = reformCab (enqueueEntry
          { kind := .exposure, side := d, read := false, reg := x.cfg.expo.expoReg,
            data := BitVec.ofNat 16 x.cfg.expo.eInit, attempts := 0 }
          (updSide d (fun x => { x with expo := { x.expo with request := true } }) up)))) ∧
    (a ≠ .done x.cfg.head.idExpect →
      t = enterFailed (releaseDeferred d) d 3 (raiseEvent .probeFailed (scopeOf d) detail s) ∧
      (x.deferred = false ∨ x.cap.fip = none →
        tornDown d t ∧ (t.side d).head.cause = 3 ∧ (t.side d).cfg = x.cfg ∧ t.side d.other = s.side d.other ∧
        (x.cfg.head.autoRecover = true → x.head.attempts < x.cfg.head.recoverMax →
          (t.side d).head.health = .recovering ∧ (t.side d).head.attempts = x.head.attempts + 1) ∧
        (¬(x.cfg.head.autoRecover = true ∧ x.head.attempts < x.cfg.head.recoverMax) →
          (t.side d).head.health = .failed ∧ isActive .sideFailed (scopeOf d) t = true)))

/-- A side's entries are cancelled: they leave the queue, CANCELLED goes to their owners only, and the line runs to its
end: a request being sent to the end of its character, the next multiple of the character time and at most the sixth
(log 18). -/
def Obligations.CancelSide : Prop :=
  ∀ (d : SideId) (s : State),
    let k := s.link
    let t := cancelSide d s
    t.link.waiting = k.waiting.filter (fun e => e.side != d) ∧
    t.faults = s.faults ∧ t.side d.other = s.side d.other ∧ (t.side d).head = (s.side d).head ∧
    (t.side d).expo.request = (if (linkEntries k).any (isExposure d) then false else (s.side d).expo.request) ∧
    (∀ n : Fin 6, (∀ e ∈ linkEntries k, e.side = d → LinkEntry.ofSlot n e = false) →
      t.link.results.get n.val ⟨0, .none, 0⟩ = k.results.get n.val ⟨0, .none, 0⟩) ∧
    (∀ (n : Fin 6) (tag : Byte) (e : LinkEntry), e ∈ linkEntries k → e.side = d → e.kind = .mailbox n tag →
      (∀ e' ∈ linkEntries k, LinkEntry.ofSlot n e' = true → e' = e) →
      t.link.results.get n.val ⟨0, .none, 0⟩ = ⟨tag, .cancelled, 0⟩) ∧
    ((∀ e, k.inFlight = some e → e.side ≠ d) → t.link.inFlight = k.inFlight ∧ t.link.line = k.line) ∧
    (∀ e, k.inFlight = some e → e.side = d →
      t.link.inFlight = none ∧
      (k.line = .sending →
        t.link.line = .sending ∧
          t.link.cutAt =
            let character := 11 * (16 * (k.divisor + 1))
            some (min 6 (s.refSince k.txStart / character + 1) * character)) ∧
      (k.line = .awaiting ∨ k.line = .receiving → t.link.line = .draining) ∧
      (k.line = .guard → t.link.line = .guard))

/-- A mailbox submission: its beat merged, then BUSY, REFUSED_STATE, or an entry at the tail with the result PENDING; a
TAG of 0 submits nothing. That the result REFUSED_STATE carries data 0 is the model's choice (log 35). -/
def Obligations.MailboxSubmission : Prop :=
  ∀ (s : State) (n : Fin 6) (tag : Byte),
    let at' := 0xA00 + 16 * n.val
    let m := Image.mergeBeat s.snoop.image (at' + 8) ⟨tag.setWidth 64, 1⟩
    let s1 : State := { s with snoop := { s.snoop with image := m } }
    let d : SideId := if (Image.get m at').getLsbD 0 then .right else .left
    let read := (Image.get m (at' + 1)).getLsbD 0
    let result := fun (r : MailResult) =>
      ({ s1 with link := { s.link with results := s.link.results.set n.val r } } : State)
    let busy := ∃ e ∈ linkEntries s.link, LinkEntry.ofSlot n e = true
    s.inReset = false → Image.wf s.snoop.image = true →
    (tag = 0 → exec (.mailboxSubmission n tag) s = .next s1) ∧
    (tag ≠ 0 → busy → exec (.mailboxSubmission n tag) s = .next (publish s (result ⟨tag, .busy, 0⟩))) ∧
    (tag ≠ 0 → ¬busy → (s.side d).head.health ∉ [.probing, .running, .degraded, .failed] →
      exec (.mailboxSubmission n tag) s = .next (publish s (result ⟨tag, .refusedState, 0⟩))) ∧
    (tag ≠ 0 → ¬busy → (s.side d).head.health ∈ [.probing, .running, .degraded, .failed] →
      exec (.mailboxSubmission n tag) s = .next (publish s
        (enqueueEntry
          { kind := .mailbox n tag, side := d, read := read,
            reg := BitVec.ofNat 16 (Image.field m (at' + 2) 2),
            data := if read then 0 else BitVec.ofNat 16 (Image.field m (at' + 4) 2), attempts := 0 }
          (result ⟨tag, .pending, 0⟩))))

/-! ## The settings block -/

/-- A settings write: every strobed byte of the beat that lies in the pending image replaces the byte at its offset,
and a beat that strobes no field that acts does nothing else; the image keeps its one form. -/
def Obligations.SettingsWriteMerges : Prop :=
  ∀ (s : State) (off : BitVec 12) (data : BitVec 64) (strb : BitVec 8),
    let m := Image.mergeBeat s.snoop.image off.toNat ⟨data, strb⟩
    Image.wf s.snoop.image = true →
    Image.wf m = true ∧
    (∀ o, Image.get m o =
      if off.toNat ≤ o ∧ o < off.toNat + 8 ∧ strb.getLsbD (o - off.toNat) = true ∧ o < 0xA60 then
        data.extractLsb' (8 * (o - off.toNat)) 8
      else Image.get s.snoop.image o) ∧
    (s.inReset = false → Instr.wf (.settingsWrite off data strb) = true →
      exec (.settingsWrite off data strb) s = .next { s with snoop := { s.snoop with image := m } })

/-- The fields that act when a beat strobes them, after the whole beat has been merged, act in ascending order of
offset. -/
def Obligations.BeatActionOrder : Prop :=
  ∀ (s : State) (off : BitVec 12) (data : BitVec 64) (strb : BitVec 8),
    let m := Image.mergeBeat s.snoop.image off.toNat ⟨data, strb⟩
    let on := fun lo hi => ∃ k, k < 8 ∧ strb.getLsbD k = true ∧ lo ≤ off.toNat + k ∧ off.toNat + k < hi
    s.inReset = false →
    ∃ s0 s1 s2 s3 s4 s5 : State, ∃ tags : List (Fin 6),
      s0 = { s with snoop := { s.snoop with image := m } } ∧
      (on 0x000 0x004 → s1 = globalApplyOp s0) ∧ (¬on 0x000 0x004 → s1 = s0) ∧
      (on 0x004 0x006 → s2 = ringReadOp s1) ∧ (¬on 0x004 0x006 → s2 = s1) ∧
      (on 0x008 0x00C → s3 = commandOp s2) ∧ (¬on 0x008 0x00C → s3 = s2) ∧
      (on 0x200 0x204 → s4 = sideApply .left s3) ∧ (¬on 0x200 0x204 → s4 = s3) ∧
      (on 0x600 0x604 → s5 = sideApply .right s4) ∧ (¬on 0x600 0x604 → s5 = s4) ∧
      tags.Pairwise (· < ·) ∧ (∀ n, n ∈ tags ↔ on (0xA08 + 16 * n.val) (0xA09 + 16 * n.val)) ∧
      exec (.settingsWrite off data strb) s = .next (publish s (tags.foldl (fun u n => submitSlot n u) s5))

/-- A write to GLOBAL_APPLY: the pending values as the image lays them out, with their clamps; refused with the lowest
reason that is broken, leaving the settings as they were; or the pending values become the active settings, with the
injector, the backlight and its ramp timer started, the ring reconfigured where its place or size changed, both targets
re-formed, each bypass taken or released, the ramp timer compared with its new interval, a changed LAMP_POL read anew and
FAULT_N re-judged (its record is log 32). -/
def Obligations.GlobalApplyResult : Prop :=
  ∀ (s : State) (v : BitVec 32) (strb : BitVec 4),
    let m := Image.mergeBeat s.snoop.image 0 ⟨v.setWidth 64, strb.setWidth 8⟩
    let s1 : State := { s with snoop := { s.snoop with image := m } }
    let g := pendingGlobal m
    let reason := globalReason g
    let byte := fun o => (Image.get m o).toNat
    let two := fun o => byte o + 256 * byte (o + 1)
    let four := fun o => two o + 65536 * two (o + 2)
    let bit := fun o k => (Image.get m o).getLsbD k
    let ringOk := g.ringSize ≤ 5 ∧ g.ringBase % 32 = 0 ∧
      (g.ringSize = 0 ∨ g.ringBase + 32 * (8 * 2 ^ g.ringSize) ≤ 4294967296)
    let timesOk := 50 ≤ g.blPeriod ∧ g.blPeriod ≤ 5000 ∧ 1 ≤ g.linkTimeout
    g =
      { ringBase := four 0x010, ringSize := byte 0x014, attnLevel := min 4 (byte 0x015),
        faultPinLevel := min 4 (byte 0x016), lampPol := bit 0x017 0, levelCapture := min 3 (byte 0x018),
        levelDisplay := min 3 (byte 0x019), levelCamera := min 3 (byte 0x01A), levelHealth := min 3 (byte 0x01B),
        levelSettings := min 3 (byte 0x01C), levelPath := min 3 (byte 0x01D), linkDivisor := byte 0x020,
        linkTimeout := byte 0x021, linkRetries := min 3 (byte 0x022), blPeriod := two 0x030,
        blDay := min 1000 (two 0x032), blDusk := min 1000 (two 0x034), blNight := min 1000 (two 0x036),
        blFailMin := min 1000 (two 0x038), rampCode := byte 0x03A % 4, rampStep := max 1 (min 100 (byte 0x03B)),
        bypL := bit 0x03C 0, bypR := bit 0x03C 1, bypDutyL := min 1000 (two 0x03E), bypDutyR := min 1000 (two 0x040) } ∧
    (reason = 0 ↔ ringOk ∧ timesOk) ∧ (reason = 12 ↔ ¬ringOk) ∧ (reason = 13 ↔ ringOk ∧ ¬timesOk) ∧
    (s.inReset = false → strb ≠ 0 →
      (reason ≠ 0 →
        exec (.globalApply v strb) s = .next (publish s
          (let t := raiseEvent .configRejected .global (BitVec.ofNat 32 reason) s1
           { t with
             snoop := { t.snoop with reject := reason }
             inj := { t.inj with flagGlobal := true } }))) ∧
      (reason = 0 →
        ∃ t, exec (.globalApply v strb) s = .next t ∧ t.snoop.cfg = g ∧ t.snoop.reject = 0 ∧ t.inj.serving = true ∧
          t.inj.flagGlobal = true ∧
          (s.inj.serving = false → t.inj.flagFaults = true ∧ t.inj.flagLeft = true ∧ t.inj.flagRight = true) ∧
          -- the backlight
          (let b := s.backlight
           let timer := if s.inj.serving = true ∨ b.running = true then b.rampTimer else some s.time
           let due := ∃ start, timer = some start ∧ 4000 * 4 ^ g.rampCode ≤ (s.time - start).toNat
           let monitor := fun (d : SideId) (byp : Bool) (duty : Nat) (m y : Monitor) =>
             y.target = targetOf t d ∧ y.out = m.out ∧ y.high = m.high ∧
               (byp = true → y.cur = duty) ∧
               (byp = false → ¬due → y.cur = m.cur) ∧
               (byp = false → due →
                 y.cur =
                   if m.cur < y.target then min y.target (m.cur + g.rampStep)
                   else if y.target < m.cur then max y.target (m.cur - g.rampStep)
                   else m.cur)
           monitor .left g.bypL g.bypDutyL b.left t.backlight.left ∧
             monitor .right g.bypR g.bypDutyR b.right t.backlight.right ∧
             t.backlight.running = (b.running || !s.inj.serving) ∧
             (¬due → t.backlight.rampTimer = timer) ∧ (due → t.backlight.rampTimer = some s.time) ∧
             t.backlight.periodStart = b.periodStart ∧ t.backlight.periodLen = b.periodLen) ∧
          -- the lamp level, and FAULT_N
          t.lamp =
            { s.lamp with
              measure :=
                if s.snoop.cfg.lampPol = g.lampPol then s.lamp.measure
                else if (s.lamp.pin != g.lampPol) = s.lamp.on then none
                else some s.time } ∧
          (let judged := ({ s with snoop := { s.snoop with cfg := g } } : State).faultAsserted
           t.faults =
             { s.faults with
               edges := if judged = s.faultAsserted then s.faults.edges else s.faults.edges ++ [judged] }) ∧
          -- the ring, and what stays
          (∀ d, t.side d = s.side d) ∧ t.link = s.link ∧ t.path = s.path ∧ t.cab = s.cab ∧ t.inj.seq = s.inj.seq ∧
          (s.snoop.cfg.ringBase = g.ringBase ∧ s.snoop.cfg.ringSize = g.ringSize →
            t.inj.w = s.inj.w ∧ t.inj.r = s.inj.r ∧ t.inj.attn = s.inj.attn ∧ t.inj.inflight = s.inj.inflight ∧
              t.snoop.image = m) ∧
          (¬(s.snoop.cfg.ringBase = g.ringBase ∧ s.snoop.cfg.ringSize = g.ringSize) →
            t.inj.w = 0 ∧ t.inj.r = 0 ∧ t.inj.attn = false ∧ currentRecord t.inj = false ∧
              t.snoop.image = Image.put (Image.put m 4 0) 5 0)))

/-- A write to a side's APPLY word: the pending values as the image lays them out, with their clamps; refused with the
lowest reason that is broken, deferred behind the frame in progress, or applied at once. And the release of a deferred
apply when that frame has ended: the fields judged again as they then stand, and refused or applied. In applying, that the
frame watchdog is compared before the display watchdog is the model's choice (log 31). -/
def Obligations.SideApplyResult : Prop :=
  (∀ (d : SideId) (m : Image),
    let area := match d with
      | .left => 0x200
      | .right => 0x600
    let byte := fun o => (Image.get m (area + o)).toNat
    let two := fun o => byte o + 256 * byte (o + 1)
    let four := fun o => two o + 65536 * two (o + 2)
    let bit := fun o k => (Image.get m (area + o)).getLsbD k
    let addr := fun o => BitVec.ofNat 32 (four o)
    pendingSide d m =
      { cap :=
          { capCode := addr 0x004, capMask := addr 0x008, dispCode := addr 0x00C, dispMask := addr 0x010,
            width := two 0x014, height := two 0x016, pitch := two 0x018,
            bufBase := Table.ofFn 3 fun n => addr (0x020 + 4 * n), fallback := addr 0x02C, frameTimeout := four 0x030,
            missingLimit := byte 0x034, freezeLimit := byte 0x035, shortTolerance := byte 0x036 }
        dev :=
          { knee1 := two 0x040, knee2 := two 0x042, knee3 := two 0x044, shift0 := byte 0x046, shift1 := byte 0x047,
            shift2 := byte 0x048, shift3 := byte 0x049, black := two 0x04A, gain00 := min 4095 (two 0x04C),
            gain01 := min 4095 (two 0x04E), gain10 := min 4095 (two 0x050), gain11 := min 4095 (two 0x052),
            glareKnee := min 1048575 (four 0x054), roiX0 := two 0x058, roiX1 := two 0x05A, roiY0 := two 0x05C,
            roiY1 := two 0x05E }
        tone :=
          { host := bit 0x060 0, blackFloor := two 0x062 % 1024, clip := max 1 (byte 0x064),
            alpha := max 1 (min 16 (byte 0x065)), hostNodes := Table.ofFn 21 fun e => min 1023 (two (0x066 + 2 * e)) }
        expo :=
          { manual := bit 0x090 0, target16 := two 0x092 % 512, deadband := byte 0x094, aeGain := byte 0x095,
            settle := byte 0x096 % 16, eInit := two 0x098, eMin := two 0x09A, eMax := two 0x09C,
            expoReg := BitVec.ofNat 16 (two 0x09E) }
        glare :=
          { enterCount := two 0x0A0, exitCount := two 0x0A2, onsetFrames := byte 0x0A4, rampDown := max 1 (byte 0x0A5),
            rampUp := max 1 (byte 0x0A6), releaseHold := byte 0x0A7, aMin := max 16 (min 256 (two 0x0A8)) }
        scene :=
          { duskExit := two 0x0B0, duskEnter := two 0x0B2, nightExit := two 0x0B4, nightEnter := two 0x0B6,
            persist := byte 0x0B8, lampBias := byte 0x0B9 }
        disp := { staleLimit := byte 0x0C0, latencyLimit := four 0x0C4, displayTimeout := four 0x0C8 }
        head :=
          { autoStart := bit 0x0D0 0, autoRecover := bit 0x0D1 0, recoverMax := byte 0x0D2, degradeClear := byte 0x0D3,
            linkFailLimit := byte 0x0D4, recoverClear := two 0x0D6, stabMs := two 0x0D8, offDwellMs := two 0x0DA,
            delay12 := two 0x0DC, delay23 := two 0x0DE, idReg := BitVec.ofNat 16 (two 0x0E0),
            idExpect := BitVec.ofNat 16 (two 0x0E2), camAddr := byte 0x0E4,
            bypEn := (Image.get m (area + 0x0E5)).setWidth 3, bypVal := (Image.get m (area + 0x0E6)).setWidth 3 } }) ∧
  (∀ (c : SideCfg) (other : Side) (block : Range),
    let reason := sideReason c other block
    (reason = 0 ↔ ∀ code, meets c other block code) ∧
    (reason ≠ 0 → ¬meets c other block reason ∧ ∀ code < reason, meets c other block code)) ∧
  (∀ (s : State) (d : SideId) (v : BitVec 32) (strb : BitVec 4),
    let off := match d with
      | .left => 0x200
      | .right => 0x600
    let m := Image.mergeBeat s.snoop.image off ⟨v.setWidth 64, strb.setWidth 8⟩
    let s1 : State := { s with snoop := { s.snoop with image := m } }
    let x := s.side d
    let c := pendingSide d m
    let reason := sideReason c (s.side d.other) (blockRange s.anchor)
    s.inReset = false → strb ≠ 0 →
    (reason ≠ 0 →
      exec (.apply d v strb) s = .next (publish s (flagPage .global
        (updSide d (fun x => { x with reject := reason, deferred := false })
          (raiseEvent .configRejected (scopeOf d) (BitVec.ofNat 32 reason) s1))))) ∧
    (reason = 0 → x.cap.fip.isSome = true →
      exec (.apply d v strb) s = .next (publish s (updSide d (fun x => { x with deferred := true }) s1))) ∧
    (reason = 0 → x.cap.fip = none → ∃ t, exec (.apply d v strb) s = .next (publish s t) ∧ applied d c s1 t)) ∧
  ∀ (s : State) (d : SideId),
    let s1 := updSide d (fun x => { x with deferred := false }) s
    let c := pendingSide d s.snoop.image
    let reason := sideReason c (s.side d.other) (blockRange s.anchor)
    ((s.side d).deferred = false → releaseDeferred d s = s) ∧
    ((s.side d).deferred = true → reason ≠ 0 →
      releaseDeferred d s = flagPage .global
        (updSide d (fun x => { x with reject := reason })
          (raiseEvent .configRejected (scopeOf d) (BitVec.ofNat 32 reason) s1))) ∧
    ((s.side d).deferred = true → reason = 0 → s.inReset = false → (s.side d).cap.fip = none →
      applied d c s1 (releaseDeferred d s))

/-- A write to RING_READ: the merged value is taken where it leads W by no more than the ring's size, the slot of a
record in flight counted, one to an abandoned ring too (log 21); a value equal to W releases ATTN_N. -/
def Obligations.RingReadResult : Prop :=
  ∀ (s : State) (v : BitVec 16) (strb : BitVec 2),
    let m := Image.mergeBeat s.snoop.image 0 ⟨v.setWidth 64 <<< 32, strb.setWidth 8 <<< 4⟩
    let s1 : State := { s with snoop := { s.snoop with image := m } }
    let new : Half := BitVec.ofNat 16 (Image.field m 4 2)
    let n := ringCount s.snoop.cfg.ringSize
    let taken := (s.inj.w - new).toNat ≤ n ∧ (recordInFlight s.inj = true → (s.inj.w + 1 - new).toNat ≤ n)
    s.inReset = false → strb ≠ 0 →
    (taken →
      exec (.ringRead v strb) s = .next (publish s
        { s1 with inj := { s.inj with r := new, attn := if new = s.inj.w then false else s.inj.attn } })) ∧
    (¬taken → exec (.ringRead v strb) s = .next s1)

/-! ## The report injector -/

/-- Issue: with the ring roomy, an OVERFLOW record where reports have been lost, else the highest-ranked report, each
with the next sequence number at the slot of W; else the first flagged section, its flag cleared, with its fields at their
places and 0 elsewhere; nothing while a burst is in flight or before the first global apply. That an issue that is not due
has no effect is the model's choice (log 2). A grant that is due at an issue is made first (WriteGrant). -/
def Obligations.InjectorIssues : Prop :=
  ∀ s : State,
    let i := s.inj
    let room := (i.w - i.r).toNat < ringCount s.snoop.cfg.ringSize
    let free := i.serving = true ∧ i.inflight = none
    let pendingRecord := 0 < s.faults.lost ∨ s.faults.queue ≠ []
    let slot : Addr := BitVec.ofNat 32 (s.snoop.cfg.ringBase + 32 * (i.w.toNat % ringCount s.snoop.cfg.ringSize))
    let record := fun (kind : InjKind) (beats : List Beat) =>
      ({ i with
         seq := i.seq + 1
         flagGlobal := true
         inflight := some { kind := kind, addr := slot, beats := beats, granted := false } } : Injector)
    let sideFields := fun d : SideId =>
      let x := s.side d
      [(0x00, 1, x.head.health.code), (0x01, 1, x.head.cause), (0x02, 1, x.head.attempts), (0x03, 1, x.head.streak),
       (0x04, 1, x.seq.state.code), (0x05, 1, x.seq.step),
       (0x06, 1, (if 0 < x.seq.step then 1 else 0) + (if 1 < x.seq.step then 2 else 0) + if 2 < x.seq.step then 4 else 0),
       (0x07, 1, (pinLevel s d 0).toNat + 2 * (pinLevel s d 1).toNat + 4 * (pinLevel s d 2).toNat),
       (0x15, 1, x.configured.toNat), (0x08, 2, x.cap.frameNumber.toNat), (0x0C, 4, x.cap.accepted),
       (0x10, 4, x.cap.dropped)] ++
      [(0x14, 1, match x.cap.fip with
         | some f => f.buf
         | none => 3),
       (0x18, 4, match x.cap.fip with
         | some f => f.start.toNat
         | none => 0)] ++
      ((List.range 3).flatMap fun n =>
        match x.cap.bufs.get n .free with
        | .free => [(0x20 + 16 * n, 1, 0)]
        | .filling => [(0x20 + 16 * n, 1, 1)]
        | .ready f => (0x20 + 16 * n, 1, 2) :: frameFields n f
        | .shown f => (0x20 + 16 * n, 1, 3) :: frameFields n f) ++
      [(0x50, 1, x.scene.state.code),
       (0x51, 1, match x.scene.candidate with
         | some c => c.code + 1
         | none => 0),
       (0x52, 1, x.scene.persist), (0x54, 2, x.scene.key),
       (0x56, 2, x.tiles.list.countP fun y => y.state != .clear),
       (0x58, 2, x.expo.m16), (0x5A, 2, x.expo.confirmed), (0x5C, 1, x.expo.settle), (0x60, 4, x.expo.aeHeld),
       (0x64, 1, x.disp.repeats), (0x68, 4, x.disp.lastAge.toNat)] ++
      [(0x6C, 4, match x.coll.last with
         | some r => r.total
         | none => 0),
       (0x70, 4, match x.coll.last with
         | some r => r.partials
         | none => 0)] ++
      (List.range 21).map fun e => (0x80 + 2 * e, 2, x.tone.get e 0)
    let fields : PageId → List (Nat × Nat × Nat) := fun p =>
      match p with
      | .left => sideFields .left
      | .right => sideFields .right
      | .faults => (List.range 40).flatMap fun n =>
          let r := s.faults.table.get n ⟨false, 0, none, none⟩
          [(4 * n, 1, r.flag.toNat), (4 * n + 2, 2, r.count)]
      | .global =>
          [(0x00, 4, s.time.toNat), (0x08, 2, s.backlight.left.cur), (0x0C, 2, s.backlight.right.cur),
           (0x04, 1, s.cab.code), (0x05, 1, s.lamp.on.toNat), (0x06, 1, (isActive .reportPath .global s).toNat),
           (0x0A, 2, s.backlight.left.target), (0x0E, 2, s.backlight.right.target),
           (0x10, 1, s.snoop.cfg.bypL.toNat + 2 * s.snoop.cfg.bypR.toNat), (0x14, 2, i.w.toNat), (0x16, 2, i.r.toNat),
           (0x18, 4, i.seq.toNat), (0x1C, 2, s.faults.lost), (0x1E, 1, s.faults.queue.length),
           (0x20, 1, s.link.waiting.length + s.link.inFlight.toList.length),
           (0x21, 1, match s.link.inFlight with
             | some e => e.kind.code
             | none => 0),
           (0x24, 4, s.snoop.cmdEcho.toNat), (0x28, 1, s.snoop.cmdResult.code), (0x2C, 1, s.left.reject),
           (0x2D, 1, s.right.reject), (0x2E, 1, s.snoop.reject)] ++
          (List.range 6).flatMap fun n =>
            let r := s.link.results.get n ⟨0, .none, 0⟩
            [(0x30 + 4 * n, 1, r.tag.toNat), (0x31 + 4 * n, 1, r.outcome.code), (0x32 + 4 * n, 2, r.data.toNat)]
    s.inReset = false → noGrantAtOnce s →
    (free → room → 0 < s.faults.lost →
      ∃ beats, beatsHold beats 4
          [(0, 4, i.seq.toNat), (4, 4, s.time.toNat), (8, 1, 0), (9, 1, 2), (10, 1, 3), (11, 1, 3), (12, 2, 0), (14, 2, 0),
           (16, 4, s.faults.lost), (20, 4, 0)] ∧
        exec .ringRecordIssue s = .next (publish s
          { s with
            faults := { s.faults with lost := 0 }
            inj := record (.ringRecord true s.faults.lost 3 false) beats })) ∧
    (free → room → s.faults.lost = 0 → ∀ r rest, s.faults.queue = r :: rest →
      ∃ beats, beatsHold beats 4
          [(0, 4, i.seq.toNat), (4, 4, r.time.toNat), (8, 1, r.kind.code), (9, 1, r.scope.num), (10, 1, r.type.code),
           (11, 1, r.level), (12, 2, r.count), (14, 2, r.frame.toNat), (16, 4, r.detail.toNat), (20, 4, r.first.toNat)] ∧
        exec .ringRecordIssue s = .next (publish s
          { s with
            faults := { s.faults with queue := rest }
            inj := record (.ringRecord false 0 r.level false) beats })) ∧
    (¬(free ∧ room ∧ pendingRecord) → exec .ringRecordIssue s = .next s) ∧
    (free → ¬(room ∧ pendingRecord) → ∀ p, firstFlagged i = some p →
      let place : Nat := match p with
        | .global => 0xC00
        | .left => 0xD00
        | .right => 0xE00
        | .faults => 0xF00
      let cleared : State := unflagPage p s
      ∃ beats, beatsHold beats 32 (fields p) ∧
        exec .sectionIssue s = .next (publish s
          { cleared with
            inj :=
              { cleared.inj with
                inflight := some
                  { kind := .page p, addr := blockBase s.anchor + BitVec.ofNat 32 place, beats := beats,
                    granted := false } } })) ∧
    (¬free ∨ (room ∧ pendingRecord) ∨ firstFlagged i = none → exec .sectionIssue s = .next s)

/-- The response to an injected burst: W advances only at the OKAY of a record of the current ring, which may assert
ATTN_N; a lost record counts, a failed OVERFLOW record gives its count back, a failed section is flagged again; and
REPORT_PATH follows the response. The burst it answers has been sent whole, and holds the downstream write channels no
more (log 9). That the response row of the other kind of burst has no effect is the model's choice (log 25). -/
def Obligations.InjectedResponses : Prop :=
  ∀ (s : State) (b : InjBurst),
    let done : State :=
      { s with
        inj := { s.inj with inflight := none }
        path := { s.path with tail := if s.path.tail = some .injector then none else s.path.tail } }
    let failed := fun t : State => raiseCond .reportPath .global b.addr t
    let landed := fun t : State => clearCond .reportPath .global t
    let lose := fun n : Nat => { done with faults := { s.faults with lost := min 65535 (s.faults.lost + n) } }
    s.inReset = false → s.inj.inflight = some b → b.granted = true →
    ∀ r : Resp,
      let error := r = .slverr ∨ r = .decerr
      (∀ carried overflow level stale, b.kind = .ringRecord overflow carried level stale →
        (error → exec (.ringRecordResponse r) s = .next (publish s (failed (lose (if overflow then carried else 1))))) ∧
        (¬error → stale = true →
          exec (.ringRecordResponse r) s = .next (publish s (landed (lose (if overflow then carried else 1))))) ∧
        (¬error → stale = false →
          exec (.ringRecordResponse r) s = .next (publish s (landed
            { done with
              inj :=
                { done.inj with
                  w := s.inj.w + 1
                  attn := s.inj.attn || decide (s.snoop.cfg.attnLevel ≤ level)
                  flagGlobal := true } }))) ∧
        exec (.sectionResponse r) s = .next s) ∧
      (∀ p, b.kind = .page p →
        (error → exec (.sectionResponse r) s = .next (publish s (failed (flagPage p done)))) ∧
        (¬error → exec (.sectionResponse r) s = .next (publish s (landed done))) ∧
        exec (.ringRecordResponse r) s = .next s)

/-! ## The memory path -/

/-- Beat addresses, byte lanes and byte ranges of a burst; every beat lies in the byte range; and the split of a redirected
burst at a 4 KiB boundary. That the part beyond 2^32 goes to address 0 is the model's choice (log 37). -/
def Obligations.BurstGeometry : Prop :=
  ∀ b : Burst,
    let A := b.addr.toNat
    let S := b.size.bytes
    let As := A / S * S
    let B := A / (S * b.len) * (S * b.len)
    (b.kind = .fixed → byteRange b = (A, As + S - 1)) ∧
    (b.kind = .incr → byteRange b = (A, As + b.len * S - 1)) ∧
    (b.kind = .wrap → byteRange b = (B, B + S * b.len - 1)) ∧
    (∀ w : Range, w.lo ≤ w.hi →
      (touches b w = true ↔ ∃ a, (byteRange b).1 ≤ a ∧ a ≤ (byteRange b).2 ∧ w.lo ≤ a ∧ a ≤ w.hi)) ∧
    (∀ n < b.len,
      let a := beatAddr b n
      (n = 0 ∨ b.kind = .fixed → a = A) ∧
      (0 < n → b.kind = .incr → a = As + n * S) ∧
      (0 < n → b.kind = .wrap → As + n * S < B + S * b.len → a = As + n * S) ∧
      (0 < n → b.kind = .wrap → B + S * b.len ≤ As + n * S → a = As + n * S - S * b.len) ∧
      (byteRange b).1 ≤ a ∧ a / S * S + S - 1 ≤ (byteRange b).2 ∧
      ∀ k < 8,
        (inLane b n k = true ↔ a % 8 ≤ k ∧ k ≤ a / S * S % 8 + S - 1) ∧
        ∀ bt : Beat, (maskBeat b n bt).byte k = bt.byte k ∧
          (maskBeat b n bt).strobed k = (bt.strobed k && inLane b n k)) ∧
    ∀ a : Addr,
      let first := a.toNat / S * S
      let edge := (a.toNat / 4096 + 1) * 4096
      let part := fun (at' : Addr) (len : Nat) =>
        ({ id := b.id.setWidth 9, addr := at', lenM1 := BitVec.ofNat 8 (len - 1), size := b.size, kind := b.kind,
           attrs := b.attrs } : DownBurst)
      (first + b.len * S ≤ edge → redirected b a = [part a b.len]) ∧
      (edge < first + b.len * S →
        ∃ k, 0 < k ∧ k < b.len ∧ first + k * S = edge ∧
          redirected b a = [part a k, part (BitVec.ofNat 32 edge) (b.len - k)])

/-- Windows and decoding: with a mask that validation accepts, the addresses of a window are those that agree with its code
on the mask's bits, and offsets are the other bits; a burst is decoded into a window exactly when it is INCR and lies
whole in it, is split when it touches one and is not decoded, and is plain when it touches none. -/
def Obligations.WindowDecoding : Prop :=
  (∀ (code mask a : Addr) (k : Nat), 12 ≤ k → k ≤ 28 → mask.toNat = 2 ^ 32 - 2 ^ k →
    let w := window code mask
    (w.lo ≤ a.toNat ∧ a.toNat ≤ w.hi ↔ a &&& mask = code &&& mask) ∧
    (a &&& mask = code &&& mask → a.toNat - w.lo = (a &&& ~~~mask).toNat)) ∧
  ∀ (b : Burst) (s : State),
    let win := fun (d : SideId) (capture : Bool) =>
      let c := (s.side d).cfg.cap
      if capture then window c.capCode c.capMask else window c.dispCode c.dispMask
    let hit := fun d capture => (s.side d).configured = true ∧ touches b (win d capture) = true
    let into := fun d capture =>
      (s.side d).configured = true ∧ b.kind = .incr ∧ (win d capture).lo ≤ (byteRange b).1 ∧
        (byteRange b).2 ≤ (win d capture).hi
    (decodeBurst b s = .plain ↔ ∀ d c, ¬hit d c) ∧
    (decodeBurst b s = .split ↔ (∃ d c, hit d c) ∧ ∀ d c, ¬into d c) ∧
    (∀ d off, decodeBurst b s = .capture d off → into d true ∧ off = b.addr.toNat - (win d true).lo) ∧
    (∀ d off, decodeBurst b s = .display d off → into d false ∧ off = b.addr.toNat - (win d false).lo) ∧
    ∀ d c, into d c → (∀ d' c', into d' c' → d' = d ∧ c' = c) →
      decodeBurst b s =
        if c then .capture d (b.addr.toNat - (win d c).lo) else .display d (b.addr.toNat - (win d c).lo)

/-- WRITE_BURST_TAKEN: what becomes of a write burst that is no frame material: passed through, passed through with
SPLIT_BURST, or absorbed, with ALIAS_WRITE or ORPHAN_WRITE or no fault; and that an address that cannot be taken yet
changes nothing (log 6). A grant that is due when the address comes is made first (WriteGrant). -/
def Obligations.WriteBurstTaken : Prop :=
  ∀ (b : Burst) (s : State), s.inReset = false → noGrantFirst s →
    (¬writeOpen s → exec (.writeBurstTaken b) s = .next s) ∧
    (writeOpen s → decodeBurst b s = .plain → exec (.writeBurstTaken b) s = .next (writeTaken b .pass .pass s)) ∧
    (writeOpen s → decodeBurst b s = .split →
      exec (.writeBurstTaken b) s = .next (publish s
        (writeTaken b .pass .pass (raiseEvent .splitBurst .global b.addr s)))) ∧
    (writeOpen s → ∀ d off, decodeBurst b s = .display d off →
      exec (.writeBurstTaken b) s = .next (publish s
        (writeTaken b .part .absorbed (raiseEvent .aliasWrite (scopeOf d) (BitVec.ofNat 32 off) s)))) ∧
    (writeOpen s → ∀ d off, decodeBurst b s = .capture d off →
      let x := s.side d
      (x.inService = false ∨ x.cfg.cap.area ≤ off →
        exec (.writeBurstTaken b) s = .next (writeTaken b .part .absorbed s)) ∧
      (x.inService = true → off < x.cfg.cap.area → x.cap.fip = none → ¬startsLine x.cfg.cap off 0 →
        exec (.writeBurstTaken b) s = .next (publish s
          (writeTaken b .part .absorbed (raiseEvent .orphanWrite (scopeOf d) (BitVec.ofNat 32 off) s)))))

/-- WRITE_BURST_TAKEN in RUNNING and DEGRADED, inside the frame area: line 0 starts a frame in the lowest FREE buffer, is
held, or truncates; a higher line start is counted or gives LINE_ORDER; and frame material is redirected to the FILLING
buffer and counted as outstanding. With no FREE buffer, which the buffer laws exclude, the write is absorbed: the model's
choice, log 14. A grant that is due when the address comes is made first (WriteGrant). -/
def Obligations.CaptureWriteTaken : Prop :=
  ∀ (b : Burst) (s : State) (d : SideId) (off : Nat),
    let x := s.side d
    let c := x.cfg.cap
    let held : State := { s with path := { s.path with heldWrite := some (d, b) } }
    let material := fun (f : Fip) (t : State) =>
      writeTaken b (.capture d true) (.capture d (c.bufBase.get f.buf 0 + BitVec.ofNat 32 off) off)
        (updSide d (fun y => { y with cap := { y.cap with fip := some { f with outstanding := f.outstanding + 1 } } }) t)
    s.inReset = false → noGrantAtOnce s → writeOpen s → decodeBurst b s = .capture d off → x.inService = true →
    off < c.area →
    (startsLine c off 0 → line0Waits x → exec (.writeBurstTaken b) s = .next held) ∧
    (∀ f, x.cap.fip = some f →
      ((∀ l, ¬startsLine c off l) → exec (.writeBurstTaken b) s = .next (publish s (material f s))) ∧
      (∀ l, 0 < l → startsLine c off l → l ≤ f.highest →
        exec (.writeBurstTaken b) s = .next (publish s
          (material f (raiseEvent .lineOrder (scopeOf d) (BitVec.ofNat 32 l) s)))) ∧
      (∀ l, f.highest < l → startsLine c off l →
        exec (.writeBurstTaken b) s = .next (publish s (material { f with lines := f.lines + 1, highest := l } s))) ∧
      (f.closing = false → startsLine c off 0 →
        let gone := frameRejected d f (raiseEvent .lineShortfall (scopeOf d) (BitVec.ofNat 32 f.lines) s)
        let t := releaseDeferred d
          { gone with
            path :=
              { gone.path with
                writes := gone.path.writes.map fun e =>
                  if e.owner = .capture d true then { e with owner := .capture d false } else e } }
        (∀ d' off', decodeBurst b t = .capture d' off' → (t.side d').cap.fip = none) →
        ∃ u, exec (.writeBurstTaken b) t = .next (publish t u) ∧ exec (.writeBurstTaken b) s = .next (publish s u))) ∧
    (x.cap.fip = none → startsLine c off 0 → ¬line0Waits x →
      (∀ n < 3, x.cap.bufs.get n .filling = .free → (∀ m < n, x.cap.bufs.get m .filling ≠ .free) →
        exec (.writeBurstTaken b) s = .next (publish s
          (material
            { buf := n, lines := 1, highest := 0, writeError := false, outstanding := 0, closing := false,
              start := s.time }
            (updSide d (fun y =>
              { y with
                cap := { y.cap with bufs := y.cap.bufs.set n .filling }
                coll :=
                  { y.coll with
                    acc := some (Stats.fresh y.scene.state)
                    snap := { nodes := y.tone, gains := y.tiles.map Tile.gain } } }) s)))) ∧
      ((∀ n < 3, x.cap.bufs.get n .filling ≠ .free) →
        exec (.writeBurstTaken b) s = .next (writeTaken b .part .absorbed s)))

/-- The held addresses: one that its side still holds stays, and one that is released is handled as a burst that is taken
at that moment. That with nothing held, or nothing released, neither command has an effect is the model's choice (log 2). -/
def Obligations.HeldReleases : Prop :=
  ∀ s : State, s.inReset = false →
    (s.path.heldWrite = none → exec .heldLine0WriteTaken s = .next s) ∧
    (∀ d b, s.path.heldWrite = some (d, b) →
      let waits := ∃ d' off, decodeBurst b s = .capture d' off ∧ (s.side d').inService = true ∧
        off < (s.side d').cfg.cap.area ∧ startsLine (s.side d').cfg.cap off 0 ∧ line0Waits (s.side d')
      let t : State := { s with path := { s.path with heldWrite := none } }
      (waits → exec .heldLine0WriteTaken s = .next s) ∧
      (¬waits → writeOpen t →
        ∃ u, exec (.writeBurstTaken b) t = .next (publish t u) ∧ exec .heldLine0WriteTaken s = .next (publish s u))) ∧
    (s.path.heldRead = none → exec .heldFrameStartTaken s = .next s) ∧
    (∀ d b, s.path.heldRead = some (d, b) →
      let t : State := { s with path := { s.path with heldRead := none } }
      (0 < (s.side d).disp.outstanding → exec .heldFrameStartTaken s = .next s) ∧
      ((s.side d).disp.outstanding = 0 → readOpen t →
        ∃ u, exec (.readBurstTaken b) t = .next (publish t u) ∧ exec .heldFrameStartTaken s = .next (publish s u)))

/-- WRITE_DATA_BEAT_TAKEN: a beat of a granted passed-through burst leaves and is handed to the settings snoop where it lies
in the settings block, and with the last one taken the next address may be taken while the burst holds the channels until
it is sent (log 9); a beat of an absorbed or discarded burst is dropped, and after the last one the part answers OKAY; a
beat of a capture write is collected, and after the last one the burst is developed as PixelDevelopment states. A beat that
no burst can take yet waits (log 6). A grant that is due when the beat comes is made first (WriteGrant, log 33), so that no
beat meets a passed-through burst that still waits for its grant. -/
def Obligations.WriteDataBeatTaken : Prop :=
  ∀ (data : BitVec 64) (strb : BitVec 8) (s : State), s.inReset = false → noGrantFirst s →
    let bt : Beat := ⟨data, strb⟩
    let moveTo := fun c : CurWrite => ({ s with path := { s.path with cur := some c } } : State)
    let ended := fun (tail : Option Sender) (f : WEntry → WEntry) =>
      ({ s with path := { s.path with cur := none, tail := tail, writes := modifyLast f s.path.writes } } : State)
    (s.path.cur = none → exec (.writeDataBeatTaken data strb) s = .next s) ∧
    ∀ c, s.path.cur = some c →
      let more : CurWrite := { c with taken := c.taken + 1 }
      let last := c.taken + 1 = c.burst.len
      (c.burst.len ≤ c.taken → exec (.writeDataBeatTaken data strb) s = .next s) ∧
      (c.taken < c.burst.len →
        (c.route = .pass →
          let a := beatAddr c.burst c.taken / 8 * 8
          let w := blockRange s.anchor
          let moved :=
            if last then ended (some (.upstream c.burst.id)) (fun e => { e with parts := [c.burst.addr] })
            else moveTo more
          let sent : State := { moved with down := s.down ++ [.writeData bt (decide last)] }
          (¬(w.lo ≤ a ∧ a ≤ w.hi) → exec (.writeDataBeatTaken data strb) s = .next sent) ∧
          (w.lo ≤ a → a ≤ w.hi →
            ∃ (seen : Beat) (u : State),
              (∀ k < 8, seen.byte k = bt.byte k ∧ seen.strobed k = (bt.strobed k && inLane c.burst c.taken k)) ∧
              exec (.settingsWrite (BitVec.ofNat 12 (a - w.lo)) seen.data seen.strb) sent = .next (publish sent u) ∧
              exec (.writeDataBeatTaken data strb) s = .next (publish s u))) ∧
        (c.route ≠ .pass → c.route = .absorbed ∨ c.discarded = true →
          (¬last → exec (.writeDataBeatTaken data strb) s = .next (moveTo more)) ∧
          (last → exec (.writeDataBeatTaken data strb) s =
            .next (releaseWrites (ended s.path.tail fun e => { e with owner := .part, ready := some .okay })))) ∧
        ∀ d a off, c.route = .capture d a off → c.discarded = false →
          (¬last → exec (.writeDataBeatTaken data strb) s = .next (moveTo { more with beats := c.beats ++ [bt] })) ∧
          (last →
            let x := s.side d
            let z := develop x.cfg x.coll.snap c.burst off (c.beats ++ [bt]) (x.coll.acc.getD (Stats.fresh .day))
            let kept := updSide d (fun x => { x with coll := { x.coll with acc := some z.stats } })
              (moveTo { more with beats := z.beats })
            let told := match z.half with
              | some o => raiseEvent .partialPixel (scopeOf d) (BitVec.ofNat 32 o) kept
              | none => kept
            exec (.writeDataBeatTaken data strb) s = .next (publish s
              (updSide d (fun x =>
                { x with
                  cap :=
                    { x.cap with
                      fip := x.cap.fip.map fun f => { f with closing := f.closing || z.closing } } }) told))))

/-- READ_BURST_TAKEN, display frame starts apart: passed through, passed through with SPLIT_BURST, a capture read from the
FILLING buffer, a display read from the SHOWN buffer or the fallback image, or zeros from the part; an address that cannot
be taken yet changes nothing (log 6). -/
def Obligations.ReadBurstTaken : Prop :=
  ∀ (b : Burst) (s : State), s.inReset = false →
    let passed := fun t : State =>
      readTaken
        { id := b.id, owner := .pass, addr1 := b.addr, beats1 := b.len, addr2 := b.addr, total := b.len, got := 0,
          errored := false, kept := [] }
        [.readAddr ⟨b.id.setWidth 9, b.addr, b.lenM1, b.size, b.kind, b.attrs⟩] t
    let redirect := fun (owner : ROwner) (a : Addr) (t : State) =>
      readTaken (redirectedEntry b owner a) ((redirected b a).map .readAddr) t
    let zeros := fun t : State => readTaken (zeroEntry b) [] t
    (¬readOpen s → exec (.readBurstTaken b) s = .next s) ∧
    (readOpen s → decodeBurst b s = .plain → exec (.readBurstTaken b) s = .next (passed s)) ∧
    (readOpen s → decodeBurst b s = .split →
      exec (.readBurstTaken b) s = .next (publish s (passed (raiseEvent .splitBurst .global b.addr s)))) ∧
    (readOpen s → ∀ d off, decodeBurst b s = .capture d off →
      let x := s.side d
      let lastOff := off + ((byteRange b).2 - (byteRange b).1)
      (∀ f, x.cap.fip = some f → lastOff < x.cfg.cap.area →
        exec (.readBurstTaken b) s = .next
          (redirect (.capture d) (x.cfg.cap.bufBase.get f.buf 0 + BitVec.ofNat 32 off) s)) ∧
      (x.cap.fip = none ∨ x.cfg.cap.area ≤ lastOff → exec (.readBurstTaken b) s = .next (zeros s))) ∧
    (readOpen s → ∀ d off, decodeBurst b s = .display d off → off ≠ 0 →
      let x := s.side d
      let lastOff := off + ((byteRange b).2 - (byteRange b).1)
      let nothing := ∀ n < 3, isShown (x.cap.bufs.get n .free) = false
      (x.cfg.cap.area ≤ lastOff → exec (.readBurstTaken b) s = .next (zeros s)) ∧
      (lastOff < x.cfg.cap.area →
        (∀ n < 3, isShown (x.cap.bufs.get n .free) = true → (∀ m < n, isShown (x.cap.bufs.get m .free) = false) →
          exec (.readBurstTaken b) s = .next (publish s
            (redirect (.display d true) (x.cfg.cap.bufBase.get n 0 + BitVec.ofNat 32 off)
              (updSide d (fun x => { x with disp := { x.disp with outstanding := x.disp.outstanding + 1 } }) s)))) ∧
        (nothing → x.cfg.cap.fallback ≠ 0 →
          exec (.readBurstTaken b) s = .next
            (redirect (.display d false) (x.cfg.cap.fallback + BitVec.ofNat 32 off) s)) ∧
        (nothing → x.cfg.cap.fallback = 0 → exec (.readBurstTaken b) s = .next (zeros s))))

/-- READ_BURST_TAKEN at offset 0 of a display window, a display frame start: held while display reads are outstanding;
else the swap or the repeat, the age check, the watchdog's restart, and the burst served from what is then SHOWN. The faults
in their order: VIEW_STALE cleared by the swap, or raised with the repeat count, VIEW_LATE with the age, SIDE_DEGRADED with
the cause where the side was RUNNING, and DISPLAY_IDLE cleared. -/
def Obligations.DisplayFrameStart : Prop :=
  ∀ (b : Burst) (s : State) (d : SideId),
    let x := s.side d
    s.inReset = false → readOpen s → decodeBurst b s = .display d 0 → bufferLaws x = true →
    (0 < x.disp.outstanding →
      exec (.readBurstTaken b) s = .next { s with path := { s.path with heldRead := some (d, b) } }) ∧
    (x.disp.outstanding = 0 → (byteRange b).2 - (byteRange b).1 < x.cfg.cap.area →
      ∃ t, exec (.readBurstTaken b) s = .next t ∧
        let y := t.side d
        let stale := x.cfg.disp.staleLimit ≤ min 255 (x.disp.repeats + 1) ∧ isActive .viewStale (scopeOf d) s = false
        let degraded := (y.head = { x.head with health := .degraded, goodFrames := 0, cause := y.head.cause })
        let sc := scopeOf d
        let degrading := fun (cause : BitVec 32) (u : State) =>
          if x.head.health = .running then raiseCond .sideDegraded sc cause u else u
        let late := fun (age : Time) (u : State) =>
          if x.cfg.disp.latencyLimit < age.toNat then degrading 6 (raiseEvent .viewLate sc age u) else u
        let idle := fun u : State => if x.inService = true then clearCond .displayIdle sc u else u
        -- the entry of the burst, what is sent for it downstream and what goes upstream
        let entered := fun (e : REntry) (ms : List DownMsg) =>
          let z := readTaken e ms s
          t.path = z.path ∧ t.down = z.down ∧ t.up = z.up
        let redirect := fun (counted : Bool) (a : Addr) =>
          entered (redirectedEntry b (.display d counted) a) ((redirected b a).map .readAddr)
        -- the buffer table and the repeat count
        (∀ n < 3, ∀ f, x.cap.bufs.get n .free = .ready f →
          (∀ m < 3, y.cap.bufs.get m .free =
            if m = n then .shown f else if isShown (x.cap.bufs.get m .free) then .free else x.cap.bufs.get m .free) ∧
          y.disp.repeats = 0 ∧ isActive .viewStale (scopeOf d) t = false ∧ y.disp.lastAge = s.time - f.completed ∧
          (x.cfg.disp.latencyLimit < (s.time - f.completed).toNat → y.head.cause = 6 ∧ degraded) ∧
          ((s.time - f.completed).toNat ≤ x.cfg.disp.latencyLimit → y.head = x.head) ∧
          t.faults = (idle (late (s.time - f.completed) (clearCond .viewStale sc s))).faults ∧
          y.disp.outstanding = 1 ∧ redirect true (x.cfg.cap.bufBase.get n 0)) ∧
        ((∀ n < 3, isReady (x.cap.bufs.get n .free) = false) → y.cap.bufs = x.cap.bufs) ∧
        ((∀ n < 3, isReady (x.cap.bufs.get n .free) = false) → ∀ n < 3, ∀ f, x.cap.bufs.get n .free = .shown f →
          y.disp.repeats = min 255 (x.disp.repeats + 1) ∧ y.disp.lastAge = s.time - f.completed ∧
          (stale → isActive .viewStale (scopeOf d) t = true) ∧
          (¬stale → isActive .viewStale (scopeOf d) t = isActive .viewStale (scopeOf d) s) ∧
          (x.cfg.disp.latencyLimit < (s.time - f.completed).toNat → y.head.cause = 6 ∧ degraded) ∧
          ((s.time - f.completed).toNat ≤ x.cfg.disp.latencyLimit →
            (stale → y.head.cause = 5 ∧ degraded) ∧ (¬stale → y.head = x.head)) ∧
          (stale →
            t.faults = (idle (late (s.time - f.completed) (degrading 5
              (raiseCond .viewStale sc (BitVec.ofNat 32 (min 255 (x.disp.repeats + 1))) s)))).faults) ∧
          (¬stale → t.faults = (idle (late (s.time - f.completed) s)).faults) ∧
          y.disp.outstanding = 1 ∧ redirect true (x.cfg.cap.bufBase.get n 0)) ∧
        ((∀ n < 3, isReady (x.cap.bufs.get n .free) = false ∧ isShown (x.cap.bufs.get n .free) = false) →
          y.disp.repeats = x.disp.repeats ∧ y.disp.lastAge = x.disp.lastAge ∧ y.head = x.head ∧
          t.faults = (idle s).faults ∧ y.disp.outstanding = 0 ∧
          (x.cfg.cap.fallback = 0 → entered (zeroEntry b) []) ∧
          (x.cfg.cap.fallback ≠ 0 → redirect false x.cfg.cap.fallback)) ∧
        -- the watchdog, and what stays
        (x.inService = true →
          y.disp.watchdog = some s.time ∧ y.disp.expired = false ∧ isActive .displayIdle (scopeOf d) t = false) ∧
        (x.inService = false → y.disp.watchdog = x.disp.watchdog ∧ y.disp.expired = x.disp.expired) ∧
        y.cap.fip = x.cap.fip ∧ y.cap.frameNumber = x.cap.frameNumber ∧ y.cfg = x.cfg ∧
        t.side d.other = s.side d.other ∧ t.link = s.link ∧ t.snoop = s.snoop)

/-- DOWNSTREAM_WRITE_GRANT: a waiting pass-through write goes first unless the injected burst has waited through four of
them. A granted burst holds the channels: a passed-through burst while beats of it are to be taken, every burst until its
last beat has been sent, and bursts that wait meanwhile wait together. With the channels free a grant is made at once: a
burst, a beat or an issue that comes while one is due at once comes after it, and so does an address or a beat that can be
taken only after the waiting write's grant (log 33). That a grant that is not due has no effect is log 2, and that a capture
write and an injected burst leave whole at their grant, and when their last beats have been sent, is log 9, and that the two
parts of a split capture write leave under one grant is log 36: these are the model's choice. -/
def Obligations.WriteGrant : Prop :=
  ∀ s : State, s.inReset = false →
    let p := s.path
    let busy := ∃ c, p.cur = some c ∧ c.granted = true
    let injected := fun b : InjBurst => s.inj.inflight = some b ∧ b.granted = false
    let waits := fun t : State => ∃ c, t.path.cur = some c ∧ passWaiting c
    -- `t` is the state once the pass-through write that waits has been granted
    let passed := fun t : State => ¬waits t ∧
      (exec .downstreamWriteGrant s = .next t ∨
        ∃ u, exec .downstreamWriteGrant s = .next u ∧ waits u ∧ exec .downstreamWriteGrant u = .next t)
    (noGrantDue s → exec .downstreamWriteGrant s = .next s) ∧
    (∀ t, exec .downstreamWriteGrant s = .next t →
      (¬noGrantDue s → noGrantAtOnce t) ∧
      (¬noGrantAtOnce s →
        (∀ b, exec (.writeBurstTaken b) s = exec (.writeBurstTaken b) t) ∧
        (∀ data strb, exec (.writeDataBeatTaken data strb) s = exec (.writeDataBeatTaken data strb) t) ∧
        ∀ c, c = .heldLine0WriteTaken ∨ c = .ringRecordIssue ∨ c = .sectionIssue → exec c t ≠ .next t →
          exec c s = exec c t)) ∧
    (noGrantAtOnce s → ∀ c, p.cur = some c → passWaiting c →
      ∃ t, passed t ∧
        (c.route = .pass → c.taken < c.burst.len →
          (∀ b, exec (.writeBurstTaken b) s = .next s) ∧
          ∀ data strb, exec (.writeDataBeatTaken data strb) s = exec (.writeDataBeatTaken data strb) t) ∧
        (c.route ≠ .pass →
          (∀ data strb, exec (.writeDataBeatTaken data strb) s = .next s) ∧
          (writeOpen t → ∀ b, exec (.writeBurstTaken b) s = exec (.writeBurstTaken b) t) ∧
          (¬writeOpen t → ∀ b, exec (.writeBurstTaken b) s = .next s))) ∧
    (∀ c n, p.cur = some c → passWaiting c →
      ((∀ b, ¬injected b) ∧ n = p.waitCount) ∨ ((∃ b, injected b) ∧ p.waitCount < 4 ∧ n = p.waitCount + 1) →
      (c.route = .pass →
        exec .downstreamWriteGrant s = .next
          { s with
            down := s.down ++
              [.writeAddr ⟨c.burst.id.setWidth 9, c.burst.addr, c.burst.lenM1, c.burst.size, c.burst.kind,
                c.burst.attrs⟩]
            path := { p with cur := some { c with granted := true }, tail := none, waitCount := n } }) ∧
      ∀ d a off, c.route = .capture d a off →
        ∃ ms, exec .downstreamWriteGrant s = .next
            { s with
              down := s.down ++ ms
              path :=
                { p with
                  cur := none
                  tail := some (.upstream c.burst.id)
                  writes :=
                    modifyLast (fun e =>
                      { e with
                        parts := (redirected c.burst a).map DownBurst.addr
                        cut := decide (1 < (redirected c.burst a).length) }) p.writes
                  waitCount := n } } ∧
          (∀ x, redirected c.burst a = [x] → ms = .writeAddr x :: dataMsgs c.beats) ∧
          ∀ x y, redirected c.burst a = [x, y] →
            ms = .writeAddr x :: dataMsgs (c.beats.take (x.lenM1.toNat + 1)) ++
              .writeAddr y :: dataMsgs (c.beats.drop (x.lenM1.toNat + 1))) ∧
    ∀ b, injected b → ¬busy → ((∀ c, p.cur = some c → ¬passWaiting c) ∨ 4 ≤ p.waitCount) →
      exec .downstreamWriteGrant s = .next
        { s with
          down := s.down ++
            .writeAddr
              { id := 0x100, addr := b.addr, lenM1 := BitVec.ofNat 8 (b.beats.length - 1), size := .eight, kind := .incr,
                attrs := 0 } :: dataMsgs b.beats
          path := { p with tail := some .injector, waitCount := 0 }
          inj := { s.inj with inflight := some { b with granted := true } } }

/-- DOWNSTREAM_WRITE_RESPONSE: it is the answer of the first entry of its ID that awaits one; an error of a capture write
raises DOWNSTREAM_ERROR once and marks the frame in progress, and the last answer of the burst takes it from the frame's
outstanding writes; a response that matches nothing is discarded. What goes upstream is the answer of a burst sent whole,
and of a burst split in two the first error of its parts, else OKAY. A burst that has been answered whole holds the
downstream write channels no more (log 9). -/
def Obligations.WriteResponse : Prop :=
  ∀ (id : BitVec 8) (r : Resp) (s : State), s.inReset = false →
    ((∀ e ∈ s.path.writes, e.id = id → e.parts = []) → exec (.downstreamWriteResponse id r) s = .next s) ∧
    ∀ pre e post a rest, s.path.writes = pre ++ e :: post → (∀ x ∈ pre, x.id = id → x.parts = []) → e.id = id →
      e.parts = a :: rest →
      let error := r = .slverr ∨ r = .decerr
      let fresh := error ∧ e.err = none
      ∀ err : Option Resp, (fresh → err = some r) → (¬fresh → err = e.err) →
      let answer := match err with
        | some x => x
        | none => if e.cut then .okay else r
      let e' : WEntry := { e with parts := rest, err := err, ready := if rest = [] then some answer else none }
      -- whether a burst of the ID holds the channels until it is sent: with all of them answered none does
      let whole := ∀ x ∈ pre ++ e' :: post, x.id = id → x.parts = []
      ∀ tail : Option Sender,
        (s.path.tail = some (.upstream id) ∧ whole → tail = none) →
        (¬(s.path.tail = some (.upstream id) ∧ whole) → tail = s.path.tail) →
      let t := releaseWrites { s with path := { s.path with writes := pre ++ e' :: post, tail := tail } }
      (e.owner = .pass ∨ e.owner = .part → exec (.downstreamWriteResponse id r) s = .next t) ∧
      ∀ d live, e.owner = .capture d live →
        ∀ t1 : State, (fresh → t1 = raiseEvent .downstreamError .global a t) → (¬fresh → t1 = t) →
        (live = false → exec (.downstreamWriteResponse id r) s = .next (publish s t1)) ∧
        (live = true →
          let told := fun (n : Nat) => updSide d (fun x =>
            { x with
              cap :=
                { x.cap with
                  fip := x.cap.fip.map fun f =>
                    { f with writeError := f.writeError || decide error, outstanding := f.outstanding - n } } }) t1
          (rest ≠ [] → exec (.downstreamWriteResponse id r) s = .next (publish s (told 0))) ∧
          (rest = [] → exec (.downstreamWriteResponse id r) s = .next (publish s (tryComplete d (told 1)))))

/-- DOWNSTREAM_READ_DATA: it is the next beat of the first entry of its ID whose beats have not all come; the first error
beat of a redirected read raises DOWNSTREAM_ERROR with its part's address; the last beat of a counted display read takes
it from the outstanding display reads; a beat that matches nothing is discarded. -/
def Obligations.ReadData : Prop :=
  ∀ (id : BitVec 8) (data : BitVec 64) (r : Resp) (s : State), s.inReset = false →
    ((∀ e ∈ s.path.reads, e.id = id → e.total ≤ e.got) → exec (.downstreamReadData id data r) s = .next s) ∧
    ∀ pre e post, s.path.reads = pre ++ e :: post → (∀ x ∈ pre, x.id = id → x.total ≤ x.got) → e.id = id →
      e.got < e.total →
      let error := r = .slverr ∨ r = .decerr
      let last := e.got + 1 = e.total
      let e' : REntry :=
        { e with
          got := e.got + 1, errored := e.errored || decide error, kept := e.kept ++ [⟨data, r, decide last⟩] }
      let t := releaseReads { s with path := { s.path with reads := pre ++ e' :: post } }
      (e.owner = .pass ∨ e.owner = .part → exec (.downstreamReadData id data r) s = .next t) ∧
      ∀ t1 : State,
        (error ∧ e.errored = false →
          t1 = raiseEvent .downstreamError .global (if e.got < e.beats1 then e.addr1 else e.addr2) t) →
        (¬(error ∧ e.errored = false) → t1 = t) →
        (∀ d, e.owner = .capture d ∨ e.owner = .display d false →
          exec (.downstreamReadData id data r) s = .next (publish s t1)) ∧
        ∀ d, e.owner = .display d true →
          (¬last → exec (.downstreamReadData id data r) s = .next (publish s t1)) ∧
          (last → exec (.downstreamReadData id data r) s = .next (publish s
            (updSide d (fun x => { x with disp := { x.disp with outstanding := x.disp.outstanding - 1 } }) t1)))

/-- What goes upstream: of each ID, the write responses that are ready and stand first, and the read beats kept by the
entries that stand first, in the order the bursts were taken; nothing else changes. -/
def Obligations.ResponseOrder : Prop :=
  ∀ s : State,
    (∃ ms left,
      releaseWrites s = { s with up := s.up ++ ms, path := { s.path with writes := left } } ∧
      ∀ id, ∃ gone : List (WEntry × Resp),
        s.path.writes.filter (fun e => e.id == id) = gone.map Prod.fst ++ left.filter (fun e => e.id == id) ∧
        (∀ g ∈ gone, g.1.ready = some g.2) ∧
        (ms.filter fun m => match m with
          | .writeResp i _ => i == id
          | .readData i _ => i == id) = gone.map (fun g => .writeResp id g.2) ∧
        ∀ e, (left.filter (fun e => e.id == id)).head? = some e → e.ready = none) ∧
    ∃ ms left,
      releaseReads s = { s with up := s.up ++ ms, path := { s.path with reads := left } } ∧
      ∀ id, ∃ gone rest : List REntry,
        s.path.reads.filter (fun e => e.id == id) = gone ++ rest ∧ (∀ e ∈ gone, e.total ≤ e.got) ∧
        (∀ e, rest.head? = some e → e.got < e.total) ∧
        left.filter (fun e => e.id == id) =
          (rest.take 1).map (fun e => { e with kept := [] }) ++ rest.drop 1 ∧
        (ms.filter fun m => match m with
          | .writeResp i _ => i == id
          | .readData i _ => i == id) = (gone ++ rest.take 1).flatMap (fun e => e.kept.map (.readData id))

/-! ## Frames -/

/-- A frame completes when its closing flag is set and no write is outstanding: the outcome by the first row that applies,
the effects of a rejected frame, and those of an accepted frame, after which a deferred apply is taken: its number, its
buffer, its statistics handed on, the watchdog, the run count that may zero the attempts, the good frames that may return a
DEGRADED side to RUNNING, the short frame that degrades it, the exposure unit and the cab state at the hand-off, and the
freeze: CAMERA_FROZEN with the signature, and FAILED with cause 2, from which the side may recover by itself. That the
LINE_SHORTFALL of a short frame that is accepted comes before its new number is log 30. -/
def Obligations.FrameCompletion : Prop :=
  ∀ (d : SideId) (s : State) (f : Fip),
    let x := s.side d
    let c := x.cfg.cap
    let short := raiseEvent .lineShortfall (scopeOf d) (BitVec.ofNat 32 f.lines) s
    x.cap.fip = some f →
    (f.closing = false ∨ f.outstanding ≠ 0 → tryComplete d s = s) ∧
    (f.closing = true → f.outstanding = 0 →
      (f.writeError = true → tryComplete d s = releaseDeferred d (frameRejected d f s)) ∧
      (f.writeError = false → f.lines ≠ c.height → c.shortTolerance < c.height - f.lines →
        tryComplete d s = releaseDeferred d (frameRejected d f short)) ∧
      (f.writeError = false → f.lines = c.height ∨ c.height - f.lines ≤ c.shortTolerance →
        bufferLaws x = true → f.buf < 3 → x.inService = true →
        -- `v` is the state at the freeze check, `u` the one after it
        ∃ v u, tryComplete d s = releaseDeferred d u ∧
          let r := x.coll.acc.getD (Stats.fresh .day)
          let y := u.side d
          let z := v.side d
          let same := if x.cap.prevSig = some r.signature then min 255 (x.cap.identical + 1) else 0
          let outcome : FrameOutcome := if f.lines = c.height then .complete else .acceptedShort
          let sc := scopeOf d
          let run := min 65535 (x.head.runCount + 1)
          let counted : Head :=
            { x.head with runCount := run, attempts := if x.cfg.head.recoverClear ≤ run then 0 else x.head.attempts }
          let good := min 65535 (x.head.goodFrames + 1)
          let back := x.head.health = .degraded ∧ x.cfg.head.degradeClear ≤ good ∧ isActive .viewStale sc s = false
          let numbered := updCap d fun k => { k with frameNumber := k.frameNumber + 1 }
          y.cap.fip = none ∧ y.cap.frameNumber = x.cap.frameNumber + 1 ∧
          y.cap.accepted = min 4294967295 (x.cap.accepted + 1) ∧
          y.cap.dropped =
            (if x.cap.bufs.list.any isReady then min 4294967295 (x.cap.dropped + 1) else x.cap.dropped) ∧
          y.coll.acc = none ∧ y.coll.last = some r ∧ y.coll.snap = x.coll.snap ∧ y.cfg = x.cfg ∧
          y.tone = toneUpdate x.cfg.tone x.tone r ∧ y.tiles = glareUpdate x.cfg.glare x.tiles r ∧
          y.scene = sceneUpdate x.cfg.scene s.lamp.on x.expo.confirmed r x.scene ∧ y.expo.m16 = meanOctave r ∧
          u.side d.other = s.side d.other ∧
          u.faultRec .lineShortfall sc = (if outcome = .acceptedShort then short else s).faultRec .lineShortfall sc ∧
          -- at the freeze check: the buffer, the watchdog, the signature
          (∀ n < 3, z.cap.bufs.get n .free =
            if n = f.buf then .ready ⟨x.cap.frameNumber + 1, s.time, r.signature, outcome⟩
            else if isReady (x.cap.bufs.get n .free) then .free else x.cap.bufs.get n .free) ∧
          z.cap.watchdog = some s.time ∧ z.cap.expiries = 0 ∧ z.cap.prevSig = some r.signature ∧
          z.cap.identical = same ∧
          -- the head controller
          (outcome = .acceptedShort →
            z.head = { counted with health := .degraded, goodFrames := 0, cause := 4 } ∧
            v.faults =
              (if x.head.health = .running then raiseCond .sideDegraded sc 4 (numbered short) else short).faults) ∧
          (outcome = .complete → back →
            z.head = { counted with health := .running, cause := 0, goodFrames := good } ∧
            v.faults = (clearCond .sideDegraded sc (numbered s)).faults) ∧
          (outcome = .complete → ¬back → z.head = { counted with goodFrames := good } ∧ v.faults = s.faults) ∧
          -- the hand-off at the exposure unit (ExposureStep) and at the cab state (TargetDuty)
          z.expo = ((exposureCompletion d r s).side d).expo ∧ v.link = (exposureCompletion d r s).link ∧
          (let formed := reformCab (updSide d (fun x => { x with scene := z.scene }) s)
           (z.scene.state ≠ x.scene.state → v.cab = formed.cab ∧ v.backlight = formed.backlight) ∧
           (z.scene.state = x.scene.state → v.cab = s.cab ∧ v.backlight = s.backlight)) ∧
          z.scene = y.scene ∧ z.seq = x.seq ∧
          -- below FREEZE_LIMIT nothing follows; at it the side fails
          (same < c.freezeLimit → u = flagPage (pageOf d) v) ∧
          (c.freezeLimit ≤ same →
            u = flagPage (pageOf d) (enterFailed id d 2 (raiseCond .cameraFrozen sc r.signature v)) ∧
            tornDown d u ∧ y.head.cause = 2 ∧ isActive .sideDegraded sc u = false ∧
            (isActive .cameraFrozen sc s = false →
              (u.faultRec .cameraFrozen sc).count = min 65535 ((s.faultRec .cameraFrozen sc).count + 1)) ∧
            (isActive .sideFailed sc s = false →
              (u.faultRec .sideFailed sc).count = min 65535 ((s.faultRec .sideFailed sc).count + 1)) ∧
            (x.cfg.head.autoRecover = true → counted.attempts < x.cfg.head.recoverMax →
              y.head.health = .recovering ∧ y.head.attempts = counted.attempts + 1 ∧
              isActive .sideFailed sc u = false ∧ isActive .cameraFrozen sc u = false ∧
              u.link = (cancelSide d v).link ∧ ∀ e ∈ linkEntries u.link, e.side ≠ d) ∧
            (¬(x.cfg.head.autoRecover = true ∧ counted.attempts < x.cfg.head.recoverMax) →
              y.head.health = .failed ∧ y.head.attempts = counted.attempts ∧
              isActive .sideFailed sc u = true ∧ isActive .cameraFrozen sc u = true ∧
              y.expo = z.expo ∧ y.seq = x.seq ∧ u.link = v.link ∧ (u.monitor d).target = targetOf u d ∧
              (u.faultRec .recoveryExhausted sc).count =
                if x.cfg.head.autoRecover then min 65535 ((s.faultRec .recoveryExhausted sc).count + 1)
                else (s.faultRec .recoveryExhausted sc).count))))

/-- The development of a pixel stage by stage, with the bounds and the order the stages keep; what becomes of each
container and of the record; and what becomes of a burst, its containers judged over the whole of it: the bytes and strobes
that leave, the record after them in rising order, the lowest partial container, and whether a byte of the last active
container is strobed, which closes the frame. That lanes outside a beat's own leave as they arrived is log 29. -/
def Obligations.PixelDevelopment : Prop :=
  (∀ (v : DevCfg) (c line col : Nat),
    let l1 := v.knee1 * 2 ^ v.shift0
    let l2 := l1 + (v.knee2 - v.knee1) * 2 ^ v.shift1
    let l3 := l2 + (v.knee3 - v.knee2) * 2 ^ v.shift2
    let gained := fun gain => min 1048575 (((decompand v c - v.black) * gain + 128) / 256)
    (c < v.knee1 → decompand v c = min 1048575 (c * 2 ^ v.shift0)) ∧
    (v.knee1 ≤ c → c < v.knee2 → decompand v c = min 1048575 (l1 + (c - v.knee1) * 2 ^ v.shift1)) ∧
    (v.knee1 ≤ c → v.knee2 ≤ c → c < v.knee3 → decompand v c = min 1048575 (l2 + (c - v.knee2) * 2 ^ v.shift2)) ∧
    (v.knee1 ≤ c → v.knee2 ≤ c → v.knee3 ≤ c → decompand v c = min 1048575 (l3 + (c - v.knee3) * 2 ^ v.shift3)) ∧
    (v.knee1 ≤ v.knee2 → v.knee2 ≤ v.knee3 → ∀ c', c ≤ c' → decompand v c ≤ decompand v c') ∧
    (line % 2 = 0 → col % 2 = 0 → gainedValue v line col c = gained v.gain00) ∧
    (line % 2 = 0 → col % 2 = 1 → gainedValue v line col c = gained v.gain01) ∧
    (line % 2 = 1 → col % 2 = 0 → gainedValue v line col c = gained v.gain10) ∧
    (line % 2 = 1 → col % 2 = 1 → gainedValue v line col c = gained v.gain11)) ∧
  (∀ (v : DevCfg) (p : Snapshot) (tile x : Nat),
    let a := p.gains.get tile 256
    let y := attenuate v.glareKnee a x
    developed v p tile x = toneMap p.nodes y ∧
    (x < v.glareKnee → y = x) ∧ (v.glareKnee ≤ x → y = v.glareKnee + ((x - v.glareKnee) * a + 128) / 256) ∧
    (a ≤ 256 → y ≤ x) ∧ (a = 256 → y = x) ∧
    toneMap p.nodes 0 = p.nodes.get 0 0 ∧
    (∀ e, 2 ^ e ≤ x → x < 2 ^ (e + 1) →
      toneMap p.nodes x = p.nodes.get e 0 + (p.nodes.get (e + 1) 0 - p.nodes.get e 0) * (x - 2 ^ e) / 2 ^ e) ∧
    (curveOk p.nodes = true → x ≤ 1048575 →
      toneMap p.nodes x ≤ 1023 ∧ ∀ x', x' ≤ x → toneMap p.nodes x' ≤ toneMap p.nodes x)) ∧
  (∀ (g : CaptureCfg) (v : DevCfg) (p : Snapshot) (r : Stats) (lo hi z : OffByte),
    let line := lo.off / g.pitch
    let col := lo.off % g.pitch / 2
    let active := fun o => o < g.area ∧ o / g.pitch < g.height ∧ o % g.pitch / 2 < g.width
    let partial' : Stats := { r with partials := min 4294967295 (r.partials + 1) }
    let off := fun x : OffByte => ({ x with strb := false } : OffByte)
    (active lo.off → lo.strb = true → hi.strb = true →
      let c := (lo.val.toNat + 256 * hi.val.toNat) % 4096
      let vg := gainedValue v line col c
      let tile := line * 8 / g.height * 16 + col * 16 / g.width
      let y := developed v p tile vg
      let z := developContainer g v p (.both lo hi) r
      z.1 = [⟨lo.off, BitVec.ofNat 8 y, true⟩, ⟨hi.off, BitVec.ofNat 8 (y / 256), true⟩] ∧
      z.2.partials = r.partials ∧ z.2.sceneAtStart = r.sceneAtStart ∧
      z.2.signature = r.signature + BitVec.ofNat 32 (c * (1 + (line * g.width + col) % 251)) ∧
      z.2.hot =
        (if v.glareKnee ≤ vg then r.hot.set tile (min 65535 (r.hot.get tile 0 + 1)) else r.hot) ∧
      (v.roiY0 ≤ line ∧ line < v.roiY1 ∧ v.roiX0 ≤ col ∧ col < v.roiX1 →
        z.2.total = min 4294967295 (r.total + 1) ∧
        ∀ e, (e = 0 ∧ vg = 0 ∨ 2 ^ e ≤ vg ∧ vg < 2 ^ (e + 1)) →
          z.2.hist = r.hist.set e (min 4294967295 (r.hist.get e 0 + 1))) ∧
      (¬(v.roiY0 ≤ line ∧ line < v.roiY1 ∧ v.roiX0 ≤ col ∧ col < v.roiX1) →
        z.2.total = r.total ∧ z.2.hist = r.hist)) ∧
    (active lo.off → lo.strb ≠ hi.strb → developContainer g v p (.both lo hi) r = ([lo, hi], partial')) ∧
    (lo.off < g.area → ¬active lo.off ∨ lo.strb = false ∧ hi.strb = false →
      developContainer g v p (.both lo hi) r = ([lo, hi], r)) ∧
    (g.area ≤ lo.off → developContainer g v p (.both lo hi) r = ([off lo, off hi], r)) ∧
    (active (z.off / 2 * 2) → z.strb = true → developContainer g v p (.one z) r = ([z], partial')) ∧
    (z.off / 2 * 2 < g.area → ¬active (z.off / 2 * 2) ∨ z.strb = false →
      developContainer g v p (.one z) r = ([z], r)) ∧
    (g.area ≤ z.off / 2 * 2 → developContainer g v p (.one z) r = ([off z], r))) ∧
  ∀ (x : SideCfg) (p : Snapshot) (b : Burst) (off : Nat) (beats : List Beat) (r : Stats),
    b.kind = .incr → beats.length = b.len →
    let g := x.cap
    let z := develop x p b off beats r
    -- the bytes of the burst: offset `o` lies in beat `beatOf o`, lane `lane o`
    let A := b.addr.toNat
    let S := b.size.bytes
    let total := A / S * S + b.len * S - A
    let inside := fun o : Nat => off ≤ o ∧ o < off + total
    let beatOf := fun o : Nat => (A + (o - off) - A / S * S) / S
    let lane := fun o : Nat => (A + (o - off)) % 8
    let at' := fun (bs : List Beat) (o : Nat) =>
      ((bs.getD (beatOf o) ⟨0, 0⟩).byte (lane o), (bs.getD (beatOf o) ⟨0, 0⟩).strobed (lane o))
    let val := fun o => (at' beats o).1
    let strb := fun o => (at' beats o).2
    -- its containers, each named by its even offset
    let active := fun e : Nat => e < g.area ∧ e / g.pitch < g.height ∧ e % g.pitch / 2 < g.width
    let present := fun o => inside o ∧ strb o = true
    let whole := fun e : Nat => active e ∧ present e ∧ present (e + 1)
    let partly := fun e : Nat => e % 2 = 0 ∧ active e ∧ (present e ∧ ¬present (e + 1) ∨ ¬present e ∧ present (e + 1))
    let container := fun e : Nat =>
      if inside e ∧ inside (e + 1) then Container.both ⟨e, val e, strb e⟩ ⟨e + 1, val (e + 1), strb (e + 1)⟩
      else if inside e then .one ⟨e, val e, strb e⟩
      else .one ⟨e + 1, val (e + 1), strb (e + 1)⟩
    let y := fun e : Nat =>
      let line := e / g.pitch
      let col := e % g.pitch / 2
      developed x.dev p (line * 8 / g.height * 16 + col * 16 / g.width)
        (gainedValue x.dev line col (((val e).toNat + 256 * (val (e + 1)).toNat) % 4096))
    z.beats.length = b.len ∧
    (∀ n < b.len, ∀ k < 8, inLane b n k = false →
      (z.beats.getD n ⟨0, 0⟩).byte k = (beats.getD n ⟨0, 0⟩).byte k ∧
        (z.beats.getD n ⟨0, 0⟩).strobed k = (beats.getD n ⟨0, 0⟩).strobed k) ∧
    (∀ o, inside o →
      let e := o / 2 * 2
      (at' z.beats o).2 = (strb o && decide (e < g.area)) ∧
      (whole e → (at' z.beats o).1 = BitVec.ofNat 8 (if o = e then y e else y e / 256)) ∧
      (¬whole e → (at' z.beats o).1 = val o)) ∧
    z.stats =
      ((List.range ((off + total + 1) / 2 - off / 2)).foldl
        (fun u k => (developContainer g x.dev p (container ((off / 2 + k) * 2)) u).2) r) ∧
    (∀ e, z.half = some e ↔ partly e ∧ ∀ e' < e, ¬partly e') ∧
    (z.closing = true ↔ ∃ o, present o ∧ o / 2 * 2 = (g.height - 1) * g.pitch + 2 * (g.width - 1))

/-! ## Tone, light, exposure and glare -/

/-- The active curve after an accepted completion: kept in HOST or with an empty region of interest, else the blend toward
the target of the clipped histogram and the monotone pass; and it stays non-decreasing within 0 to 1023. -/
def Obligations.ToneCurve : Prop :=
  ∀ (t : ToneCfg) (cur : Table Nat 21) (r : Stats),
    let new := toneUpdate t cur r
    let limit := max 1 (r.total * t.clip / 256)
    let excess := ((List.range 20).map fun e => r.hist.get e 0 - limit).sum
    let clipped := fun e => min (r.hist.get e 0) limit + excess / 20
    let count := fun e => ((List.range (e + 1)).map clipped).sum
    let target := fun e => if e = 0 then t.blackFloor
      else t.blackFloor + roundHalfUp ((1023 - t.blackFloor) * count (e - 1)) (count 19)
    let blend := fun e =>
      let d : Int := (target e : Int) - cur.get e 0
      let q := (d * t.alpha).tdiv 16
      ((cur.get e 0 : Int) + if q = 0 ∧ 0 < d then 1 else if q = 0 ∧ d < 0 then -1 else q).toNat
    (t.host = true ∨ r.total = 0 → new = cur) ∧
    (t.host = false → 0 < r.total → new.get 0 0 = blend 0 ∧ ∀ k < 20, new.get (k + 1) 0 = max (blend (k + 1)) (new.get k 0)) ∧
    (curveOk cur = true → t.blackFloor ≤ 1023 → 1 ≤ t.alpha → t.alpha ≤ 16 → curveOk new = true) ∧
    ∀ n : Table Nat 21, (monotone n).get 0 0 = n.get 0 0 ∧
      (∀ k < 20, (monotone n).get (k + 1) 0 = max (n.get (k + 1) 0) ((monotone n).get k 0)) ∧
      (curveOk n = true → monotone n = n)

/-- The mean octave of a record, the exposure octave, the scene key, and what the scene monitor makes of it. -/
def Obligations.SceneClassification : Prop :=
  ∀ (c : SceneCfg) (lampOn : Bool) (e : Nat) (r : Stats) (m : SceneMon),
    let key := meanOctave r + 256 - exposureOctave e
    let eff := fun t => if lampOn then t + c.lampBias else t
    let new := sceneUpdate c lampOn e r m
    (r.total = 0 → meanOctave r = 0) ∧
    (0 < r.total →
      meanOctave r = min 304 (16 * ((List.range 20).map fun k => k * r.hist.get k 0).sum / r.total)) ∧
    (∀ k, 2 ^ k ≤ e → e < 2 ^ (k + 1) → exposureOctave e = 16 * k + 16 * (e - 2 ^ k) / 2 ^ k) ∧
    (1 ≤ e → e ≤ 65535 →
      exposureOctave e ≤ 255 ∧ 1 ≤ key ∧ key ≤ 560 ∧ ∀ e', 1 ≤ e' → e' ≤ e → exposureOctave e' ≤ exposureOctave e) ∧
    (r.total = 0 ∨ e = 0 → new = m) ∧
    (0 < r.total → 1 ≤ e →
      new.key = key ∧
      ∀ verdict : Option Scene,
        (m.state = .day → verdict = if key < eff c.duskEnter then some .dusk else none) →
        (m.state = .dusk → verdict =
          if eff c.duskExit < key then some .day else if key < eff c.nightEnter then some .night else none) →
        (m.state = .night → verdict = if eff c.nightExit < key then some .dusk else none) →
        (verdict = none → new.state = m.state ∧ new.candidate = none ∧ new.persist = 0) ∧
        ∀ x, verdict = some x →
          let n := if m.candidate = some x then m.persist + 1 else 1
          (c.persist ≤ n → new.state = x ∧ new.candidate = none ∧ new.persist = 0) ∧
          (n < c.persist → new.state = m.state ∧ new.candidate = some x ∧ new.persist = n))

/-- The exposure unit at an accepted completion: held, with a reseed where no exposure is confirmed; the settle step; or
the exposure step, which queues an EXPOSURE entry where the error exceeds the deadband and the exposure changes. -/
def Obligations.ExposureStep : Prop :=
  ∀ (d : SideId) (r : Stats) (s : State),
    let x := s.side d
    let c := x.cfg.expo
    let e := x.expo
    let t := exposureCompletion d r s
    let took := fun (e : Exposure) => updSide d (fun x => { x with expo := e }) s
    let measured : Exposure := { e with m16 := meanOctave r }
    let heldOnce : Exposure := { measured with aeHeld := min 4294967295 (e.aeHeld + 1) }
    let ask := fun (v : Nat) (e : Exposure) =>
      enqueueEntry { kind := .exposure, side := d, read := false, reg := c.expoReg, data := BitVec.ofNat 16 v, attempts := 0 }
        (took { e with request := true })
    let err : Int := (c.target16 : Int) - meanOctave r
    ∀ ratio new : Nat,
      (ratio : Int) = max 192 (min 320 (256 + err * c.aeGain)) →
      new = max c.eMin (min c.eMax ((e.confirmed * ratio + 128) / 256)) →
      (x.inService = true → c.manual = false → e.confirmed ≠ 0 → e.request = false →
        (0 < e.settle → t = took { measured with settle := e.settle - 1 }) ∧
        (e.settle = 0 → r.total ≠ 0 → c.deadband < err.natAbs → new ≠ e.confirmed → t = ask new measured) ∧
        (e.settle = 0 → r.total = 0 ∨ err.natAbs ≤ c.deadband ∨ new = e.confirmed → t = took measured)) ∧
      (x.inService = true → c.manual = false → e.confirmed = 0 → e.request = false → t = ask c.eInit heldOnce) ∧
      (x.inService = false ∨ c.manual = true ∨ e.request = true → t = took heldOnce)

/-- The glare map: each tile at a night update and at a day update, and at an apply that takes A_MIN to a new value. -/
def Obligations.GlareTiles : Prop :=
  ∀ (g : GlareCfg) (t : Table Tile 128) (r : Stats) (i : Nat), i < 128 →
    let x := t.get i ⟨.clear, 0, 256⟩
    let n := r.hot.get i 0
    let y := (glareUpdate g t r).get i ⟨.clear, 0, 256⟩
    let clear : Tile := ⟨.clear, 0, 256⟩
    let down := fun a => max g.aMin (a - g.rampDown)
    let up := fun a => min 256 (a + g.rampUp)
    (r.sceneAtStart = .night →
      (x.state = .clear ∨ x.state = .onset → n < g.enterCount → y = clear) ∧
      (x.state = .clear ∨ x.state = .onset → g.enterCount ≤ n →
        let hold := if x.state = .clear then 1 else min 15 (x.hold + 1)
        (g.onsetFrames ≤ hold → y = ⟨.dimmed, 0, down 256⟩) ∧ (hold < g.onsetFrames → y = ⟨.onset, hold, 256⟩)) ∧
      (x.state = .dimmed ∨ x.state = .release → g.exitCount ≤ n → y = ⟨.dimmed, 0, down x.gain⟩) ∧
      (x.state = .dimmed → n < g.exitCount → y = ⟨.release, 0, x.gain⟩) ∧
      (x.state = .release → n < g.exitCount →
        let hold := min 15 (x.hold + 1)
        let a := if g.releaseHold < hold then up x.gain else x.gain
        (a = 256 → y = clear) ∧ (a ≠ 256 → y = ⟨.release, hold, a⟩))) ∧
    (r.sceneAtStart ≠ .night →
      (x.state = .clear ∨ x.state = .onset → y = clear) ∧ (x.state = .dimmed → y = ⟨.release, 0, x.gain⟩) ∧
      (x.state = .release →
        (up x.gain = 256 → y = clear) ∧ (up x.gain ≠ 256 → y = ⟨.release, min 15 (x.hold + 1), up x.gain⟩))) ∧
    ∀ old new : Nat,
      (liftTiles old new t).get i clear = if old < new then { x with gain := max new x.gain } else x
end

