-- ==== Sys2Proof/Laws/Image.lean ====
section
/-! SUPPORT. The pending image: every operation keeps its canonical form, and what a byte reads as after a write. -/

namespace Sys2Proof.Laws

open Sys2Proof.Machine

/-- Every offset of the list lies above `lo`. -/
def above (lo : Nat) (m : Image) : Prop := ∀ c ∈ m, lo < c.1

theorem rising_cons (c : Host.Cell) (m : Image) : Image.rising (c :: m) = true ↔ above c.1 m ∧ Image.rising m = true := by
  induction m generalizing c with
  | nil => simp [Image.rising, above]
  | cons c' rest ih =>
    simp only [Image.rising, Bool.and_eq_true, decide_eq_true_eq]
    rw [ih c']
    simp only [above, List.mem_cons, forall_eq_or_imp]
    constructor
    · rintro ⟨h, ha, hr⟩
      exact ⟨⟨h, fun x hx => Nat.lt_trans h (ha x hx)⟩, ha, hr⟩
    · rintro ⟨⟨h, _⟩, ha, hr⟩
      exact ⟨h, ha, hr⟩

theorem get_cons (c : Host.Cell) (m : Image) (o : Nat) :
    Image.get (c :: m) o = if c.1 = o then c.2 else Image.get m o := by
  by_cases h : c.1 = o <;> simp [Image.get, h]

theorem get_above {m : Image} {lo o : Nat} (h : above lo m) (ho : o ≤ lo) : Image.get m o = imageDefault o := by
  induction m with
  | nil => rfl
  | cons c rest ih =>
    have h1 : lo < c.1 := h c (List.mem_cons_self ..)
    rw [get_cons, if_neg (by omega)]
    exact ih fun x hx => h x (List.mem_cons_of_mem _ hx)

/-- A byte read after a write: the byte written at its place, every other byte as before. -/
theorem get_put {m : Image} (hm : Image.rising m = true) (o : Nat) (v : Byte) (p : Nat) :
    Image.get (Image.put m o v) p = if o = p then v else Image.get m p := by
  induction m with
  | nil =>
    by_cases h : v = imageDefault o <;> by_cases h' : o = p <;> simp_all [Image.put, Image.get]
  | cons c rest ih =>
    rw [rising_cons] at hm
    obtain ⟨ha, hr⟩ := hm
    specialize ih hr
    unfold Image.put
    split
    · rename_i h1
      rw [get_cons, get_cons, ih]
      split_ifs <;> first | rfl | omega
    · rename_i h1
      split
      · rename_i h2
        split
        · rename_i h3
          by_cases h4 : o = p
          · subst h4
            rw [get_above ha (by omega), if_pos rfl, h3]
          · rw [if_neg h4, get_cons, if_neg (by omega)]
        · rw [get_cons, get_cons]
          by_cases h4 : o = p
          · simp [h4]
          · rw [if_neg h4, if_neg h4, if_neg (by omega)]
      · rename_i h2
        have hg : Image.get (c :: rest) o = imageDefault o := by
          refine get_above (lo := o) ?_ (Nat.le_refl o)
          intro x hx
          rcases List.mem_cons.1 hx with rfl | hx
          · omega
          · exact Nat.lt_trans (by omega) (ha x hx)
        split
        · rename_i h3
          by_cases h4 : o = p
          · subst h4; rw [if_pos rfl, hg, h3]
          · rw [if_neg h4]
        · rw [get_cons]

theorem above_put {m : Image} {lo o : Nat} (v : Byte) (h : above lo m) (ho : lo < o) : above lo (Image.put m o v) := by
  induction m with
  | nil =>
    unfold Image.put
    split <;> simp [above, ho]
  | cons c rest ih =>
    have hc : lo < c.1 := h c (List.mem_cons_self ..)
    have hr : above lo rest := fun x hx => h x (List.mem_cons_of_mem _ hx)
    have hi := ih hr
    unfold Image.put
    split_ifs <;> intro x hx <;> try simp only [List.mem_cons] at hx
    · rcases hx with rfl | hx
      · exact hc
      · exact hi x hx
    · exact hr x hx
    · rcases hx with rfl | hx
      · exact ho
      · exact hr x hx
    · rcases hx with rfl | hx
      · exact hc
      · exact hr x hx
    · rcases hx with rfl | rfl | hx
      · exact ho
      · exact hc
      · exact hr x hx

theorem rising_put {m : Image} (h : Image.rising m = true) (o : Nat) (v : Byte) :
    Image.rising (Image.put m o v) = true := by
  induction m with
  | nil => unfold Image.put; split <;> rfl
  | cons c rest ih =>
    rw [rising_cons] at h
    obtain ⟨ha, hr⟩ := h
    have hi := ih hr
    unfold Image.put
    split_ifs with h1 h2 h3 h4
    · exact (rising_cons _ _).2 ⟨above_put v ha h1, hi⟩
    · exact hr
    · exact (rising_cons _ _).2 ⟨fun x hx => by have := ha x hx; simp; omega, hr⟩
    · exact (rising_cons _ _).2 ⟨ha, hr⟩
    · refine (rising_cons _ _).2 ⟨?_, (rising_cons _ _).2 ⟨ha, hr⟩⟩
      intro x hx
      rcases List.mem_cons.1 hx with rfl | hx
      · simp; omega
      · have := ha x hx; simp; omega

theorem mem_put {m : Image} {o : Nat} {v : Byte} {c : Host.Cell} (h : c ∈ Image.put m o v) :
    c ∈ m ∨ (c = (o, v) ∧ v ≠ imageDefault o) := by
  induction m with
  | nil =>
    unfold Image.put at h
    split at h
    · simp at h
    · simp only [List.mem_singleton] at h; exact .inr ⟨h, by assumption⟩
  | cons d rest ih =>
    unfold Image.put at h
    split_ifs at h with h1 h2 h3 h4
    · rcases List.mem_cons.1 h with rfl | h
      · exact .inl (List.mem_cons_self ..)
      · rcases ih h with h | h
        · exact .inl (List.mem_cons_of_mem _ h)
        · exact .inr h
    · exact .inl (List.mem_cons_of_mem _ h)
    · rcases List.mem_cons.1 h with rfl | h
      · exact .inr ⟨rfl, h3⟩
      · exact .inl (List.mem_cons_of_mem _ h)
    · exact .inl h
    · rcases List.mem_cons.1 h with rfl | h
      · exact .inr ⟨rfl, h4⟩
      · exact .inl h

/-- A write inside the image keeps the canonical form. -/
theorem wf_put {m : Image} (h : Image.wf m = true) {o : Nat} (v : Byte) (ho : o < Config.imageBytes) :
    Image.wf (Image.put m o v) = true := by
  unfold Image.wf at h ⊢
  rw [Bool.and_eq_true] at h ⊢
  refine ⟨rising_put h.1 o v, ?_⟩
  rw [List.all_eq_true]
  intro c hc
  rcases mem_put hc with hc | ⟨rfl, hv⟩
  · exact List.all_eq_true.1 h.2 c hc
  · simp [ho, hv]

theorem wf_rising {m : Image} (h : Image.wf m = true) : Image.rising m = true := by
  unfold Image.wf at h
  exact (Bool.and_eq_true _ _ ▸ h).1

/-- A merged byte keeps the canonical form. -/
theorem wf_merge {m : Image} (h : Image.wf m = true) (o : Nat) (v : Byte) : Image.wf (Image.merge m o v) = true := by
  unfold Image.merge
  split
  · exact wf_put h v (by assumption)
  · exact h

theorem get_merge {m : Image} (h : Image.wf m = true) (o : Nat) (v : Byte) (p : Nat) :
    Image.get (Image.merge m o v) p = if o = p ∧ o < Config.imageBytes then v else Image.get m p := by
  unfold Image.merge
  split
  · rename_i ho; rw [get_put (wf_rising h)]; simp [ho]
  · rename_i ho; simp [ho]

theorem wf_mergeLanes (ls : List (Byte × Bool)) {m : Image} (h : Image.wf m = true) (o : Nat) :
    Image.wf (Image.mergeLanes ls o m) = true := by
  induction ls generalizing o m with
  | nil => exact h
  | cons l rest ih =>
    obtain ⟨v, st⟩ := l
    unfold Image.mergeLanes
    apply ih
    cases st
    · exact h
    · exact wf_merge h o v

/-- A merged beat keeps the canonical form. -/
theorem wf_mergeBeat {m : Image} (h : Image.wf m = true) (off : Nat) (b : Beat) :
    Image.wf (Image.mergeBeat m off b) = true := wf_mergeLanes _ h _

theorem get_mergeLanes (ls : List (Byte × Bool)) {m : Image} (h : Image.wf m = true) (o p : Nat) :
    Image.get (Image.mergeLanes ls o m) p =
      if o ≤ p ∧ (ls.getD (p - o) (0, false)).2 = true ∧ p < Config.imageBytes then (ls.getD (p - o) (0, false)).1
      else Image.get m p := by
  induction ls generalizing o m with
  | nil => simp [Image.mergeLanes]
  | cons l rest ih =>
    obtain ⟨v, st⟩ := l
    unfold Image.mergeLanes
    have hw : Image.wf (if st = true then Image.merge m o v else m) = true := by
      cases st
      · exact h
      · exact wf_merge h o v
    rw [ih hw (o + 1)]
    by_cases hop : o = p
    · subst hop
      cases st <;> simp [get_merge h]
    · have hm : Image.get (if st = true then Image.merge m o v else m) p = Image.get m p := by
        cases st
        · rfl
        · simp [get_merge h, hop]
      rw [hm]
      by_cases hlt : o < p
      · have he : p - o = (p - (o + 1)) + 1 := by omega
        rw [he]
        simp only [List.getD_cons_succ]
        simp [show o + 1 ≤ p by omega, show o ≤ p by omega]
      · simp [show ¬(o + 1 ≤ p) by omega, show ¬(o ≤ p) by omega]

theorem lanes_getD (b : Beat) (k : Nat) :
    b.lanes.getD k (0, false) = if k < 8 then (b.byte k, b.strobed k) else (0, false) := by
  unfold Beat.lanes
  by_cases h : k < 8
  · simp [List.getD, h]
  · simp [List.getD, h]

/-- A byte read after a beat was merged: the beat's byte where the beat strobes it, else as before (R183). -/
theorem get_mergeBeat {m : Image} (h : Image.wf m = true) (off : Nat) (b : Beat) (p : Nat) :
    Image.get (Image.mergeBeat m off b) p =
      if off ≤ p ∧ p < off + 8 ∧ b.strobed (p - off) = true ∧ p < Config.imageBytes then b.byte (p - off)
      else Image.get m p := by
  unfold Image.mergeBeat
  rw [get_mergeLanes _ h, lanes_getD]
  by_cases h1 : off ≤ p
  · by_cases h2 : p < off + 8
    · simp [h1, h2, show p - off < 8 by omega]
    · simp [h2, show ¬(p - off < 8) by omega]
  · simp [h1]

end Sys2Proof.Laws
end

