-- ==== Sys2Proof/Laws/Beats.lean ====
section
/-! SUPPORT. Bytes and beats: what a beat built from lanes holds, and what the fields of a merged beat read as. -/

namespace Sys2Proof.Laws

open Sys2Proof.Machine

/-! ## Numbers and their bytes -/

theorem natOfBytes_lt (bs : List Byte) : natOfBytes bs < 256 ^ bs.length := by
  induction bs with
  | nil => simp [natOfBytes]
  | cons b rest ih =>
    have hb := b.isLt
    simp only [natOfBytes, List.length_cons, pow_succ]
    omega

theorem natOfBytes_div (bs : List Byte) (k : Nat) : natOfBytes bs / 256 ^ k % 256 = (bs.getD k 0).toNat := by
  induction bs generalizing k with
  | nil => simp [natOfBytes]
  | cons b rest ih =>
    have hb := b.isLt
    cases k with
    | zero => simp only [natOfBytes, pow_zero, Nat.div_one, List.getD_cons_zero]; omega
    | succ k =>
      rw [pow_succ, Nat.mul_comm, ← Nat.div_div_eq_div_mul]
      have : natOfBytes (b :: rest) / 256 = natOfBytes rest := by simp only [natOfBytes]; omega
      rw [this, ih, List.getD_cons_succ]

theorem byteOf_succ (v k : Nat) : byteOf v (k + 1) = byteOf (v / 256) k := by
  simp only [byteOf, pow_succ]
  rw [Nat.mul_comm, ← Nat.div_div_eq_div_mul]

/-- The low `n` bytes of a number, read back. -/
theorem natOfBytes_bytesOfNat (n v : Nat) : natOfBytes (bytesOfNat n v) = v % 256 ^ n := by
  induction n generalizing v with
  | zero => simp [bytesOfNat, natOfBytes, Nat.mod_one]
  | succ n ih =>
    have e : bytesOfNat (n + 1) v = byteOf v 0 :: bytesOfNat n (v / 256) := by
      simp only [bytesOfNat, List.range_succ_eq_map, List.map_cons, List.map_map]
      congr 1
      apply List.map_congr_left
      intro k _
      exact byteOf_succ v k
    rw [e]
    simp only [natOfBytes, ih, byteOf, pow_zero, Nat.div_one, BitVec.toNat_ofNat]
    have h : v % 256 ^ (n + 1) = v % 256 + 256 * (v / 256 % 256 ^ n) := by
      rw [Nat.pow_succ', Nat.mod_mul]
    rw [h]

theorem natOfBits_lt (bs : List Bool) : natOfBits bs < 2 ^ bs.length := by
  induction bs with
  | nil => simp [natOfBits]
  | cons b rest ih =>
    have hb : b.toNat ≤ 1 := by cases b <;> simp
    simp only [natOfBits, List.length_cons, pow_succ]
    omega

theorem natOfBits_testBit (bs : List Bool) (k : Nat) : (natOfBits bs).testBit k = bs.getD k false := by
  induction bs generalizing k with
  | nil => simp [natOfBits]
  | cons b rest ih =>
    cases k with
    | zero => cases b <;> simp [natOfBits, Nat.testBit_zero]
    | succ k =>
      rw [Nat.testBit_succ]
      have : natOfBits (b :: rest) / 2 = natOfBits rest := by
        have hb : b.toNat ≤ 1 := by cases b <;> simp
        simp only [natOfBits]; omega
      rw [this, ih, List.getD_cons_succ]

/-! ## Beats from lanes -/

/-- Byte lane `k` of a beat built from eight lanes. -/
theorem byte_ofLanes {ls : List (Byte × Bool)} (hl : ls.length = 8) {k : Nat} :
    (Beat.ofLanes ls).byte k = (ls.getD k (0, false)).1 := by
  have h1 := natOfBytes_div (ls.map Prod.fst) k
  have h2 := natOfBytes_lt (ls.map Prod.fst)
  rw [List.length_map, hl] at h2
  unfold Beat.byte Beat.ofLanes
  apply BitVec.eq_of_toNat_eq
  have e : (2 : Nat) ^ 8 = 256 := by norm_num
  have e2 : (256 : Nat) ^ 8 = 2 ^ 64 := by norm_num
  rw [e2] at h2
  rw [BitVec.extractLsb'_toNat, BitVec.toNat_ofNat, Nat.shiftRight_eq_div_pow, Nat.mod_eq_of_lt h2, pow_mul, e, h1]
  simp only [List.getD_eq_getElem?_getD, List.getElem?_map]
  cases ls[k]? <;> rfl

/-- Strobe `k` of a beat built from eight lanes. -/
theorem strobed_ofLanes (ls : List (Byte × Bool)) {k : Nat} (hk : k < 8) :
    (Beat.ofLanes ls).strobed k = (ls.getD k (0, false)).2 := by
  have h1 := natOfBits_testBit (ls.map Prod.snd) k
  unfold Beat.strobed Beat.ofLanes
  rw [BitVec.getLsbD_ofNat]
  simp only [hk, decide_true, Bool.true_and]
  rw [h1]
  simp only [List.getD_eq_getElem?_getD, List.getElem?_map]
  cases ls[k]? <;> rfl

/-- A field whose bytes are those of `v` reads as `v`. -/
theorem field_of_bytes {m : Image} {off n v : Nat} (h : ∀ k < n, Image.get m (off + k) = byteOf v k) :
    Image.field m off n = v % 256 ^ n := by
  rw [← natOfBytes_bytesOfNat]
  unfold Image.field bytesOfNat
  congr 1
  apply List.map_congr_left
  intro k hk
  exact h k (List.mem_range.mp hk)

/-! ## The beat of a command (R188) -/

/-- What the command area reads as when a command's beat has been merged. -/
theorem get_commandBeat {m : Image} (h : Image.wf m = true) (code : Byte) (arg : BitVec 16) (sq : BitVec 32) (k : Nat)
    (hk : k < 8) (h5 : k ≠ 5) :
    Image.get (Image.mergeBeat m 8 (commandBeat code arg sq)) (8 + k) =
      if k < 4 then byteOf sq.toNat k else if k = 4 then code else byteOf arg.toNat (k - 6) := by
  rw [get_mergeBeat h]
  unfold commandBeat laneBeat
  rw [Nat.add_sub_cancel_left, byte_ofLanes (by rfl), strobed_ofLanes _ hk]
  have hb : 8 + k < 2656 := by omega
  simp only [Nat.le_add_right, true_and, hb, and_true]
  interval_cases k <;> first | rfl | (exfalso; omega)

/-- The command a command's beat leaves at the snoop. -/
theorem fields_commandBeat {m : Image} (h : Image.wf m = true) (code : Byte) (arg : BitVec 16) (sq : BitVec 32) :
    Image.field (Image.mergeBeat m 8 (commandBeat code arg sq)) 0x008 4 = sq.toNat ∧
    Image.field (Image.mergeBeat m 8 (commandBeat code arg sq)) 0x00C 1 = code.toNat ∧
    Image.half (Image.mergeBeat m 8 (commandBeat code arg sq)) 0x00E = arg := by
  refine ⟨?_, ?_, ?_⟩
  · rw [field_of_bytes (v := sq.toNat)]
    · have := sq.isLt; omega
    · intro k hk
      rw [get_commandBeat h code arg sq k (by omega) (by omega), if_pos hk]
  · rw [field_of_bytes (v := code.toNat)]
    · have := code.isLt; omega
    · intro k hk
      have e : k = 0 := by omega
      subst e
      rw [get_commandBeat h code arg sq 4 (by omega) (by omega)]
      simp [byteOf]
  · unfold Image.half
    rw [field_of_bytes (v := arg.toNat)]
    · apply BitVec.eq_of_toNat_eq
      have := arg.isLt
      rw [BitVec.toNat_ofNat]; omega
    · intro k hk
      rw [show 0x00E + k = 8 + (6 + k) by omega, get_commandBeat h code arg sq (6 + k) (by omega) (by omega)]
      rw [if_neg (by omega), if_neg (by omega), Nat.add_sub_cancel_left]

theorem strobes_commandBeat (code : Byte) (arg : BitVec 16) (sq : BitVec 32) :
    strobedOffsets 8 (commandBeat code arg sq).strb = [8, 9, 10, 11, 12, 14, 15] := by
  have h : (commandBeat code arg sq).strb = 0xDF#8 := by
    unfold commandBeat laneBeat Beat.ofLanes
    simp [bytesOfNat, List.range_succ, natOfBits]
  rw [h]
  decide

/-- A command's beat is merged, and the command is taken; no other field acts. -/
theorem snoopBeat_command (code : Byte) (arg : BitVec 16) (sq : BitVec 32) (s : State) :
    snoopBeat 8 (commandBeat code arg sq) s = commandOp (mergeOp 8 (commandBeat code arg sq) s) := by
  unfold snoopBeat
  rw [strobes_commandBeat]
  simp [snoopActions, slotActions, when, hits, tagOff, slotOff]

/-- What a command does, from its code and its argument (R188). -/
theorem snoopBeat_runs {s : State} (h : Image.wf s.snoop.image = true) (code : Byte) (arg : BitVec 16) (sq : BitVec 32) :
    snoopBeat 8 (commandBeat code arg sq) s =
      publishResult sq (runCode code.toNat arg (mergeOp 8 (commandBeat code arg sq) s)).1
        (runCode code.toNat arg (mergeOp 8 (commandBeat code arg sq) s)).2 := by
  obtain ⟨h1, h2, h3⟩ := fields_commandBeat h code arg sq
  rw [snoopBeat_command]
  unfold commandOp
  have e : (mergeOp 8 (commandBeat code arg sq) s).snoop.image =
      Image.mergeBeat s.snoop.image 8 (commandBeat code arg sq) := rfl
  simp only [e, h1, h2, h3, BitVec.ofNat_toNat, BitVec.setWidth_eq]

end Sys2Proof.Laws
end

