-- ==== Sys2Proof/Laws/State.lean ====
section
/-! SUPPORT. The small lemmas of State: what each way of changing it leaves as it was, so that no later proof unfolds a
record update. -/

namespace Sys2Proof.Laws

open Sys2Proof.Machine

/-! ## Sides -/

@[simp] theorem other_ne (d : SideId) : d.other ≠ d := by cases d <;> decide

@[simp] theorem ne_other (d : SideId) : d ≠ d.other := by cases d <;> decide

@[simp] theorem other_other (d : SideId) : d.other.other = d := by cases d <;> rfl

theorem eq_or_other (d e : SideId) : e = d ∨ e = d.other := by cases d <;> cases e <;> decide

/-- A changed side reads as changed. -/
@[simp] theorem side_updSide (d : SideId) (f : Side → Side) (s : State) : (updSide d f s).side d = f (s.side d) := by
  cases d <;> rfl

/-- The other side reads as before. -/
@[simp] theorem side_updSide_other (d : SideId) (f : Side → Side) (s : State) :
    (updSide d f s).side d.other = s.side d.other := by cases d <;> rfl

/-- Two changes of one side are one change. -/
theorem updSide_updSide (d : SideId) (f g : Side → Side) (s : State) :
    updSide d f (updSide d g s) = updSide d (fun x => f (g x)) s := by cases d <;> rfl

/-- A side changed into itself is no change. -/
theorem updSide_self (d : SideId) (s : State) : updSide d (fun x => x) s = s := by cases d <;> rfl

/-- A change of a side leaves every shared field. -/
@[simp] theorem updSide_frame (d : SideId) (f : Side → Side) (s : State) :
    (updSide d f s).time = s.time ∧ (updSide d f s).phase = s.phase ∧ (updSide d f s).inReset = s.inReset ∧
    (updSide d f s).anchor = s.anchor ∧ (updSide d f s).lamp = s.lamp ∧ (updSide d f s).cab = s.cab ∧
    (updSide d f s).backlight = s.backlight ∧ (updSide d f s).link = s.link ∧ (updSide d f s).faults = s.faults ∧
    (updSide d f s).inj = s.inj ∧ (updSide d f s).path = s.path ∧ (updSide d f s).snoop = s.snoop ∧
    (updSide d f s).down = s.down ∧ (updSide d f s).up = s.up ∧ (updSide d f s).choice = s.choice ∧
    (updSide d f s).pending = s.pending := by
  cases d <;> simp [updSide]

/-- Two states that agree on both sides and on every shared field are one. -/
theorem State.ext_side {s t : State} (hl : s.side .left = t.side .left) (hr : s.side .right = t.side .right)
    (h : { s with left := t.left, right := t.right } = t) : s = t := by
  cases s; cases t; simp_all [State.side]

/-! ## Changes of one component of a side -/

/-- A change of the component `cap` of a side. -/
@[simp] theorem side_updCap (d : SideId) (f : Capture → Capture) (s : State) :
    (updCap d f s).side d = { s.side d with cap := f (s.side d).cap } := by cases d <;> rfl

/-- It leaves the other side. -/
@[simp] theorem side_updCap_other (d : SideId) (f : Capture → Capture) (s : State) :
    (updCap d f s).side d.other = s.side d.other := by cases d <;> rfl

/-- It leaves every shared field. -/
@[simp] theorem updCap_frame (d : SideId) (f : Capture → Capture) (s : State) :
    (updCap d f s).time = s.time ∧ (updCap d f s).phase = s.phase ∧ (updCap d f s).inReset = s.inReset ∧
    (updCap d f s).anchor = s.anchor ∧ (updCap d f s).lamp = s.lamp ∧ (updCap d f s).cab = s.cab ∧
    (updCap d f s).backlight = s.backlight ∧ (updCap d f s).link = s.link ∧ (updCap d f s).faults = s.faults ∧
    (updCap d f s).inj = s.inj ∧ (updCap d f s).path = s.path ∧ (updCap d f s).snoop = s.snoop ∧
    (updCap d f s).down = s.down ∧ (updCap d f s).up = s.up ∧ (updCap d f s).choice = s.choice ∧
    (updCap d f s).pending = s.pending := by
  simp [updCap]

/-- A change of the component `coll` of a side. -/
@[simp] theorem side_updColl (d : SideId) (f : Collector → Collector) (s : State) :
    (updColl d f s).side d = { s.side d with coll := f (s.side d).coll } := by cases d <;> rfl

/-- It leaves the other side. -/
@[simp] theorem side_updColl_other (d : SideId) (f : Collector → Collector) (s : State) :
    (updColl d f s).side d.other = s.side d.other := by cases d <;> rfl

/-- It leaves every shared field. -/
@[simp] theorem updColl_frame (d : SideId) (f : Collector → Collector) (s : State) :
    (updColl d f s).time = s.time ∧ (updColl d f s).phase = s.phase ∧ (updColl d f s).inReset = s.inReset ∧
    (updColl d f s).anchor = s.anchor ∧ (updColl d f s).lamp = s.lamp ∧ (updColl d f s).cab = s.cab ∧
    (updColl d f s).backlight = s.backlight ∧ (updColl d f s).link = s.link ∧ (updColl d f s).faults = s.faults ∧
    (updColl d f s).inj = s.inj ∧ (updColl d f s).path = s.path ∧ (updColl d f s).snoop = s.snoop ∧
    (updColl d f s).down = s.down ∧ (updColl d f s).up = s.up ∧ (updColl d f s).choice = s.choice ∧
    (updColl d f s).pending = s.pending := by
  simp [updColl]

/-- A change of the component `disp` of a side. -/
@[simp] theorem side_updDisp (d : SideId) (f : Display → Display) (s : State) :
    (updDisp d f s).side d = { s.side d with disp := f (s.side d).disp } := by cases d <;> rfl

/-- It leaves the other side. -/
@[simp] theorem side_updDisp_other (d : SideId) (f : Display → Display) (s : State) :
    (updDisp d f s).side d.other = s.side d.other := by cases d <;> rfl

/-- It leaves every shared field. -/
@[simp] theorem updDisp_frame (d : SideId) (f : Display → Display) (s : State) :
    (updDisp d f s).time = s.time ∧ (updDisp d f s).phase = s.phase ∧ (updDisp d f s).inReset = s.inReset ∧
    (updDisp d f s).anchor = s.anchor ∧ (updDisp d f s).lamp = s.lamp ∧ (updDisp d f s).cab = s.cab ∧
    (updDisp d f s).backlight = s.backlight ∧ (updDisp d f s).link = s.link ∧ (updDisp d f s).faults = s.faults ∧
    (updDisp d f s).inj = s.inj ∧ (updDisp d f s).path = s.path ∧ (updDisp d f s).snoop = s.snoop ∧
    (updDisp d f s).down = s.down ∧ (updDisp d f s).up = s.up ∧ (updDisp d f s).choice = s.choice ∧
    (updDisp d f s).pending = s.pending := by
  simp [updDisp]

/-- A change of the component `expo` of a side. -/
@[simp] theorem side_updExpo (d : SideId) (f : Exposure → Exposure) (s : State) :
    (updExpo d f s).side d = { s.side d with expo := f (s.side d).expo } := by cases d <;> rfl

/-- It leaves the other side. -/
@[simp] theorem side_updExpo_other (d : SideId) (f : Exposure → Exposure) (s : State) :
    (updExpo d f s).side d.other = s.side d.other := by cases d <;> rfl

/-- It leaves every shared field. -/
@[simp] theorem updExpo_frame (d : SideId) (f : Exposure → Exposure) (s : State) :
    (updExpo d f s).time = s.time ∧ (updExpo d f s).phase = s.phase ∧ (updExpo d f s).inReset = s.inReset ∧
    (updExpo d f s).anchor = s.anchor ∧ (updExpo d f s).lamp = s.lamp ∧ (updExpo d f s).cab = s.cab ∧
    (updExpo d f s).backlight = s.backlight ∧ (updExpo d f s).link = s.link ∧ (updExpo d f s).faults = s.faults ∧
    (updExpo d f s).inj = s.inj ∧ (updExpo d f s).path = s.path ∧ (updExpo d f s).snoop = s.snoop ∧
    (updExpo d f s).down = s.down ∧ (updExpo d f s).up = s.up ∧ (updExpo d f s).choice = s.choice ∧
    (updExpo d f s).pending = s.pending := by
  simp [updExpo]

/-- A change of the component `head` of a side. -/
@[simp] theorem side_updHead (d : SideId) (f : Head → Head) (s : State) :
    (updHead d f s).side d = { s.side d with head := f (s.side d).head } := by cases d <;> rfl

/-- It leaves the other side. -/
@[simp] theorem side_updHead_other (d : SideId) (f : Head → Head) (s : State) :
    (updHead d f s).side d.other = s.side d.other := by cases d <;> rfl

/-- It leaves every shared field. -/
@[simp] theorem updHead_frame (d : SideId) (f : Head → Head) (s : State) :
    (updHead d f s).time = s.time ∧ (updHead d f s).phase = s.phase ∧ (updHead d f s).inReset = s.inReset ∧
    (updHead d f s).anchor = s.anchor ∧ (updHead d f s).lamp = s.lamp ∧ (updHead d f s).cab = s.cab ∧
    (updHead d f s).backlight = s.backlight ∧ (updHead d f s).link = s.link ∧ (updHead d f s).faults = s.faults ∧
    (updHead d f s).inj = s.inj ∧ (updHead d f s).path = s.path ∧ (updHead d f s).snoop = s.snoop ∧
    (updHead d f s).down = s.down ∧ (updHead d f s).up = s.up ∧ (updHead d f s).choice = s.choice ∧
    (updHead d f s).pending = s.pending := by
  simp [updHead]

/-- A change of the component `seq` of a side. -/
@[simp] theorem side_updSeq (d : SideId) (f : Sequencer → Sequencer) (s : State) :
    (updSeq d f s).side d = { s.side d with seq := f (s.side d).seq } := by cases d <;> rfl

/-- It leaves the other side. -/
@[simp] theorem side_updSeq_other (d : SideId) (f : Sequencer → Sequencer) (s : State) :
    (updSeq d f s).side d.other = s.side d.other := by cases d <;> rfl

/-- It leaves every shared field. -/
@[simp] theorem updSeq_frame (d : SideId) (f : Sequencer → Sequencer) (s : State) :
    (updSeq d f s).time = s.time ∧ (updSeq d f s).phase = s.phase ∧ (updSeq d f s).inReset = s.inReset ∧
    (updSeq d f s).anchor = s.anchor ∧ (updSeq d f s).lamp = s.lamp ∧ (updSeq d f s).cab = s.cab ∧
    (updSeq d f s).backlight = s.backlight ∧ (updSeq d f s).link = s.link ∧ (updSeq d f s).faults = s.faults ∧
    (updSeq d f s).inj = s.inj ∧ (updSeq d f s).path = s.path ∧ (updSeq d f s).snoop = s.snoop ∧
    (updSeq d f s).down = s.down ∧ (updSeq d f s).up = s.up ∧ (updSeq d f s).choice = s.choice ∧
    (updSeq d f s).pending = s.pending := by
  simp [updSeq]

/-! ## Changes of a shared component -/

/-- A change of `link`. -/
@[simp] theorem updLink_link (f : Link → Link) (s : State) : (updLink f s).link = f s.link := rfl

/-- It leaves everything else. -/
@[simp] theorem updLink_frame (f : Link → Link) (s : State) :
    (updLink f s).left = s.left ∧ (updLink f s).right = s.right ∧ (updLink f s).time = s.time ∧
    (updLink f s).phase = s.phase ∧ (updLink f s).inReset = s.inReset ∧ (updLink f s).anchor = s.anchor ∧
    (updLink f s).lamp = s.lamp ∧ (updLink f s).cab = s.cab ∧ (updLink f s).backlight = s.backlight ∧
    (updLink f s).faults = s.faults ∧ (updLink f s).inj = s.inj ∧ (updLink f s).path = s.path ∧
    (updLink f s).snoop = s.snoop ∧ (updLink f s).down = s.down ∧ (updLink f s).up = s.up ∧
    (updLink f s).choice = s.choice ∧ (updLink f s).pending = s.pending := by
  simp [updLink]

@[simp] theorem side_updLink (f : Link → Link) (s : State) (d : SideId) : (updLink f s).side d = s.side d := by cases d <;> rfl

/-- A change of `path`. -/
@[simp] theorem updPath_path (f : Path → Path) (s : State) : (updPath f s).path = f s.path := rfl

/-- It leaves everything else. -/
@[simp] theorem updPath_frame (f : Path → Path) (s : State) :
    (updPath f s).left = s.left ∧ (updPath f s).right = s.right ∧ (updPath f s).time = s.time ∧
    (updPath f s).phase = s.phase ∧ (updPath f s).inReset = s.inReset ∧ (updPath f s).anchor = s.anchor ∧
    (updPath f s).lamp = s.lamp ∧ (updPath f s).cab = s.cab ∧ (updPath f s).backlight = s.backlight ∧
    (updPath f s).link = s.link ∧ (updPath f s).faults = s.faults ∧ (updPath f s).inj = s.inj ∧
    (updPath f s).snoop = s.snoop ∧ (updPath f s).down = s.down ∧ (updPath f s).up = s.up ∧
    (updPath f s).choice = s.choice ∧ (updPath f s).pending = s.pending := by
  simp [updPath]

@[simp] theorem side_updPath (f : Path → Path) (s : State) (d : SideId) : (updPath f s).side d = s.side d := by cases d <;> rfl

/-- The end of the burst still being sent downstream. -/
@[simp] theorem endTail_path (s : State) : (endTail s).path = { s.path with tail := none } := rfl

/-- It leaves everything else. -/
@[simp] theorem endTail_frame (s : State) :
    (endTail s).left = s.left ∧ (endTail s).right = s.right ∧ (endTail s).time = s.time ∧
    (endTail s).phase = s.phase ∧ (endTail s).inReset = s.inReset ∧ (endTail s).anchor = s.anchor ∧
    (endTail s).lamp = s.lamp ∧ (endTail s).cab = s.cab ∧ (endTail s).backlight = s.backlight ∧
    (endTail s).link = s.link ∧ (endTail s).faults = s.faults ∧ (endTail s).inj = s.inj ∧
    (endTail s).snoop = s.snoop ∧ (endTail s).down = s.down ∧ (endTail s).up = s.up ∧
    (endTail s).choice = s.choice ∧ (endTail s).pending = s.pending := by
  simp [endTail]

@[simp] theorem side_endTail (s : State) (d : SideId) : (endTail s).side d = s.side d := by cases d <;> rfl

/-- A change of `inj`. -/
@[simp] theorem updInj_inj (f : Injector → Injector) (s : State) : (updInj f s).inj = f s.inj := rfl

/-- It leaves everything else. -/
@[simp] theorem updInj_frame (f : Injector → Injector) (s : State) :
    (updInj f s).left = s.left ∧ (updInj f s).right = s.right ∧ (updInj f s).time = s.time ∧
    (updInj f s).phase = s.phase ∧ (updInj f s).inReset = s.inReset ∧ (updInj f s).anchor = s.anchor ∧
    (updInj f s).lamp = s.lamp ∧ (updInj f s).cab = s.cab ∧ (updInj f s).backlight = s.backlight ∧
    (updInj f s).link = s.link ∧ (updInj f s).faults = s.faults ∧ (updInj f s).path = s.path ∧
    (updInj f s).snoop = s.snoop ∧ (updInj f s).down = s.down ∧ (updInj f s).up = s.up ∧
    (updInj f s).choice = s.choice ∧ (updInj f s).pending = s.pending := by
  simp [updInj]

@[simp] theorem side_updInj (f : Injector → Injector) (s : State) (d : SideId) : (updInj f s).side d = s.side d := by cases d <;> rfl

/-- A change of a monitor leaves everything but the backlight unit. -/
@[simp] theorem updMonitor_frame (d : SideId) (f : Monitor → Monitor) (s : State) :
    (updMonitor d f s).left = s.left ∧ (updMonitor d f s).right = s.right ∧ (updMonitor d f s).time = s.time ∧
    (updMonitor d f s).phase = s.phase ∧ (updMonitor d f s).inReset = s.inReset ∧
    (updMonitor d f s).anchor = s.anchor ∧ (updMonitor d f s).lamp = s.lamp ∧ (updMonitor d f s).cab = s.cab ∧
    (updMonitor d f s).link = s.link ∧ (updMonitor d f s).faults = s.faults ∧ (updMonitor d f s).inj = s.inj ∧
    (updMonitor d f s).path = s.path ∧ (updMonitor d f s).snoop = s.snoop ∧ (updMonitor d f s).down = s.down ∧
    (updMonitor d f s).up = s.up ∧ (updMonitor d f s).choice = s.choice ∧ (updMonitor d f s).pending = s.pending := by
  cases d <;> simp [updMonitor]

@[simp] theorem side_updMonitor (d e : SideId) (f : Monitor → Monitor) (s : State) :
    (updMonitor d f s).side e = s.side e := by cases d <;> cases e <;> rfl

@[simp] theorem monitor_updMonitor (d : SideId) (f : Monitor → Monitor) (s : State) :
    (updMonitor d f s).monitor d = f (s.monitor d) := by cases d <;> rfl

@[simp] theorem monitor_updMonitor_other (d : SideId) (f : Monitor → Monitor) (s : State) :
    (updMonitor d f s).monitor d.other = s.monitor d.other := by cases d <;> rfl

/-- It changes publish flags only. -/
@[simp] theorem flagPage_frame (p : PageId) (s : State) :
    (flagPage p s).left = s.left ∧ (flagPage p s).right = s.right ∧ (flagPage p s).time = s.time ∧
    (flagPage p s).phase = s.phase ∧ (flagPage p s).inReset = s.inReset ∧ (flagPage p s).anchor = s.anchor ∧
    (flagPage p s).lamp = s.lamp ∧ (flagPage p s).cab = s.cab ∧ (flagPage p s).backlight = s.backlight ∧
    (flagPage p s).link = s.link ∧ (flagPage p s).faults = s.faults ∧ (flagPage p s).path = s.path ∧
    (flagPage p s).snoop = s.snoop ∧ (flagPage p s).down = s.down ∧ (flagPage p s).up = s.up ∧
    (flagPage p s).choice = s.choice ∧ (flagPage p s).pending = s.pending ∧ (flagPage p s).inj.w = s.inj.w ∧
    (flagPage p s).inj.r = s.inj.r ∧ (flagPage p s).inj.seq = s.inj.seq ∧ (flagPage p s).inj.serving = s.inj.serving ∧
    (flagPage p s).inj.inflight = s.inj.inflight ∧ (flagPage p s).inj.attn = s.inj.attn := by
  cases p <;> simp [flagPage]

@[simp] theorem side_flagPage (p : PageId) (s : State) (d : SideId) : (flagPage p s).side d = s.side d := by
  cases p <;> cases d <;> rfl

/-- It changes publish flags only. -/
@[simp] theorem unflagPage_frame (p : PageId) (s : State) :
    (unflagPage p s).left = s.left ∧ (unflagPage p s).right = s.right ∧ (unflagPage p s).time = s.time ∧
    (unflagPage p s).phase = s.phase ∧ (unflagPage p s).inReset = s.inReset ∧ (unflagPage p s).anchor = s.anchor ∧
    (unflagPage p s).lamp = s.lamp ∧ (unflagPage p s).cab = s.cab ∧ (unflagPage p s).backlight = s.backlight ∧
    (unflagPage p s).link = s.link ∧ (unflagPage p s).faults = s.faults ∧ (unflagPage p s).path = s.path ∧
    (unflagPage p s).snoop = s.snoop ∧ (unflagPage p s).down = s.down ∧ (unflagPage p s).up = s.up ∧
    (unflagPage p s).choice = s.choice ∧ (unflagPage p s).pending = s.pending ∧ (unflagPage p s).inj.w = s.inj.w ∧
    (unflagPage p s).inj.r = s.inj.r ∧ (unflagPage p s).inj.seq = s.inj.seq ∧
    (unflagPage p s).inj.serving = s.inj.serving ∧ (unflagPage p s).inj.inflight = s.inj.inflight ∧
    (unflagPage p s).inj.attn = s.inj.attn := by
  cases p <;> simp [unflagPage]

@[simp] theorem side_unflagPage (p : PageId) (s : State) (d : SideId) : (unflagPage p s).side d = s.side d := by
  cases p <;> cases d <;> rfl

/-- What is sent is appended. -/
@[simp] theorem sendDown_down (ms : List DownMsg) (s : State) : (sendDown ms s).down = s.down ++ ms := rfl

/-- Sending leaves everything else. -/
@[simp] theorem sendDown_frame (ms : List DownMsg) (s : State) :
    (sendDown ms s).left = s.left ∧ (sendDown ms s).right = s.right ∧ (sendDown ms s).time = s.time ∧
    (sendDown ms s).phase = s.phase ∧ (sendDown ms s).inReset = s.inReset ∧ (sendDown ms s).anchor = s.anchor ∧
    (sendDown ms s).lamp = s.lamp ∧ (sendDown ms s).cab = s.cab ∧ (sendDown ms s).backlight = s.backlight ∧
    (sendDown ms s).link = s.link ∧ (sendDown ms s).faults = s.faults ∧ (sendDown ms s).inj = s.inj ∧
    (sendDown ms s).path = s.path ∧ (sendDown ms s).snoop = s.snoop ∧ (sendDown ms s).up = s.up ∧
    (sendDown ms s).choice = s.choice ∧ (sendDown ms s).pending = s.pending := by
  simp [sendDown]

@[simp] theorem side_sendDown (ms : List DownMsg) (s : State) (d : SideId) : (sendDown ms s).side d = s.side d := by
  cases d <;> rfl

/-- What is sent is appended. -/
@[simp] theorem sendUp_up (ms : List UpMsg) (s : State) : (sendUp ms s).up = s.up ++ ms := rfl

/-- Sending leaves everything else. -/
@[simp] theorem sendUp_frame (ms : List UpMsg) (s : State) :
    (sendUp ms s).left = s.left ∧ (sendUp ms s).right = s.right ∧ (sendUp ms s).time = s.time ∧
    (sendUp ms s).phase = s.phase ∧ (sendUp ms s).inReset = s.inReset ∧ (sendUp ms s).anchor = s.anchor ∧
    (sendUp ms s).lamp = s.lamp ∧ (sendUp ms s).cab = s.cab ∧ (sendUp ms s).backlight = s.backlight ∧
    (sendUp ms s).link = s.link ∧ (sendUp ms s).faults = s.faults ∧ (sendUp ms s).inj = s.inj ∧
    (sendUp ms s).path = s.path ∧ (sendUp ms s).snoop = s.snoop ∧ (sendUp ms s).down = s.down ∧
    (sendUp ms s).choice = s.choice ∧ (sendUp ms s).pending = s.pending := by
  simp [sendUp]

@[simp] theorem side_sendUp (ms : List UpMsg) (s : State) (d : SideId) : (sendUp ms s).side d = s.side d := by
  cases d <;> rfl

end Sys2Proof.Laws
end

