-- ==== Sys2Proof/Laws/Table.lean ====
section
/-! SUPPORT. Reading a table after it was built or changed. -/

namespace Sys2Proof.Laws

open Sys2Proof.Machine

variable {α β : Type} {n : Nat}

/-- Two tables with the same list are one. -/
theorem table_ext {t u : Table α n} (h : t.list = u.list) : t = u := by
  cases t; cases u; cases h; rfl

/-- A place outside the table reads as the default. -/
theorem get_out (t : Table α n) {i : Nat} (d : α) (h : n ≤ i) : t.get i d = d := by
  simp [Table.get, List.getD, t.len, h]

/-- What is read inside the table is one of its entries. -/
theorem get_mem (t : Table α n) {i : Nat} (d : α) (h : i < n) : t.get i d ∈ t.list := by
  have hl : i < t.list.length := by rw [t.len]; exact h
  simp [Table.get, List.getD, hl]

/-- Inside the table the default does not matter. -/
theorem get_default (t : Table α n) {i : Nat} (d d' : α) (h : i < n) : t.get i d = t.get i d' := by
  have hl : i < t.list.length := by rw [t.len]; exact h
  simp [Table.get, List.getD, hl]

@[simp] theorem get_const (a d : α) {i : Nat} (h : i < n) : (Table.const n a).get i d = a := by
  simp [Table.get, Table.const, List.getD, h]

@[simp] theorem get_ofFn (f : Nat → α) (d : α) {i : Nat} (h : i < n) : (Table.ofFn n f).get i d = f i := by
  simp [Table.get, Table.ofFn, List.getD, h]

@[simp] theorem get_map (f : α → β) (t : Table α n) (d : α) {i : Nat} (h : i < n) (d' : β) :
    (t.map f).get i d' = f (t.get i d) := by
  have hl : i < t.list.length := by rw [t.len]; exact h
  simp [Table.get, Table.map, List.getD, hl]

/-- The entry that was replaced. -/
@[simp] theorem get_set_self (t : Table α n) (a d : α) {i : Nat} (h : i < n) : (t.set i a).get i d = a := by
  have hl : i < t.list.length := by rw [t.len]; exact h
  simp [Table.get, Table.set, List.getD, hl]

/-- The others stay. -/
@[simp] theorem get_set_ne (t : Table α n) (a d : α) {i j : Nat} (h : i ≠ j) : (t.set i a).get j d = t.get j d := by
  simp [Table.get, Table.set, List.getD, h]

/-- Whatever holds of every entry and of the new one holds of every entry of the changed table. -/
theorem set_all (p : α → Bool) (t : Table α n) (i : Nat) (a : α) (h : t.list.all p) (ha : p a) :
    (t.set i a).list.all p := by
  rw [List.all_eq_true] at h ⊢
  intro x hx
  rcases List.mem_or_eq_of_mem_set hx with h' | h'
  · exact h x h'
  · rw [h']; exact ha

/-- A built table has a property if every value built has it. -/
theorem ofFn_all (p : α → Bool) (f : Nat → α) (h : ∀ i, i < n → p (f i)) : (Table.ofFn n f).list.all p := by
  simpa [Table.ofFn, List.all_eq_true] using h

/-- A mapped table has a property if every value mapped has it. -/
theorem map_all (p : α → Bool) (q : β → Bool) (f : α → β) (t : Table α n) (h : t.list.all p)
    (hf : ∀ x, p x → q (f x)) : (t.map f).list.all q := by
  simp only [Table.map, List.all_eq_true, List.mem_map] at h ⊢
  rintro y ⟨x, hx, rfl⟩
  exact hf x (h x hx)

/-- What is read has every property of the entries that the default has too. -/
theorem get_all (p : α → Bool) (t : Table α n) (i : Nat) (d : α) (h : t.list.all p) (hd : p d) : p (t.get i d) := by
  rw [List.all_eq_true] at h
  by_cases hi : i < n
  · exact h _ (get_mem t d hi)
  · rw [get_out t d (by omega)]; exact hd

end Sys2Proof.Laws
end

