-- ==== Sys2Proof/Laws/Faults.lean ====
section
/-! SUPPORT. The fault unit: occurrences, raises and clears touch the fault unit only, and keep its laws. -/

namespace Sys2Proof.Laws

open Sys2Proof.Machine Sys2Proof.Safety

/-! ## Frames -/

/-- It touches the fault unit only. -/
@[simp] theorem setFaultRec_frame (k : FaultKind) (sc : Scope) (r : FaultRec) (s : State) :
    (setFaultRec k sc r s).left = s.left ∧ (setFaultRec k sc r s).right = s.right ∧
    (setFaultRec k sc r s).time = s.time ∧ (setFaultRec k sc r s).phase = s.phase ∧
    (setFaultRec k sc r s).inReset = s.inReset ∧ (setFaultRec k sc r s).anchor = s.anchor ∧
    (setFaultRec k sc r s).lamp = s.lamp ∧ (setFaultRec k sc r s).cab = s.cab ∧
    (setFaultRec k sc r s).backlight = s.backlight ∧ (setFaultRec k sc r s).link = s.link ∧
    (setFaultRec k sc r s).inj = s.inj ∧ (setFaultRec k sc r s).path = s.path ∧
    (setFaultRec k sc r s).snoop = s.snoop ∧ (setFaultRec k sc r s).down = s.down ∧
    (setFaultRec k sc r s).up = s.up ∧ (setFaultRec k sc r s).choice = s.choice ∧
    (setFaultRec k sc r s).pending = s.pending := by
  simp [setFaultRec]

@[simp] theorem side_setFaultRec (k : FaultKind) (sc : Scope) (r : FaultRec) (s : State) (e : SideId) :
    (setFaultRec k sc r s).side e = s.side e := by
  cases e <;> simp [State.side]

/-- It touches the fault unit only. -/
@[simp] theorem pushReport_frame (r : Report) (s : State) :
    (pushReport r s).left = s.left ∧ (pushReport r s).right = s.right ∧ (pushReport r s).time = s.time ∧
    (pushReport r s).phase = s.phase ∧ (pushReport r s).inReset = s.inReset ∧ (pushReport r s).anchor = s.anchor ∧
    (pushReport r s).lamp = s.lamp ∧ (pushReport r s).cab = s.cab ∧ (pushReport r s).backlight = s.backlight ∧
    (pushReport r s).link = s.link ∧ (pushReport r s).inj = s.inj ∧ (pushReport r s).path = s.path ∧
    (pushReport r s).snoop = s.snoop ∧ (pushReport r s).down = s.down ∧ (pushReport r s).up = s.up ∧
    (pushReport r s).choice = s.choice ∧ (pushReport r s).pending = s.pending := by
  unfold pushReport
  split <;> simp

@[simp] theorem side_pushReport (r : Report) (s : State) (e : SideId) :
    (pushReport r s).side e = s.side e := by
  cases e <;> simp [State.side]

/-- It touches the record of FAULT_N only. -/
@[simp] theorem followPin_frame (pre s : State) :
    (followPin pre s).left = s.left ∧ (followPin pre s).right = s.right ∧ (followPin pre s).time = s.time ∧
    (followPin pre s).phase = s.phase ∧ (followPin pre s).inReset = s.inReset ∧
    (followPin pre s).anchor = s.anchor ∧ (followPin pre s).lamp = s.lamp ∧ (followPin pre s).cab = s.cab ∧
    (followPin pre s).backlight = s.backlight ∧ (followPin pre s).link = s.link ∧ (followPin pre s).inj = s.inj ∧
    (followPin pre s).path = s.path ∧ (followPin pre s).snoop = s.snoop ∧ (followPin pre s).down = s.down ∧
    (followPin pre s).up = s.up ∧ (followPin pre s).choice = s.choice ∧ (followPin pre s).pending = s.pending ∧
    (followPin pre s).faults.table = s.faults.table ∧ (followPin pre s).faults.queue = s.faults.queue ∧
    (followPin pre s).faults.lost = s.faults.lost := by
  unfold followPin
  split <;> simp

@[simp] theorem side_followPin (pre s : State) (e : SideId) : (followPin pre s).side e = s.side e := by
  cases e <;> simp [State.side]

/-- It touches the fault unit only. -/
@[simp] theorem raiseCond_frame (k : FaultKind) (sc : Scope) (det : BitVec 32) (s : State) :
    (raiseCond k sc det s).left = s.left ∧ (raiseCond k sc det s).right = s.right ∧
    (raiseCond k sc det s).time = s.time ∧ (raiseCond k sc det s).phase = s.phase ∧
    (raiseCond k sc det s).inReset = s.inReset ∧ (raiseCond k sc det s).anchor = s.anchor ∧
    (raiseCond k sc det s).lamp = s.lamp ∧ (raiseCond k sc det s).cab = s.cab ∧
    (raiseCond k sc det s).backlight = s.backlight ∧ (raiseCond k sc det s).link = s.link ∧
    (raiseCond k sc det s).inj = s.inj ∧ (raiseCond k sc det s).path = s.path ∧
    (raiseCond k sc det s).snoop = s.snoop ∧ (raiseCond k sc det s).down = s.down ∧
    (raiseCond k sc det s).up = s.up ∧ (raiseCond k sc det s).choice = s.choice ∧
    (raiseCond k sc det s).pending = s.pending := by
  unfold raiseCond
  split <;> simp

@[simp] theorem side_raiseCond (k : FaultKind) (sc : Scope) (det : BitVec 32) (s : State) (e : SideId) :
    (raiseCond k sc det s).side e = s.side e := by
  cases e <;> simp [State.side]

/-- It touches the fault unit only. -/
@[simp] theorem clearCond_frame (k : FaultKind) (sc : Scope) (s : State) :
    (clearCond k sc s).left = s.left ∧ (clearCond k sc s).right = s.right ∧ (clearCond k sc s).time = s.time ∧
    (clearCond k sc s).phase = s.phase ∧ (clearCond k sc s).inReset = s.inReset ∧
    (clearCond k sc s).anchor = s.anchor ∧ (clearCond k sc s).lamp = s.lamp ∧ (clearCond k sc s).cab = s.cab ∧
    (clearCond k sc s).backlight = s.backlight ∧ (clearCond k sc s).link = s.link ∧ (clearCond k sc s).inj = s.inj ∧
    (clearCond k sc s).path = s.path ∧ (clearCond k sc s).snoop = s.snoop ∧ (clearCond k sc s).down = s.down ∧
    (clearCond k sc s).up = s.up ∧ (clearCond k sc s).choice = s.choice ∧ (clearCond k sc s).pending = s.pending := by
  unfold clearCond
  split <;> simp

@[simp] theorem side_clearCond (k : FaultKind) (sc : Scope) (s : State) (e : SideId) :
    (clearCond k sc s).side e = s.side e := by
  cases e <;> simp [State.side]

/-- It touches the fault unit only. -/
@[simp] theorem raiseEvent_frame (k : FaultKind) (sc : Scope) (det : BitVec 32) (s : State) :
    (raiseEvent k sc det s).left = s.left ∧ (raiseEvent k sc det s).right = s.right ∧
    (raiseEvent k sc det s).time = s.time ∧ (raiseEvent k sc det s).phase = s.phase ∧
    (raiseEvent k sc det s).inReset = s.inReset ∧ (raiseEvent k sc det s).anchor = s.anchor ∧
    (raiseEvent k sc det s).lamp = s.lamp ∧ (raiseEvent k sc det s).cab = s.cab ∧
    (raiseEvent k sc det s).backlight = s.backlight ∧ (raiseEvent k sc det s).link = s.link ∧
    (raiseEvent k sc det s).inj = s.inj ∧ (raiseEvent k sc det s).path = s.path ∧
    (raiseEvent k sc det s).snoop = s.snoop ∧ (raiseEvent k sc det s).down = s.down ∧
    (raiseEvent k sc det s).up = s.up ∧ (raiseEvent k sc det s).choice = s.choice ∧
    (raiseEvent k sc det s).pending = s.pending := by
  unfold raiseEvent
  split <;> simp

@[simp] theorem side_raiseEvent (k : FaultKind) (sc : Scope) (det : BitVec 32) (s : State) (e : SideId) :
    (raiseEvent k sc det s).side e = s.side e := by
  cases e <;> simp [State.side]

/-! ## The rank order (R158) -/

theorem above_iff (a b : Report) :
    a.above b = true ↔ b.level < a.level ∨ a.level = b.level ∧ a.kind.code < b.kind.code := by
  simp [Report.above]

theorem above_trans {a b c : Report} (h1 : a.above b = true) (h2 : b.above c = true) : a.above c = true := by
  rw [above_iff] at *
  omega

@[simp] theorem length_rankInsert (r : Report) (q : List Report) : (rankInsert r q).length = q.length + 1 := by
  induction q with
  | nil => rfl
  | cons x rest ih => unfold rankInsert; split <;> simp [ih]

theorem mem_rankInsert {r x : Report} {q : List Report} : x ∈ rankInsert r q ↔ x = r ∨ x ∈ q := by
  induction q with
  | nil => simp [rankInsert]
  | cons y rest ih =>
    unfold rankInsert
    split
    · simp
    · simp only [List.mem_cons, ih]; tauto

theorem ranked_cons (r : Report) (q : List Report) :
    ranked (r :: q) = true ↔ (∀ x ∈ q, x.above r = false) ∧ ranked q = true := by
  simp [ranked]

/-- A report that takes its place keeps the rank order. -/
theorem ranked_rankInsert (r : Report) {q : List Report} (h : ranked q = true) : ranked (rankInsert r q) = true := by
  induction q with
  | nil => rfl
  | cons x rest ih =>
    rw [ranked_cons] at h
    unfold rankInsert
    split
    · rename_i hx
      refine (ranked_cons _ _).2 ⟨?_, (ranked_cons _ _).2 h⟩
      intro y hy
      have hlt := (above_iff _ _).1 hx
      rcases List.mem_cons.1 hy with rfl | hy
      · rw [Bool.eq_false_iff, Ne, above_iff]; omega
      · have hyx := h.1 y hy
        rw [Bool.eq_false_iff] at hyx ⊢
        exact fun hyr => hyx (above_trans hyr hx)
    · rename_i hx
      refine (ranked_cons _ _).2 ⟨?_, ih h.2⟩
      intro y hy
      rcases mem_rankInsert.1 hy with rfl | hy
      · simpa using hx
      · exact h.1 y hy

theorem ranked_take {q : List Report} (n : Nat) (h : ranked q = true) : ranked (q.take n) = true := by
  induction q generalizing n with
  | nil => simp [ranked]
  | cons x rest ih =>
    cases n with
    | zero => rfl
    | succ n =>
      rw [ranked_cons] at h
      rw [List.take_succ_cons, ranked_cons]
      exact ⟨fun y hy => h.1 y (List.mem_of_mem_take hy), ih n h.2⟩

theorem ranked_tail {r : Report} {q : List Report} (h : ranked (r :: q) = true) : ranked q = true :=
  ((ranked_cons r q).1 h).2

theorem queueLaws_iff (f : FaultUnit) : queueLaws f = true ↔ f.queue.length ≤ 16 ∧ ranked f.queue = true := by
  unfold queueLaws
  rw [Bool.and_eq_true, decide_eq_true_iff]

/-- A report that enters keeps the queue's laws (R158, R159). -/
theorem queueLaws_pushReport (r : Report) {s : State} (h : queueLaws s.faults = true) :
    queueLaws (pushReport r s).faults = true := by
  rw [queueLaws_iff] at h ⊢
  unfold pushReport
  split
  · rename_i hl
    simp only [Config.maxReports] at hl
    exact ⟨by simp; omega, ranked_rankInsert r h.2⟩
  · exact ⟨by simp [Config.maxReports], ranked_take _ (ranked_rankInsert r h.2)⟩

@[simp] theorem setFaultRec_queue (k : FaultKind) (sc : Scope) (r : FaultRec) (s : State) :
    (setFaultRec k sc r s).faults.queue = s.faults.queue := rfl

@[simp] theorem setFaultRec_lost (k : FaultKind) (sc : Scope) (r : FaultRec) (s : State) :
    (setFaultRec k sc r s).faults.lost = s.faults.lost := rfl

theorem queueLaws_setFaultRec (k : FaultKind) (sc : Scope) (r : FaultRec) {s : State}
    (h : queueLaws s.faults = true) : queueLaws (setFaultRec k sc r s).faults = true := h

theorem queueLaws_followPin (pre : State) {s : State} (h : queueLaws s.faults = true) :
    queueLaws (followPin pre s).faults = true := by
  unfold followPin
  split <;> exact h

theorem queueLaws_raiseEvent (k : FaultKind) (sc : Scope) (det : BitVec 32) {s : State}
    (h : queueLaws s.faults = true) : queueLaws (raiseEvent k sc det s).faults = true := by
  unfold raiseEvent
  split
  · exact h
  · exact queueLaws_pushReport _ h

theorem queueLaws_raiseCond (k : FaultKind) (sc : Scope) (det : BitVec 32) {s : State}
    (h : queueLaws s.faults = true) : queueLaws (raiseCond k sc det s).faults = true := by
  unfold raiseCond
  split
  · exact h
  · exact queueLaws_followPin _ (queueLaws_pushReport _ h)

theorem queueLaws_clearCond (k : FaultKind) (sc : Scope) {s : State}
    (h : queueLaws s.faults = true) : queueLaws (clearCond k sc s).faults = true := by
  unfold clearCond
  split
  · exact queueLaws_followPin _ (queueLaws_pushReport _ h)
  · exact h

/-! ## The fault table (R153) -/

theorem recIndex_lt (k : FaultKind) (sc : Scope) : recIndex k sc < 40 := by
  cases k <;> cases sc <;> decide

theorem recordOk_empty : recordOk FaultRec.empty = true := by decide

/-- An occurrence keeps a record's law. -/
theorem recordOk_occur {r : FaultRec} (now : Time) (h : recordOk r = true) : recordOk (r.occur now) = true := by
  unfold recordOk FaultRec.occur satAdd Config.max16 at *
  by_cases hc : r.count = 0
  · simp [hc]
  · simp [hc] at h ⊢
    have := Nat.pos_of_ne_zero hc
    simp_all

theorem recordOk_flag {r : FaultRec} (b : Bool) (h : recordOk r = true) : recordOk { r with flag := b } = true := h

theorem tableLaws_iff (f : FaultUnit) : tableLaws f = true ↔ f.table.list.all recordOk = true ∧ f.lost ≤ 65535 := by
  unfold tableLaws
  rw [Bool.and_eq_true, decide_eq_true_iff]

theorem recordOk_faultRec {s : State} (k : FaultKind) (sc : Scope) (h : tableLaws s.faults = true) :
    recordOk (s.faultRec k sc) = true :=
  get_all recordOk _ _ _ ((tableLaws_iff _).1 h).1 recordOk_empty

theorem tableLaws_setFaultRec (k : FaultKind) (sc : Scope) {r : FaultRec} {s : State} (h : tableLaws s.faults = true)
    (hr : recordOk r = true) : tableLaws (setFaultRec k sc r s).faults = true := by
  rw [tableLaws_iff] at h ⊢
  exact ⟨set_all recordOk _ _ _ h.1 hr, h.2⟩

theorem tableLaws_pushReport (r : Report) {s : State} (h : tableLaws s.faults = true) :
    tableLaws (pushReport r s).faults = true := by
  rw [tableLaws_iff] at h ⊢
  unfold pushReport
  split
  · exact h
  · exact ⟨h.1, Nat.min_le_left _ _⟩

theorem tableLaws_followPin (pre : State) {s : State} (h : tableLaws s.faults = true) :
    tableLaws (followPin pre s).faults = true := by
  unfold followPin
  split <;> exact h

theorem tableLaws_raiseEvent (k : FaultKind) (sc : Scope) (det : BitVec 32) {s : State}
    (h : tableLaws s.faults = true) : tableLaws (raiseEvent k sc det s).faults = true := by
  have hr := recordOk_occur s.time (recordOk_faultRec k sc h)
  unfold raiseEvent
  split
  · exact tableLaws_setFaultRec k sc h hr
  · exact tableLaws_pushReport _ (tableLaws_setFaultRec k sc h (recordOk_flag true hr))

theorem tableLaws_raiseCond (k : FaultKind) (sc : Scope) (det : BitVec 32) {s : State}
    (h : tableLaws s.faults = true) : tableLaws (raiseCond k sc det s).faults = true := by
  have hr := recordOk_occur s.time (recordOk_faultRec k sc h)
  unfold raiseCond
  split
  · exact h
  · exact tableLaws_followPin _ (tableLaws_pushReport _ (tableLaws_setFaultRec k sc h (recordOk_flag true hr)))

theorem tableLaws_clearCond (k : FaultKind) (sc : Scope) {s : State}
    (h : tableLaws s.faults = true) : tableLaws (clearCond k sc s).faults = true := by
  unfold clearCond
  split
  · exact tableLaws_followPin _ (tableLaws_pushReport _ (tableLaws_setFaultRec k sc h (recordOk_flag false (recordOk_faultRec k sc h))))
  · exact h

/-! ## What a record holds afterwards -/

/-- The record that was set. -/
@[simp] theorem faultRec_setFaultRec (k : FaultKind) (sc : Scope) (r : FaultRec) (s : State) :
    (setFaultRec k sc r s).faultRec k sc = r := by
  simp [State.faultRec, setFaultRec, recIndex_lt]

@[simp] theorem faultRec_pushReport (r : Report) (k : FaultKind) (sc : Scope) (s : State) :
    (pushReport r s).faultRec k sc = s.faultRec k sc := by
  unfold pushReport
  split <;> rfl

@[simp] theorem faultRec_followPin (pre : State) (k : FaultKind) (sc : Scope) (s : State) :
    (followPin pre s).faultRec k sc = s.faultRec k sc := by
  simp [State.faultRec]

@[simp] theorem isActive_followPin (pre : State) (k : FaultKind) (sc : Scope) (s : State) :
    isActive k sc (followPin pre s) = isActive k sc s := by
  simp [isActive]

/-- An event occurrence is counted and its latch is set (R153, R155). -/
theorem faultRec_raiseEvent (k : FaultKind) (sc : Scope) (det : BitVec 32) (s : State) :
    (raiseEvent k sc det s).faultRec k sc = { (s.faultRec k sc).occur s.time with flag := true } := by
  unfold raiseEvent
  split
  · rename_i h
    simp [FaultRec.occur, h]
  · simp

/-- A raised condition is active (R154). -/
@[simp] theorem isActive_raiseCond (k : FaultKind) (sc : Scope) (det : BitVec 32) (s : State) :
    isActive k sc (raiseCond k sc det s) = true := by
  unfold raiseCond
  split
  · assumption
  · simp [isActive]

/-- A cleared condition is not active (R154). -/
@[simp] theorem isActive_clearCond (k : FaultKind) (sc : Scope) (s : State) :
    isActive k sc (clearCond k sc s) = false := by
  unfold clearCond
  split
  · simp [isActive]
  · simp_all

end Sys2Proof.Laws
end

