-- ==== Sys2Proof/Laws/Frames.lean ====
section
/-! SUPPORT. What each shared operation leaves as it was: one lemma an operation, and the sides beside it. -/

namespace Sys2Proof.Laws

open Sys2Proof.Machine

/-! ## Backlight, cab state and lamp state -/

/-- A target re-formed touches the backlight unit and a publish flag. -/
@[simp] theorem reformTarget_frame (d : SideId) (s : State) :
    (reformTarget d s).left = s.left ∧ (reformTarget d s).right = s.right ∧ (reformTarget d s).time = s.time ∧
    (reformTarget d s).phase = s.phase ∧ (reformTarget d s).inReset = s.inReset ∧
    (reformTarget d s).anchor = s.anchor ∧ (reformTarget d s).lamp = s.lamp ∧ (reformTarget d s).cab = s.cab ∧
    (reformTarget d s).link = s.link ∧ (reformTarget d s).faults = s.faults ∧ (reformTarget d s).path = s.path ∧
    (reformTarget d s).snoop = s.snoop ∧ (reformTarget d s).down = s.down ∧ (reformTarget d s).up = s.up ∧
    (reformTarget d s).choice = s.choice ∧ (reformTarget d s).pending = s.pending := by
  unfold reformTarget
  simp only []
  split <;> simp

@[simp] theorem side_reformTarget (d : SideId) (s : State) (e : SideId) :
    (reformTarget d s).side e = s.side e := by
  cases e <;> simp [State.side]

/-- A bypass touches the backlight unit only. -/
@[simp] theorem takeBypass_frame (d : SideId) (s : State) :
    (takeBypass d s).left = s.left ∧ (takeBypass d s).right = s.right ∧ (takeBypass d s).time = s.time ∧
    (takeBypass d s).phase = s.phase ∧ (takeBypass d s).inReset = s.inReset ∧ (takeBypass d s).anchor = s.anchor ∧
    (takeBypass d s).lamp = s.lamp ∧ (takeBypass d s).cab = s.cab ∧ (takeBypass d s).link = s.link ∧
    (takeBypass d s).faults = s.faults ∧ (takeBypass d s).inj = s.inj ∧ (takeBypass d s).path = s.path ∧
    (takeBypass d s).snoop = s.snoop ∧ (takeBypass d s).down = s.down ∧ (takeBypass d s).up = s.up ∧
    (takeBypass d s).choice = s.choice ∧ (takeBypass d s).pending = s.pending := by
  unfold takeBypass
  split <;> simp

@[simp] theorem side_takeBypass (d : SideId) (s : State) (e : SideId) :
    (takeBypass d s).side e = s.side e := by
  cases e <;> simp [State.side]

/-- The start of the backlight unit touches it only. -/
@[simp] theorem startBacklight_frame  (s : State) :
    (startBacklight s).left = s.left ∧ (startBacklight s).right = s.right ∧ (startBacklight s).time = s.time ∧
    (startBacklight s).phase = s.phase ∧ (startBacklight s).inReset = s.inReset ∧
    (startBacklight s).anchor = s.anchor ∧ (startBacklight s).lamp = s.lamp ∧ (startBacklight s).cab = s.cab ∧
    (startBacklight s).link = s.link ∧ (startBacklight s).faults = s.faults ∧ (startBacklight s).inj = s.inj ∧
    (startBacklight s).path = s.path ∧ (startBacklight s).snoop = s.snoop ∧ (startBacklight s).down = s.down ∧
    (startBacklight s).up = s.up ∧ (startBacklight s).choice = s.choice ∧ (startBacklight s).pending = s.pending := by
  unfold startBacklight
  split <;> simp

@[simp] theorem side_startBacklight  (s : State) (e : SideId) :
    (startBacklight s).side e = s.side e := by
  cases e <;> simp [State.side]

/-- A tick touches the backlight unit and a publish flag. -/
@[simp] theorem rampTickOp_frame  (s : State) :
    (rampTickOp s).left = s.left ∧ (rampTickOp s).right = s.right ∧ (rampTickOp s).time = s.time ∧
    (rampTickOp s).phase = s.phase ∧ (rampTickOp s).inReset = s.inReset ∧ (rampTickOp s).anchor = s.anchor ∧
    (rampTickOp s).lamp = s.lamp ∧ (rampTickOp s).cab = s.cab ∧ (rampTickOp s).link = s.link ∧
    (rampTickOp s).faults = s.faults ∧ (rampTickOp s).path = s.path ∧ (rampTickOp s).snoop = s.snoop ∧
    (rampTickOp s).down = s.down ∧ (rampTickOp s).up = s.up ∧ (rampTickOp s).choice = s.choice ∧
    (rampTickOp s).pending = s.pending := by
  unfold rampTickOp
  simp only []
  split <;> simp

@[simp] theorem side_rampTickOp  (s : State) (e : SideId) :
    (rampTickOp s).side e = s.side e := by
  cases e <;> simp [State.side]

/-- An apply at the backlight unit touches it and a publish flag. -/
@[simp] theorem backlightApply_frame  (s : State) :
    (backlightApply s).left = s.left ∧ (backlightApply s).right = s.right ∧ (backlightApply s).time = s.time ∧
    (backlightApply s).phase = s.phase ∧ (backlightApply s).inReset = s.inReset ∧
    (backlightApply s).anchor = s.anchor ∧ (backlightApply s).lamp = s.lamp ∧ (backlightApply s).cab = s.cab ∧
    (backlightApply s).link = s.link ∧ (backlightApply s).faults = s.faults ∧ (backlightApply s).path = s.path ∧
    (backlightApply s).snoop = s.snoop ∧ (backlightApply s).down = s.down ∧ (backlightApply s).up = s.up ∧
    (backlightApply s).choice = s.choice ∧ (backlightApply s).pending = s.pending := by
  unfold backlightApply
  simp only []
  split <;> simp

@[simp] theorem side_backlightApply  (s : State) (e : SideId) :
    (backlightApply s).side e = s.side e := by
  cases e <;> simp [State.side]

/-- The cab state re-formed touches it, the backlight unit and a publish flag. -/
@[simp] theorem reformCab_frame  (s : State) :
    (reformCab s).left = s.left ∧ (reformCab s).right = s.right ∧ (reformCab s).time = s.time ∧
    (reformCab s).phase = s.phase ∧ (reformCab s).inReset = s.inReset ∧ (reformCab s).anchor = s.anchor ∧
    (reformCab s).lamp = s.lamp ∧ (reformCab s).link = s.link ∧ (reformCab s).faults = s.faults ∧
    (reformCab s).path = s.path ∧ (reformCab s).snoop = s.snoop ∧ (reformCab s).down = s.down ∧
    (reformCab s).up = s.up ∧ (reformCab s).choice = s.choice ∧ (reformCab s).pending = s.pending := by
  unfold reformCab
  simp only []
  split <;> simp

@[simp] theorem side_reformCab  (s : State) (e : SideId) :
    (reformCab s).side e = s.side e := by
  cases e <;> simp [State.side]

/-- The lamp level compared touches the lamp state only. -/
@[simp] theorem lampCompare_frame  (s : State) :
    (lampCompare s).left = s.left ∧ (lampCompare s).right = s.right ∧ (lampCompare s).time = s.time ∧
    (lampCompare s).phase = s.phase ∧ (lampCompare s).inReset = s.inReset ∧ (lampCompare s).anchor = s.anchor ∧
    (lampCompare s).cab = s.cab ∧ (lampCompare s).backlight = s.backlight ∧ (lampCompare s).link = s.link ∧
    (lampCompare s).faults = s.faults ∧ (lampCompare s).inj = s.inj ∧ (lampCompare s).path = s.path ∧
    (lampCompare s).snoop = s.snoop ∧ (lampCompare s).down = s.down ∧ (lampCompare s).up = s.up ∧
    (lampCompare s).choice = s.choice ∧ (lampCompare s).pending = s.pending := by
  unfold lampCompare
  split
  · simp
  · split <;> simp

@[simp] theorem side_lampCompare  (s : State) (e : SideId) :
    (lampCompare s).side e = s.side e := by
  cases e <;> simp [State.side]

/-- The lamp level read anew touches the lamp state only. -/
@[simp] theorem lampRestart_frame  (s : State) :
    (lampRestart s).left = s.left ∧ (lampRestart s).right = s.right ∧ (lampRestart s).time = s.time ∧
    (lampRestart s).phase = s.phase ∧ (lampRestart s).inReset = s.inReset ∧ (lampRestart s).anchor = s.anchor ∧
    (lampRestart s).cab = s.cab ∧ (lampRestart s).backlight = s.backlight ∧ (lampRestart s).link = s.link ∧
    (lampRestart s).faults = s.faults ∧ (lampRestart s).inj = s.inj ∧ (lampRestart s).path = s.path ∧
    (lampRestart s).snoop = s.snoop ∧ (lampRestart s).down = s.down ∧ (lampRestart s).up = s.up ∧
    (lampRestart s).choice = s.choice ∧ (lampRestart s).pending = s.pending := by
  simp [lampRestart]

@[simp] theorem side_lampRestart  (s : State) (e : SideId) :
    (lampRestart s).side e = s.side e := by
  cases e <;> simp [State.side]

/-- The lamp state taken touches it only. -/
@[simp] theorem lampTake_frame  (s : State) :
    (lampTake s).left = s.left ∧ (lampTake s).right = s.right ∧ (lampTake s).time = s.time ∧
    (lampTake s).phase = s.phase ∧ (lampTake s).inReset = s.inReset ∧ (lampTake s).anchor = s.anchor ∧
    (lampTake s).cab = s.cab ∧ (lampTake s).backlight = s.backlight ∧ (lampTake s).link = s.link ∧
    (lampTake s).faults = s.faults ∧ (lampTake s).inj = s.inj ∧ (lampTake s).path = s.path ∧
    (lampTake s).snoop = s.snoop ∧ (lampTake s).down = s.down ∧ (lampTake s).up = s.up ∧
    (lampTake s).choice = s.choice ∧ (lampTake s).pending = s.pending := by
  simp [lampTake]

@[simp] theorem side_lampTake  (s : State) (e : SideId) :
    (lampTake s).side e = s.side e := by
  cases e <;> simp [State.side]

/-! ## The link -/

/-- An attempt that begins touches the link only. -/
@[simp] theorem beginAttempt_frame (l : LinkEntry) (s : State) :
    (beginAttempt l s).left = s.left ∧ (beginAttempt l s).right = s.right ∧ (beginAttempt l s).time = s.time ∧
    (beginAttempt l s).phase = s.phase ∧ (beginAttempt l s).inReset = s.inReset ∧
    (beginAttempt l s).anchor = s.anchor ∧ (beginAttempt l s).lamp = s.lamp ∧ (beginAttempt l s).cab = s.cab ∧
    (beginAttempt l s).backlight = s.backlight ∧ (beginAttempt l s).faults = s.faults ∧
    (beginAttempt l s).inj = s.inj ∧ (beginAttempt l s).path = s.path ∧ (beginAttempt l s).snoop = s.snoop ∧
    (beginAttempt l s).down = s.down ∧ (beginAttempt l s).up = s.up ∧ (beginAttempt l s).choice = s.choice ∧
    (beginAttempt l s).pending = s.pending := by
  simp [beginAttempt]

@[simp] theorem side_beginAttempt (l : LinkEntry) (s : State) (e : SideId) :
    (beginAttempt l s).side e = s.side e := by
  cases e <;> simp [State.side]

/-- The next entry begun touches the link only. -/
@[simp] theorem startNext_frame  (s : State) :
    (startNext s).left = s.left ∧ (startNext s).right = s.right ∧ (startNext s).time = s.time ∧
    (startNext s).phase = s.phase ∧ (startNext s).inReset = s.inReset ∧ (startNext s).anchor = s.anchor ∧
    (startNext s).lamp = s.lamp ∧ (startNext s).cab = s.cab ∧ (startNext s).backlight = s.backlight ∧
    (startNext s).faults = s.faults ∧ (startNext s).inj = s.inj ∧ (startNext s).path = s.path ∧
    (startNext s).snoop = s.snoop ∧ (startNext s).down = s.down ∧ (startNext s).up = s.up ∧
    (startNext s).choice = s.choice ∧ (startNext s).pending = s.pending := by
  unfold startNext
  split
  · simp
  · split <;> simp

@[simp] theorem side_startNext  (s : State) (e : SideId) :
    (startNext s).side e = s.side e := by
  cases e <;> simp [State.side]

/-- An entry queued touches the link only, and flags GLOBAL. -/
@[simp] theorem enqueueEntry_frame (l : LinkEntry) (s : State) :
    (enqueueEntry l s).left = s.left ∧ (enqueueEntry l s).right = s.right ∧ (enqueueEntry l s).time = s.time ∧
    (enqueueEntry l s).phase = s.phase ∧ (enqueueEntry l s).inReset = s.inReset ∧
    (enqueueEntry l s).anchor = s.anchor ∧ (enqueueEntry l s).lamp = s.lamp ∧ (enqueueEntry l s).cab = s.cab ∧
    (enqueueEntry l s).backlight = s.backlight ∧ (enqueueEntry l s).faults = s.faults ∧
    (enqueueEntry l s).inj = { s.inj with flagGlobal := true } ∧ (enqueueEntry l s).path = s.path ∧ (enqueueEntry l s).snoop = s.snoop ∧
    (enqueueEntry l s).down = s.down ∧ (enqueueEntry l s).up = s.up ∧ (enqueueEntry l s).choice = s.choice ∧
    (enqueueEntry l s).pending = s.pending := by
  unfold enqueueEntry
  simp only []
  split <;> simp [flagPage]

@[simp] theorem side_enqueueEntry (l : LinkEntry) (s : State) (e : SideId) :
    (enqueueEntry l s).side e = s.side e := by
  cases e <;> simp [State.side]

/-- The guard touches the link only. -/
@[simp] theorem enterGuard_frame  (s : State) :
    (enterGuard s).left = s.left ∧ (enterGuard s).right = s.right ∧ (enterGuard s).time = s.time ∧
    (enterGuard s).phase = s.phase ∧ (enterGuard s).inReset = s.inReset ∧ (enterGuard s).anchor = s.anchor ∧
    (enterGuard s).lamp = s.lamp ∧ (enterGuard s).cab = s.cab ∧ (enterGuard s).backlight = s.backlight ∧
    (enterGuard s).faults = s.faults ∧ (enterGuard s).inj = s.inj ∧ (enterGuard s).path = s.path ∧
    (enterGuard s).snoop = s.snoop ∧ (enterGuard s).down = s.down ∧ (enterGuard s).up = s.up ∧
    (enterGuard s).choice = s.choice ∧ (enterGuard s).pending = s.pending := by
  simp [enterGuard]

@[simp] theorem side_enterGuard  (s : State) (e : SideId) :
    (enterGuard s).side e = s.side e := by
  cases e <;> simp [State.side]

/-- A result touches the link only. -/
@[simp] theorem setResult_frame (n : Fin 6) (r : MailResult) (s : State) :
    (setResult n r s).left = s.left ∧ (setResult n r s).right = s.right ∧ (setResult n r s).time = s.time ∧
    (setResult n r s).phase = s.phase ∧ (setResult n r s).inReset = s.inReset ∧
    (setResult n r s).anchor = s.anchor ∧ (setResult n r s).lamp = s.lamp ∧ (setResult n r s).cab = s.cab ∧
    (setResult n r s).backlight = s.backlight ∧ (setResult n r s).faults = s.faults ∧
    (setResult n r s).inj = s.inj ∧ (setResult n r s).path = s.path ∧ (setResult n r s).snoop = s.snoop ∧
    (setResult n r s).down = s.down ∧ (setResult n r s).up = s.up ∧ (setResult n r s).choice = s.choice ∧
    (setResult n r s).pending = s.pending := by
  simp [setResult]

@[simp] theorem side_setResult (n : Fin 6) (r : MailResult) (s : State) (e : SideId) :
    (setResult n r s).side e = s.side e := by
  cases e <;> simp [State.side]

/-- A cancellation handed on touches the link and a side. -/
@[simp] theorem handCancelled_frame (l : LinkEntry) (s : State) :
    (handCancelled l s).time = s.time ∧ (handCancelled l s).phase = s.phase ∧
    (handCancelled l s).inReset = s.inReset ∧ (handCancelled l s).anchor = s.anchor ∧
    (handCancelled l s).lamp = s.lamp ∧ (handCancelled l s).cab = s.cab ∧
    (handCancelled l s).backlight = s.backlight ∧ (handCancelled l s).faults = s.faults ∧
    (handCancelled l s).inj = s.inj ∧ (handCancelled l s).path = s.path ∧ (handCancelled l s).snoop = s.snoop ∧
    (handCancelled l s).down = s.down ∧ (handCancelled l s).up = s.up ∧ (handCancelled l s).choice = s.choice ∧
    (handCancelled l s).pending = s.pending := by
  unfold handCancelled
  split <;> simp

/-- All of them. -/
@[simp] theorem handAll_frame (es : List LinkEntry) (s : State) :
    (handAll es s).time = s.time ∧ (handAll es s).phase = s.phase ∧ (handAll es s).inReset = s.inReset ∧
    (handAll es s).anchor = s.anchor ∧ (handAll es s).lamp = s.lamp ∧ (handAll es s).cab = s.cab ∧
    (handAll es s).backlight = s.backlight ∧ (handAll es s).faults = s.faults ∧ (handAll es s).inj = s.inj ∧
    (handAll es s).path = s.path ∧ (handAll es s).snoop = s.snoop ∧ (handAll es s).down = s.down ∧
    (handAll es s).up = s.up ∧ (handAll es s).choice = s.choice ∧ (handAll es s).pending = s.pending := by
  induction es generalizing s with
  | nil => simp [handAll]
  | cons e rest ih => simp [handAll, ih]

/-- A cancellation touches the link and the sides. -/
@[simp] theorem cancelSide_frame (d : SideId) (s : State) :
    (cancelSide d s).time = s.time ∧ (cancelSide d s).phase = s.phase ∧ (cancelSide d s).inReset = s.inReset ∧
    (cancelSide d s).anchor = s.anchor ∧ (cancelSide d s).lamp = s.lamp ∧ (cancelSide d s).cab = s.cab ∧
    (cancelSide d s).backlight = s.backlight ∧ (cancelSide d s).faults = s.faults ∧ (cancelSide d s).inj = s.inj ∧
    (cancelSide d s).path = s.path ∧ (cancelSide d s).snoop = s.snoop ∧ (cancelSide d s).down = s.down ∧
    (cancelSide d s).up = s.up ∧ (cancelSide d s).choice = s.choice ∧ (cancelSide d s).pending = s.pending := by
  unfold cancelSide
  simp only []
  split <;> simp

/-! ## The exposure unit -/

/-- A request touches the link and its side, and flags GLOBAL. -/
@[simp] theorem queueExposure_frame (d : SideId) (v : Nat) (s : State) :
    (queueExposure d v s).time = s.time ∧ (queueExposure d v s).phase = s.phase ∧
    (queueExposure d v s).inReset = s.inReset ∧ (queueExposure d v s).anchor = s.anchor ∧
    (queueExposure d v s).lamp = s.lamp ∧ (queueExposure d v s).cab = s.cab ∧
    (queueExposure d v s).backlight = s.backlight ∧ (queueExposure d v s).faults = s.faults ∧
    (queueExposure d v s).inj = { s.inj with flagGlobal := true } ∧ (queueExposure d v s).path = s.path ∧
    (queueExposure d v s).snoop = s.snoop ∧ (queueExposure d v s).down = s.down ∧ (queueExposure d v s).up = s.up ∧
    (queueExposure d v s).choice = s.choice ∧ (queueExposure d v s).pending = s.pending := by
  simp [queueExposure]

/-- The exposure step touches the link and its side, and a publish flag. -/
@[simp] theorem exposureStep_frame (d : SideId) (n : Nat) (s : State) :
    (exposureStep d n s).time = s.time ∧ (exposureStep d n s).phase = s.phase ∧
    (exposureStep d n s).inReset = s.inReset ∧ (exposureStep d n s).anchor = s.anchor ∧
    (exposureStep d n s).lamp = s.lamp ∧ (exposureStep d n s).cab = s.cab ∧
    (exposureStep d n s).backlight = s.backlight ∧ (exposureStep d n s).faults = s.faults ∧
    (exposureStep d n s).path = s.path ∧ (exposureStep d n s).snoop = s.snoop ∧
    (exposureStep d n s).down = s.down ∧ (exposureStep d n s).up = s.up ∧ (exposureStep d n s).choice = s.choice ∧
    (exposureStep d n s).pending = s.pending := by
  unfold exposureStep
  simp only []
  split <;> simp

/-- The unit acting touches the link and its side, and a publish flag. -/
@[simp] theorem exposureActs_frame (d : SideId) (n : Nat) (s : State) :
    (exposureActs d n s).time = s.time ∧ (exposureActs d n s).phase = s.phase ∧
    (exposureActs d n s).inReset = s.inReset ∧ (exposureActs d n s).anchor = s.anchor ∧
    (exposureActs d n s).lamp = s.lamp ∧ (exposureActs d n s).cab = s.cab ∧
    (exposureActs d n s).backlight = s.backlight ∧ (exposureActs d n s).faults = s.faults ∧
    (exposureActs d n s).path = s.path ∧ (exposureActs d n s).snoop = s.snoop ∧
    (exposureActs d n s).down = s.down ∧ (exposureActs d n s).up = s.up ∧ (exposureActs d n s).choice = s.choice ∧
    (exposureActs d n s).pending = s.pending := by
  unfold exposureActs
  split <;> simp

/-- A completion at the exposure unit touches the link and its side, and a publish flag. -/
@[simp] theorem exposureCompletion_frame (d : SideId) (r : Stats) (s : State) :
    (exposureCompletion d r s).time = s.time ∧ (exposureCompletion d r s).phase = s.phase ∧
    (exposureCompletion d r s).inReset = s.inReset ∧ (exposureCompletion d r s).anchor = s.anchor ∧
    (exposureCompletion d r s).lamp = s.lamp ∧ (exposureCompletion d r s).cab = s.cab ∧
    (exposureCompletion d r s).backlight = s.backlight ∧ (exposureCompletion d r s).faults = s.faults ∧
    (exposureCompletion d r s).path = s.path ∧
    (exposureCompletion d r s).snoop = s.snoop ∧ (exposureCompletion d r s).down = s.down ∧
    (exposureCompletion d r s).up = s.up ∧ (exposureCompletion d r s).choice = s.choice ∧
    (exposureCompletion d r s).pending = s.pending := by
  unfold exposureCompletion
  simp only []
  split
  · simp
  · split <;> simp

/-- A confirmation touches its side only. -/
@[simp] theorem confirmExposure_frame (d : SideId) (a b : Half) (s : State) :
    (confirmExposure d a b s).time = s.time ∧ (confirmExposure d a b s).phase = s.phase ∧
    (confirmExposure d a b s).inReset = s.inReset ∧ (confirmExposure d a b s).anchor = s.anchor ∧
    (confirmExposure d a b s).lamp = s.lamp ∧ (confirmExposure d a b s).cab = s.cab ∧
    (confirmExposure d a b s).backlight = s.backlight ∧ (confirmExposure d a b s).link = s.link ∧
    (confirmExposure d a b s).faults = s.faults ∧ (confirmExposure d a b s).inj = s.inj ∧
    (confirmExposure d a b s).path = s.path ∧ (confirmExposure d a b s).snoop = s.snoop ∧
    (confirmExposure d a b s).down = s.down ∧ (confirmExposure d a b s).up = s.up ∧
    (confirmExposure d a b s).choice = s.choice ∧ (confirmExposure d a b s).pending = s.pending := by
  unfold confirmExposure
  split <;> simp

/-- A completion at the scene monitor touches its side, the cab state and what follows it. -/
@[simp] theorem sceneCompletion_frame (d : SideId) (r : Stats) (s : State) :
    (sceneCompletion d r s).time = s.time ∧ (sceneCompletion d r s).phase = s.phase ∧
    (sceneCompletion d r s).inReset = s.inReset ∧ (sceneCompletion d r s).anchor = s.anchor ∧
    (sceneCompletion d r s).lamp = s.lamp ∧ (sceneCompletion d r s).link = s.link ∧
    (sceneCompletion d r s).faults = s.faults ∧ (sceneCompletion d r s).path = s.path ∧
    (sceneCompletion d r s).snoop = s.snoop ∧ (sceneCompletion d r s).down = s.down ∧
    (sceneCompletion d r s).up = s.up ∧ (sceneCompletion d r s).choice = s.choice ∧
    (sceneCompletion d r s).pending = s.pending := by
  unfold sceneCompletion
  simp only []
  split <;> simp

/-! ## Responses and buffers -/

/-- Responses released touch the path and the upstream port. -/
@[simp] theorem releaseWrites_frame  (s : State) :
    (releaseWrites s).left = s.left ∧ (releaseWrites s).right = s.right ∧ (releaseWrites s).time = s.time ∧
    (releaseWrites s).phase = s.phase ∧ (releaseWrites s).inReset = s.inReset ∧
    (releaseWrites s).anchor = s.anchor ∧ (releaseWrites s).lamp = s.lamp ∧ (releaseWrites s).cab = s.cab ∧
    (releaseWrites s).backlight = s.backlight ∧ (releaseWrites s).link = s.link ∧
    (releaseWrites s).faults = s.faults ∧ (releaseWrites s).inj = s.inj ∧ (releaseWrites s).snoop = s.snoop ∧
    (releaseWrites s).down = s.down ∧ (releaseWrites s).choice = s.choice ∧ (releaseWrites s).pending = s.pending := by
  simp [releaseWrites]

@[simp] theorem side_releaseWrites  (s : State) (e : SideId) :
    (releaseWrites s).side e = s.side e := by
  cases e <;> simp [State.side]

/-- Beats released touch the path and the upstream port. -/
@[simp] theorem releaseReads_frame  (s : State) :
    (releaseReads s).left = s.left ∧ (releaseReads s).right = s.right ∧ (releaseReads s).time = s.time ∧
    (releaseReads s).phase = s.phase ∧ (releaseReads s).inReset = s.inReset ∧ (releaseReads s).anchor = s.anchor ∧
    (releaseReads s).lamp = s.lamp ∧ (releaseReads s).cab = s.cab ∧ (releaseReads s).backlight = s.backlight ∧
    (releaseReads s).link = s.link ∧ (releaseReads s).faults = s.faults ∧ (releaseReads s).inj = s.inj ∧
    (releaseReads s).snoop = s.snoop ∧ (releaseReads s).down = s.down ∧ (releaseReads s).choice = s.choice ∧
    (releaseReads s).pending = s.pending := by
  simp [releaseReads]

@[simp] theorem side_releaseReads  (s : State) (e : SideId) :
    (releaseReads s).side e = s.side e := by
  cases e <;> simp [State.side]

/-- The current entry changed touches the path only. -/
@[simp] theorem updCurEntry_frame (f : WEntry → WEntry) (s : State) :
    (updCurEntry f s).left = s.left ∧ (updCurEntry f s).right = s.right ∧ (updCurEntry f s).time = s.time ∧
    (updCurEntry f s).phase = s.phase ∧ (updCurEntry f s).inReset = s.inReset ∧
    (updCurEntry f s).anchor = s.anchor ∧ (updCurEntry f s).lamp = s.lamp ∧ (updCurEntry f s).cab = s.cab ∧
    (updCurEntry f s).backlight = s.backlight ∧ (updCurEntry f s).link = s.link ∧
    (updCurEntry f s).faults = s.faults ∧ (updCurEntry f s).inj = s.inj ∧ (updCurEntry f s).snoop = s.snoop ∧
    (updCurEntry f s).down = s.down ∧ (updCurEntry f s).up = s.up ∧ (updCurEntry f s).choice = s.choice ∧
    (updCurEntry f s).pending = s.pending := by
  simp [updCurEntry]

@[simp] theorem side_updCurEntry (f : WEntry → WEntry) (s : State) (e : SideId) :
    (updCurEntry f s).side e = s.side e := by
  cases e <;> simp [State.side]

/-- An answer touches the path and the upstream port. -/
@[simp] theorem answerCur_frame  (s : State) :
    (answerCur s).left = s.left ∧ (answerCur s).right = s.right ∧ (answerCur s).time = s.time ∧
    (answerCur s).phase = s.phase ∧ (answerCur s).inReset = s.inReset ∧ (answerCur s).anchor = s.anchor ∧
    (answerCur s).lamp = s.lamp ∧ (answerCur s).cab = s.cab ∧ (answerCur s).backlight = s.backlight ∧
    (answerCur s).link = s.link ∧ (answerCur s).faults = s.faults ∧ (answerCur s).inj = s.inj ∧
    (answerCur s).snoop = s.snoop ∧ (answerCur s).down = s.down ∧ (answerCur s).choice = s.choice ∧
    (answerCur s).pending = s.pending := by
  simp [answerCur]

@[simp] theorem side_answerCur  (s : State) (e : SideId) :
    (answerCur s).side e = s.side e := by
  cases e <;> simp [State.side]

/-- Writes that lose their frame touch the path only. -/
@[simp] theorem orphanWrites_frame (d : SideId) (s : State) :
    (orphanWrites d s).left = s.left ∧ (orphanWrites d s).right = s.right ∧ (orphanWrites d s).time = s.time ∧
    (orphanWrites d s).phase = s.phase ∧ (orphanWrites d s).inReset = s.inReset ∧
    (orphanWrites d s).anchor = s.anchor ∧ (orphanWrites d s).lamp = s.lamp ∧ (orphanWrites d s).cab = s.cab ∧
    (orphanWrites d s).backlight = s.backlight ∧ (orphanWrites d s).link = s.link ∧
    (orphanWrites d s).faults = s.faults ∧ (orphanWrites d s).inj = s.inj ∧ (orphanWrites d s).snoop = s.snoop ∧
    (orphanWrites d s).down = s.down ∧ (orphanWrites d s).up = s.up ∧ (orphanWrites d s).choice = s.choice ∧
    (orphanWrites d s).pending = s.pending := by
  simp [orphanWrites]

@[simp] theorem side_orphanWrites (d : SideId) (s : State) (e : SideId) :
    (orphanWrites d s).side e = s.side e := by
  cases e <;> simp [State.side]

/-- A discarded write touches the path and the upstream port. -/
@[simp] theorem discardCur_frame (d : SideId) (s : State) :
    (discardCur d s).left = s.left ∧ (discardCur d s).right = s.right ∧ (discardCur d s).time = s.time ∧
    (discardCur d s).phase = s.phase ∧ (discardCur d s).inReset = s.inReset ∧ (discardCur d s).anchor = s.anchor ∧
    (discardCur d s).lamp = s.lamp ∧ (discardCur d s).cab = s.cab ∧ (discardCur d s).backlight = s.backlight ∧
    (discardCur d s).link = s.link ∧ (discardCur d s).faults = s.faults ∧ (discardCur d s).inj = s.inj ∧
    (discardCur d s).snoop = s.snoop ∧ (discardCur d s).down = s.down ∧ (discardCur d s).choice = s.choice ∧
    (discardCur d s).pending = s.pending := by
  unfold discardCur
  repeat' split
  all_goals simp

@[simp] theorem side_discardCur (d : SideId) (s : State) (e : SideId) :
    (discardCur d s).side e = s.side e := by
  cases e <;> simp [State.side]

/-- Teardown touches its side, the path, the upstream port and the fault unit. -/
@[simp] theorem teardown_frame (d : SideId) (s : State) :
    (teardown d s).time = s.time ∧ (teardown d s).phase = s.phase ∧ (teardown d s).inReset = s.inReset ∧
    (teardown d s).anchor = s.anchor ∧ (teardown d s).lamp = s.lamp ∧ (teardown d s).cab = s.cab ∧
    (teardown d s).backlight = s.backlight ∧ (teardown d s).link = s.link ∧ (teardown d s).inj = s.inj ∧
    (teardown d s).snoop = s.snoop ∧ (teardown d s).down = s.down ∧ (teardown d s).choice = s.choice ∧
    (teardown d s).pending = s.pending := by
  simp [teardown]

/-- Stopped watchdogs touch their side and the fault unit. -/
@[simp] theorem stopWatchdogs_frame (d : SideId) (s : State) :
    (stopWatchdogs d s).time = s.time ∧ (stopWatchdogs d s).phase = s.phase ∧
    (stopWatchdogs d s).inReset = s.inReset ∧ (stopWatchdogs d s).anchor = s.anchor ∧
    (stopWatchdogs d s).lamp = s.lamp ∧ (stopWatchdogs d s).cab = s.cab ∧
    (stopWatchdogs d s).backlight = s.backlight ∧ (stopWatchdogs d s).link = s.link ∧
    (stopWatchdogs d s).inj = s.inj ∧ (stopWatchdogs d s).path = s.path ∧ (stopWatchdogs d s).snoop = s.snoop ∧
    (stopWatchdogs d s).down = s.down ∧ (stopWatchdogs d s).up = s.up ∧ (stopWatchdogs d s).choice = s.choice ∧
    (stopWatchdogs d s).pending = s.pending := by
  simp [stopWatchdogs]

/-- Started watchdogs touch their side only. -/
@[simp] theorem startWatchdogs_frame (d : SideId) (s : State) :
    (startWatchdogs d s).time = s.time ∧ (startWatchdogs d s).phase = s.phase ∧
    (startWatchdogs d s).inReset = s.inReset ∧ (startWatchdogs d s).anchor = s.anchor ∧
    (startWatchdogs d s).lamp = s.lamp ∧ (startWatchdogs d s).cab = s.cab ∧
    (startWatchdogs d s).backlight = s.backlight ∧ (startWatchdogs d s).link = s.link ∧
    (startWatchdogs d s).faults = s.faults ∧ (startWatchdogs d s).inj = s.inj ∧ (startWatchdogs d s).path = s.path ∧
    (startWatchdogs d s).snoop = s.snoop ∧ (startWatchdogs d s).down = s.down ∧ (startWatchdogs d s).up = s.up ∧
    (startWatchdogs d s).choice = s.choice ∧ (startWatchdogs d s).pending = s.pending := by
  simp [startWatchdogs]

/-! ## The head controller and the sequencer -/

/-- A RAISE request touches its side only. -/
@[simp] theorem seqRaise_frame (d : SideId) (s : State) :
    (seqRaise d s).time = s.time ∧ (seqRaise d s).phase = s.phase ∧ (seqRaise d s).inReset = s.inReset ∧
    (seqRaise d s).anchor = s.anchor ∧ (seqRaise d s).lamp = s.lamp ∧ (seqRaise d s).cab = s.cab ∧
    (seqRaise d s).backlight = s.backlight ∧ (seqRaise d s).link = s.link ∧ (seqRaise d s).faults = s.faults ∧
    (seqRaise d s).inj = s.inj ∧ (seqRaise d s).path = s.path ∧ (seqRaise d s).snoop = s.snoop ∧
    (seqRaise d s).down = s.down ∧ (seqRaise d s).up = s.up ∧ (seqRaise d s).choice = s.choice ∧
    (seqRaise d s).pending = s.pending := by
  simp [seqRaise]

/-- LOW reported touches its side only. -/
@[simp] theorem reportLow_frame (d : SideId) (s : State) :
    (reportLow d s).time = s.time ∧ (reportLow d s).phase = s.phase ∧ (reportLow d s).inReset = s.inReset ∧
    (reportLow d s).anchor = s.anchor ∧ (reportLow d s).lamp = s.lamp ∧ (reportLow d s).cab = s.cab ∧
    (reportLow d s).backlight = s.backlight ∧ (reportLow d s).link = s.link ∧ (reportLow d s).faults = s.faults ∧
    (reportLow d s).inj = s.inj ∧ (reportLow d s).path = s.path ∧ (reportLow d s).snoop = s.snoop ∧
    (reportLow d s).down = s.down ∧ (reportLow d s).up = s.up ∧ (reportLow d s).choice = s.choice ∧
    (reportLow d s).pending = s.pending := by
  unfold reportLow
  simp only []
  split
  · split <;> simp
  · simp

/-- A line released touches its side only. -/
@[simp] theorem seqRelease_frame (d : SideId) (s : State) :
    (seqRelease d s).time = s.time ∧ (seqRelease d s).phase = s.phase ∧ (seqRelease d s).inReset = s.inReset ∧
    (seqRelease d s).anchor = s.anchor ∧ (seqRelease d s).lamp = s.lamp ∧ (seqRelease d s).cab = s.cab ∧
    (seqRelease d s).backlight = s.backlight ∧ (seqRelease d s).link = s.link ∧ (seqRelease d s).faults = s.faults ∧
    (seqRelease d s).inj = s.inj ∧ (seqRelease d s).path = s.path ∧ (seqRelease d s).snoop = s.snoop ∧
    (seqRelease d s).down = s.down ∧ (seqRelease d s).up = s.up ∧ (seqRelease d s).choice = s.choice ∧
    (seqRelease d s).pending = s.pending := by
  unfold seqRelease
  simp only []
  split <;> simp

/-- A LOWER request touches its side only. -/
@[simp] theorem seqLower_frame (d : SideId) (s : State) :
    (seqLower d s).time = s.time ∧ (seqLower d s).phase = s.phase ∧ (seqLower d s).inReset = s.inReset ∧
    (seqLower d s).anchor = s.anchor ∧ (seqLower d s).lamp = s.lamp ∧ (seqLower d s).cab = s.cab ∧
    (seqLower d s).backlight = s.backlight ∧ (seqLower d s).link = s.link ∧ (seqLower d s).faults = s.faults ∧
    (seqLower d s).inj = s.inj ∧ (seqLower d s).path = s.path ∧ (seqLower d s).snoop = s.snoop ∧
    (seqLower d s).down = s.down ∧ (seqLower d s).up = s.up ∧ (seqLower d s).choice = s.choice ∧
    (seqLower d s).pending = s.pending := by
  unfold seqLower
  split <;> simp

/-- Entry to POWERING touches its side only. -/
@[simp] theorem enterPowering_frame (d : SideId) (s : State) :
    (enterPowering d s).time = s.time ∧ (enterPowering d s).phase = s.phase ∧
    (enterPowering d s).inReset = s.inReset ∧ (enterPowering d s).anchor = s.anchor ∧
    (enterPowering d s).lamp = s.lamp ∧ (enterPowering d s).cab = s.cab ∧
    (enterPowering d s).backlight = s.backlight ∧ (enterPowering d s).link = s.link ∧
    (enterPowering d s).faults = s.faults ∧ (enterPowering d s).inj = s.inj ∧ (enterPowering d s).path = s.path ∧
    (enterPowering d s).snoop = s.snoop ∧ (enterPowering d s).down = s.down ∧ (enterPowering d s).up = s.up ∧
    (enterPowering d s).choice = s.choice ∧ (enterPowering d s).pending = s.pending := by
  simp [enterPowering]

/-- A power-up touches its side only. -/
@[simp] theorem powerUp_frame (d : SideId) (s : State) :
    (powerUp d s).time = s.time ∧ (powerUp d s).phase = s.phase ∧ (powerUp d s).inReset = s.inReset ∧
    (powerUp d s).anchor = s.anchor ∧ (powerUp d s).lamp = s.lamp ∧ (powerUp d s).cab = s.cab ∧
    (powerUp d s).backlight = s.backlight ∧ (powerUp d s).link = s.link ∧ (powerUp d s).faults = s.faults ∧
    (powerUp d s).inj = s.inj ∧ (powerUp d s).path = s.path ∧ (powerUp d s).snoop = s.snoop ∧
    (powerUp d s).down = s.down ∧ (powerUp d s).up = s.up ∧ (powerUp d s).choice = s.choice ∧
    (powerUp d s).pending = s.pending := by
  simp [powerUp]

/-- A completed raise touches its side only. -/
@[simp] theorem raiseComplete_frame (d : SideId) (s : State) :
    (raiseComplete d s).time = s.time ∧ (raiseComplete d s).phase = s.phase ∧
    (raiseComplete d s).inReset = s.inReset ∧ (raiseComplete d s).anchor = s.anchor ∧
    (raiseComplete d s).lamp = s.lamp ∧ (raiseComplete d s).cab = s.cab ∧
    (raiseComplete d s).backlight = s.backlight ∧ (raiseComplete d s).link = s.link ∧
    (raiseComplete d s).faults = s.faults ∧ (raiseComplete d s).inj = s.inj ∧ (raiseComplete d s).path = s.path ∧
    (raiseComplete d s).snoop = s.snoop ∧ (raiseComplete d s).down = s.down ∧ (raiseComplete d s).up = s.up ∧
    (raiseComplete d s).choice = s.choice ∧ (raiseComplete d s).pending = s.pending := by
  unfold raiseComplete
  simp only []
  split <;> simp

/-- A raise step touches its side only. -/
@[simp] theorem raiseStep_frame (d : SideId) (s : State) :
    (raiseStep d s).time = s.time ∧ (raiseStep d s).phase = s.phase ∧ (raiseStep d s).inReset = s.inReset ∧
    (raiseStep d s).anchor = s.anchor ∧ (raiseStep d s).lamp = s.lamp ∧ (raiseStep d s).cab = s.cab ∧
    (raiseStep d s).backlight = s.backlight ∧ (raiseStep d s).link = s.link ∧ (raiseStep d s).faults = s.faults ∧
    (raiseStep d s).inj = s.inj ∧ (raiseStep d s).path = s.path ∧ (raiseStep d s).snoop = s.snoop ∧
    (raiseStep d s).down = s.down ∧ (raiseStep d s).up = s.up ∧ (raiseStep d s).choice = s.choice ∧
    (raiseStep d s).pending = s.pending := by
  unfold raiseStep
  simp only []
  split <;> simp

/-- The end of a dwell touches its side only. -/
@[simp] theorem dwellEnd_frame (d : SideId) (s : State) :
    (dwellEnd d s).time = s.time ∧ (dwellEnd d s).phase = s.phase ∧ (dwellEnd d s).inReset = s.inReset ∧
    (dwellEnd d s).anchor = s.anchor ∧ (dwellEnd d s).lamp = s.lamp ∧ (dwellEnd d s).cab = s.cab ∧
    (dwellEnd d s).backlight = s.backlight ∧ (dwellEnd d s).link = s.link ∧ (dwellEnd d s).faults = s.faults ∧
    (dwellEnd d s).inj = s.inj ∧ (dwellEnd d s).path = s.path ∧ (dwellEnd d s).snoop = s.snoop ∧
    (dwellEnd d s).down = s.down ∧ (dwellEnd d s).up = s.up ∧ (dwellEnd d s).choice = s.choice ∧
    (dwellEnd d s).pending = s.pending := by
  simp [dwellEnd]

/-- Entry to PROBING touches its side and the link, and flags GLOBAL. -/
@[simp] theorem enterProbing_frame (d : SideId) (s : State) :
    (enterProbing d s).time = s.time ∧ (enterProbing d s).phase = s.phase ∧ (enterProbing d s).inReset = s.inReset ∧
    (enterProbing d s).anchor = s.anchor ∧ (enterProbing d s).lamp = s.lamp ∧ (enterProbing d s).cab = s.cab ∧
    (enterProbing d s).backlight = s.backlight ∧ (enterProbing d s).faults = s.faults ∧
    (enterProbing d s).inj = { s.inj with flagGlobal := true } ∧ (enterProbing d s).path = s.path ∧ (enterProbing d s).snoop = s.snoop ∧
    (enterProbing d s).down = s.down ∧ (enterProbing d s).up = s.up ∧ (enterProbing d s).choice = s.choice ∧
    (enterProbing d s).pending = s.pending := by
  simp [enterProbing]

/-- Entry to RUNNING touches its side, the link, the cab state and what follows it. -/
@[simp] theorem enterRunning_frame (d : SideId) (s : State) :
    (enterRunning d s).time = s.time ∧ (enterRunning d s).phase = s.phase ∧ (enterRunning d s).inReset = s.inReset ∧
    (enterRunning d s).anchor = s.anchor ∧ (enterRunning d s).lamp = s.lamp ∧ (enterRunning d s).faults = s.faults ∧
    (enterRunning d s).path = s.path ∧ (enterRunning d s).snoop = s.snoop ∧ (enterRunning d s).down = s.down ∧
    (enterRunning d s).up = s.up ∧ (enterRunning d s).choice = s.choice ∧ (enterRunning d s).pending = s.pending := by
  unfold enterRunning
  simp only []
  split <;> simp

/-- A degrading cause touches its side and the fault unit. -/
@[simp] theorem degrade_frame (d : SideId) (n : Nat) (s : State) :
    (degrade d n s).time = s.time ∧ (degrade d n s).phase = s.phase ∧ (degrade d n s).inReset = s.inReset ∧
    (degrade d n s).anchor = s.anchor ∧ (degrade d n s).lamp = s.lamp ∧ (degrade d n s).cab = s.cab ∧
    (degrade d n s).backlight = s.backlight ∧ (degrade d n s).link = s.link ∧ (degrade d n s).inj = s.inj ∧
    (degrade d n s).path = s.path ∧ (degrade d n s).snoop = s.snoop ∧ (degrade d n s).down = s.down ∧
    (degrade d n s).up = s.up ∧ (degrade d n s).choice = s.choice ∧ (degrade d n s).pending = s.pending := by
  unfold degrade
  split <;> simp

/-- The conditions cleared touch the fault unit only. -/
@[simp] theorem clearHealth_frame (d : SideId) (s : State) :
    (clearHealth d s).left = s.left ∧ (clearHealth d s).right = s.right ∧ (clearHealth d s).time = s.time ∧
    (clearHealth d s).phase = s.phase ∧ (clearHealth d s).inReset = s.inReset ∧
    (clearHealth d s).anchor = s.anchor ∧ (clearHealth d s).lamp = s.lamp ∧ (clearHealth d s).cab = s.cab ∧
    (clearHealth d s).backlight = s.backlight ∧ (clearHealth d s).link = s.link ∧ (clearHealth d s).inj = s.inj ∧
    (clearHealth d s).path = s.path ∧ (clearHealth d s).snoop = s.snoop ∧ (clearHealth d s).down = s.down ∧
    (clearHealth d s).up = s.up ∧ (clearHealth d s).choice = s.choice ∧ (clearHealth d s).pending = s.pending := by
  simp [clearHealth]

@[simp] theorem side_clearHealth (d : SideId) (s : State) (e : SideId) :
    (clearHealth d s).side e = s.side e := by
  cases e <;> simp [State.side]

/-- The run count touches its side only. -/
@[simp] theorem countRun_frame (d : SideId) (s : State) :
    (countRun d s).time = s.time ∧ (countRun d s).phase = s.phase ∧ (countRun d s).inReset = s.inReset ∧
    (countRun d s).anchor = s.anchor ∧ (countRun d s).lamp = s.lamp ∧ (countRun d s).cab = s.cab ∧
    (countRun d s).backlight = s.backlight ∧ (countRun d s).link = s.link ∧ (countRun d s).faults = s.faults ∧
    (countRun d s).inj = s.inj ∧ (countRun d s).path = s.path ∧ (countRun d s).snoop = s.snoop ∧
    (countRun d s).down = s.down ∧ (countRun d s).up = s.up ∧ (countRun d s).choice = s.choice ∧
    (countRun d s).pending = s.pending := by
  simp [countRun]

/-- A good frame touches its side and the fault unit. -/
@[simp] theorem goodFrame_frame (d : SideId) (s : State) :
    (goodFrame d s).time = s.time ∧ (goodFrame d s).phase = s.phase ∧ (goodFrame d s).inReset = s.inReset ∧
    (goodFrame d s).anchor = s.anchor ∧ (goodFrame d s).lamp = s.lamp ∧ (goodFrame d s).cab = s.cab ∧
    (goodFrame d s).backlight = s.backlight ∧ (goodFrame d s).link = s.link ∧ (goodFrame d s).inj = s.inj ∧
    (goodFrame d s).path = s.path ∧ (goodFrame d s).snoop = s.snoop ∧ (goodFrame d s).down = s.down ∧
    (goodFrame d s).up = s.up ∧ (goodFrame d s).choice = s.choice ∧ (goodFrame d s).pending = s.pending := by
  unfold goodFrame
  simp only []
  split <;> simp

/-- An outcome touches its side and the fault unit. -/
@[simp] theorem headFrame_frame (d : SideId) (o : FrameOutcome) (s : State) :
    (headFrame d o s).time = s.time ∧ (headFrame d o s).phase = s.phase ∧ (headFrame d o s).inReset = s.inReset ∧
    (headFrame d o s).anchor = s.anchor ∧ (headFrame d o s).lamp = s.lamp ∧ (headFrame d o s).cab = s.cab ∧
    (headFrame d o s).backlight = s.backlight ∧ (headFrame d o s).link = s.link ∧ (headFrame d o s).inj = s.inj ∧
    (headFrame d o s).path = s.path ∧ (headFrame d o s).snoop = s.snoop ∧ (headFrame d o s).down = s.down ∧
    (headFrame d o s).up = s.up ∧ (headFrame d o s).choice = s.choice ∧ (headFrame d o s).pending = s.pending := by
  unfold headFrame
  split
  · split <;> simp
  · simp

/-- A link success touches its side only. -/
@[simp] theorem streakDone_frame (d : SideId) (s : State) :
    (streakDone d s).time = s.time ∧ (streakDone d s).phase = s.phase ∧ (streakDone d s).inReset = s.inReset ∧
    (streakDone d s).anchor = s.anchor ∧ (streakDone d s).lamp = s.lamp ∧ (streakDone d s).cab = s.cab ∧
    (streakDone d s).backlight = s.backlight ∧ (streakDone d s).link = s.link ∧ (streakDone d s).faults = s.faults ∧
    (streakDone d s).inj = s.inj ∧ (streakDone d s).path = s.path ∧ (streakDone d s).snoop = s.snoop ∧
    (streakDone d s).down = s.down ∧ (streakDone d s).up = s.up ∧ (streakDone d s).choice = s.choice ∧
    (streakDone d s).pending = s.pending := by
  simp [streakDone]

/-- A link failure touches its side and the fault unit. -/
@[simp] theorem streakFail_frame (d : SideId) (s : State) :
    (streakFail d s).time = s.time ∧ (streakFail d s).phase = s.phase ∧ (streakFail d s).inReset = s.inReset ∧
    (streakFail d s).anchor = s.anchor ∧ (streakFail d s).lamp = s.lamp ∧ (streakFail d s).cab = s.cab ∧
    (streakFail d s).backlight = s.backlight ∧ (streakFail d s).link = s.link ∧ (streakFail d s).inj = s.inj ∧
    (streakFail d s).path = s.path ∧ (streakFail d s).snoop = s.snoop ∧ (streakFail d s).down = s.down ∧
    (streakFail d s).up = s.up ∧ (streakFail d s).choice = s.choice ∧ (streakFail d s).pending = s.pending := by
  unfold streakFail
  simp only []
  split <;> simp

/-- An expiry of the display watchdog touches its side and the fault unit. -/
@[simp] theorem displayExpiry_frame (d : SideId) (s : State) :
    (displayExpiry d s).time = s.time ∧ (displayExpiry d s).phase = s.phase ∧
    (displayExpiry d s).inReset = s.inReset ∧ (displayExpiry d s).anchor = s.anchor ∧
    (displayExpiry d s).lamp = s.lamp ∧ (displayExpiry d s).cab = s.cab ∧
    (displayExpiry d s).backlight = s.backlight ∧ (displayExpiry d s).link = s.link ∧
    (displayExpiry d s).inj = s.inj ∧ (displayExpiry d s).path = s.path ∧ (displayExpiry d s).snoop = s.snoop ∧
    (displayExpiry d s).down = s.down ∧ (displayExpiry d s).up = s.up ∧ (displayExpiry d s).choice = s.choice ∧
    (displayExpiry d s).pending = s.pending := by
  simp [displayExpiry]

/-! ## Display, capture and the injector -/

/-- A swap touches its side and the fault unit. -/
@[simp] theorem swapFrames_frame (d : SideId) (s : State) :
    (swapFrames d s).time = s.time ∧ (swapFrames d s).phase = s.phase ∧ (swapFrames d s).inReset = s.inReset ∧
    (swapFrames d s).anchor = s.anchor ∧ (swapFrames d s).lamp = s.lamp ∧ (swapFrames d s).cab = s.cab ∧
    (swapFrames d s).backlight = s.backlight ∧ (swapFrames d s).link = s.link ∧ (swapFrames d s).inj = s.inj ∧
    (swapFrames d s).path = s.path ∧ (swapFrames d s).snoop = s.snoop ∧ (swapFrames d s).down = s.down ∧
    (swapFrames d s).up = s.up ∧ (swapFrames d s).choice = s.choice ∧ (swapFrames d s).pending = s.pending := by
  simp [swapFrames]

/-- A repeat touches its side and the fault unit. -/
@[simp] theorem repeatFrame_frame (d : SideId) (s : State) :
    (repeatFrame d s).time = s.time ∧ (repeatFrame d s).phase = s.phase ∧ (repeatFrame d s).inReset = s.inReset ∧
    (repeatFrame d s).anchor = s.anchor ∧ (repeatFrame d s).lamp = s.lamp ∧ (repeatFrame d s).cab = s.cab ∧
    (repeatFrame d s).backlight = s.backlight ∧ (repeatFrame d s).link = s.link ∧ (repeatFrame d s).inj = s.inj ∧
    (repeatFrame d s).path = s.path ∧ (repeatFrame d s).snoop = s.snoop ∧ (repeatFrame d s).down = s.down ∧
    (repeatFrame d s).up = s.up ∧ (repeatFrame d s).choice = s.choice ∧ (repeatFrame d s).pending = s.pending := by
  unfold repeatFrame
  simp only []
  split <;> simp

/-- Swap or repeat touches its side and the fault unit. -/
@[simp] theorem swapOrRepeat_frame (d : SideId) (s : State) :
    (swapOrRepeat d s).time = s.time ∧ (swapOrRepeat d s).phase = s.phase ∧ (swapOrRepeat d s).inReset = s.inReset ∧
    (swapOrRepeat d s).anchor = s.anchor ∧ (swapOrRepeat d s).lamp = s.lamp ∧ (swapOrRepeat d s).cab = s.cab ∧
    (swapOrRepeat d s).backlight = s.backlight ∧ (swapOrRepeat d s).link = s.link ∧ (swapOrRepeat d s).inj = s.inj ∧
    (swapOrRepeat d s).path = s.path ∧ (swapOrRepeat d s).snoop = s.snoop ∧ (swapOrRepeat d s).down = s.down ∧
    (swapOrRepeat d s).up = s.up ∧ (swapOrRepeat d s).choice = s.choice ∧ (swapOrRepeat d s).pending = s.pending := by
  unfold swapOrRepeat
  split
  · simp
  · split <;> simp

/-- The age check touches its side and the fault unit. -/
@[simp] theorem ageCheck_frame (d : SideId) (s : State) :
    (ageCheck d s).time = s.time ∧ (ageCheck d s).phase = s.phase ∧ (ageCheck d s).inReset = s.inReset ∧
    (ageCheck d s).anchor = s.anchor ∧ (ageCheck d s).lamp = s.lamp ∧ (ageCheck d s).cab = s.cab ∧
    (ageCheck d s).backlight = s.backlight ∧ (ageCheck d s).link = s.link ∧ (ageCheck d s).inj = s.inj ∧
    (ageCheck d s).path = s.path ∧ (ageCheck d s).snoop = s.snoop ∧ (ageCheck d s).down = s.down ∧
    (ageCheck d s).up = s.up ∧ (ageCheck d s).choice = s.choice ∧ (ageCheck d s).pending = s.pending := by
  unfold ageCheck
  split
  · simp only []
    split <;> simp
  · simp

/-- The restart touches its side and the fault unit. -/
@[simp] theorem restartDisplay_frame (d : SideId) (s : State) :
    (restartDisplay d s).time = s.time ∧ (restartDisplay d s).phase = s.phase ∧
    (restartDisplay d s).inReset = s.inReset ∧ (restartDisplay d s).anchor = s.anchor ∧
    (restartDisplay d s).lamp = s.lamp ∧ (restartDisplay d s).cab = s.cab ∧
    (restartDisplay d s).backlight = s.backlight ∧ (restartDisplay d s).link = s.link ∧
    (restartDisplay d s).inj = s.inj ∧ (restartDisplay d s).path = s.path ∧ (restartDisplay d s).snoop = s.snoop ∧
    (restartDisplay d s).down = s.down ∧ (restartDisplay d s).up = s.up ∧ (restartDisplay d s).choice = s.choice ∧
    (restartDisplay d s).pending = s.pending := by
  unfold restartDisplay
  split <;> simp

/-- A display frame start touches its side and the fault unit. -/
@[simp] theorem frameStart_frame (d : SideId) (s : State) :
    (frameStart d s).time = s.time ∧ (frameStart d s).phase = s.phase ∧ (frameStart d s).inReset = s.inReset ∧
    (frameStart d s).anchor = s.anchor ∧ (frameStart d s).lamp = s.lamp ∧ (frameStart d s).cab = s.cab ∧
    (frameStart d s).backlight = s.backlight ∧ (frameStart d s).link = s.link ∧ (frameStart d s).inj = s.inj ∧
    (frameStart d s).path = s.path ∧ (frameStart d s).snoop = s.snoop ∧ (frameStart d s).down = s.down ∧
    (frameStart d s).up = s.up ∧ (frameStart d s).choice = s.choice ∧ (frameStart d s).pending = s.pending := by
  simp [frameStart]

/-- A frame that starts touches its side only. -/
@[simp] theorem startFrame_frame (d : SideId) (s : State) :
    (startFrame d s).time = s.time ∧ (startFrame d s).phase = s.phase ∧ (startFrame d s).inReset = s.inReset ∧
    (startFrame d s).anchor = s.anchor ∧ (startFrame d s).lamp = s.lamp ∧ (startFrame d s).cab = s.cab ∧
    (startFrame d s).backlight = s.backlight ∧ (startFrame d s).link = s.link ∧ (startFrame d s).faults = s.faults ∧
    (startFrame d s).inj = s.inj ∧ (startFrame d s).path = s.path ∧ (startFrame d s).snoop = s.snoop ∧
    (startFrame d s).down = s.down ∧ (startFrame d s).up = s.up ∧ (startFrame d s).choice = s.choice ∧
    (startFrame d s).pending = s.pending := by
  unfold startFrame
  split <;> simp

/-- A rejected frame touches its side, and flags its section. -/
@[simp] theorem rejectFrame_frame (d : SideId) (f : Fip) (s : State) :
    (rejectFrame d f s).time = s.time ∧ (rejectFrame d f s).phase = s.phase ∧
    (rejectFrame d f s).inReset = s.inReset ∧ (rejectFrame d f s).anchor = s.anchor ∧
    (rejectFrame d f s).lamp = s.lamp ∧ (rejectFrame d f s).cab = s.cab ∧
    (rejectFrame d f s).backlight = s.backlight ∧ (rejectFrame d f s).link = s.link ∧
    (rejectFrame d f s).faults = s.faults ∧ (rejectFrame d f s).path = s.path ∧
    (rejectFrame d f s).snoop = s.snoop ∧ (rejectFrame d f s).down = s.down ∧ (rejectFrame d f s).up = s.up ∧
    (rejectFrame d f s).choice = s.choice ∧ (rejectFrame d f s).pending = s.pending ∧
    (rejectFrame d f s).inj.w = s.inj.w ∧ (rejectFrame d f s).inj.r = s.inj.r ∧
    (rejectFrame d f s).inj.seq = s.inj.seq ∧ (rejectFrame d f s).inj.serving = s.inj.serving ∧
    (rejectFrame d f s).inj.inflight = s.inj.inflight ∧ (rejectFrame d f s).inj.attn = s.inj.attn := by
  simp [rejectFrame]

/-- The frame record changed touches its side only. -/
@[simp] theorem updFip_frame (d : SideId) (g : Fip → Fip) (s : State) :
    (updFip d g s).time = s.time ∧ (updFip d g s).phase = s.phase ∧ (updFip d g s).inReset = s.inReset ∧
    (updFip d g s).anchor = s.anchor ∧ (updFip d g s).lamp = s.lamp ∧ (updFip d g s).cab = s.cab ∧
    (updFip d g s).backlight = s.backlight ∧ (updFip d g s).link = s.link ∧ (updFip d g s).faults = s.faults ∧
    (updFip d g s).inj = s.inj ∧ (updFip d g s).path = s.path ∧ (updFip d g s).snoop = s.snoop ∧
    (updFip d g s).down = s.down ∧ (updFip d g s).up = s.up ∧ (updFip d g s).choice = s.choice ∧
    (updFip d g s).pending = s.pending := by
  simp [updFip]

/-- A line start touches its side and the fault unit. -/
@[simp] theorem lineStarted_frame (d : SideId) (n : Nat) (f : Fip) (s : State) :
    (lineStarted d n f s).time = s.time ∧ (lineStarted d n f s).phase = s.phase ∧
    (lineStarted d n f s).inReset = s.inReset ∧ (lineStarted d n f s).anchor = s.anchor ∧
    (lineStarted d n f s).lamp = s.lamp ∧ (lineStarted d n f s).cab = s.cab ∧
    (lineStarted d n f s).backlight = s.backlight ∧ (lineStarted d n f s).link = s.link ∧
    (lineStarted d n f s).inj = s.inj ∧ (lineStarted d n f s).path = s.path ∧
    (lineStarted d n f s).snoop = s.snoop ∧ (lineStarted d n f s).down = s.down ∧ (lineStarted d n f s).up = s.up ∧
    (lineStarted d n f s).choice = s.choice ∧ (lineStarted d n f s).pending = s.pending := by
  unfold lineStarted
  split <;> simp

/-- The lost count touches the fault unit only. -/
@[simp] theorem addLost_frame (n : Nat) (s : State) :
    (addLost n s).left = s.left ∧ (addLost n s).right = s.right ∧ (addLost n s).time = s.time ∧
    (addLost n s).phase = s.phase ∧ (addLost n s).inReset = s.inReset ∧ (addLost n s).anchor = s.anchor ∧
    (addLost n s).lamp = s.lamp ∧ (addLost n s).cab = s.cab ∧ (addLost n s).backlight = s.backlight ∧
    (addLost n s).link = s.link ∧ (addLost n s).inj = s.inj ∧ (addLost n s).path = s.path ∧
    (addLost n s).snoop = s.snoop ∧ (addLost n s).down = s.down ∧ (addLost n s).up = s.up ∧
    (addLost n s).choice = s.choice ∧ (addLost n s).pending = s.pending := by
  simp [addLost]

@[simp] theorem side_addLost (n : Nat) (s : State) (e : SideId) :
    (addLost n s).side e = s.side e := by
  cases e <;> simp [State.side]

/-- REPORT_PATH touches the fault unit only. -/
@[simp] theorem reportPath_frame (r : Resp) (a : Addr) (s : State) :
    (reportPath r a s).left = s.left ∧ (reportPath r a s).right = s.right ∧ (reportPath r a s).time = s.time ∧
    (reportPath r a s).phase = s.phase ∧ (reportPath r a s).inReset = s.inReset ∧
    (reportPath r a s).anchor = s.anchor ∧ (reportPath r a s).lamp = s.lamp ∧ (reportPath r a s).cab = s.cab ∧
    (reportPath r a s).backlight = s.backlight ∧ (reportPath r a s).link = s.link ∧ (reportPath r a s).inj = s.inj ∧
    (reportPath r a s).path = s.path ∧ (reportPath r a s).snoop = s.snoop ∧ (reportPath r a s).down = s.down ∧
    (reportPath r a s).up = s.up ∧ (reportPath r a s).choice = s.choice ∧ (reportPath r a s).pending = s.pending := by
  unfold reportPath
  split <;> simp

@[simp] theorem side_reportPath (r : Resp) (a : Addr) (s : State) (e : SideId) :
    (reportPath r a s).side e = s.side e := by
  cases e <;> simp [State.side]

end Sys2Proof.Laws
end

