-- ==== Sys2Proof/Laws/Publish.lean ====
section
/-! SUPPORT. What surrounds every command: the answer of `act`, and the publish flags a command leaves. -/

namespace Sys2Proof.Laws

open Sys2Proof.Machine

/-- A command with an effect `f` outside reset. -/
theorem act_live (f : State → State) {s : State} (h : s.inReset = false) : act f s = .next (publish s (f s)) := by
  simp [act, h]

/-- A command in reset has no effect (log 1). -/
theorem act_reset (f : State → State) {s : State} (h : s.inReset = true) : act f s = .next s := by
  simp [act, h]

/-- It always answers. -/
theorem act_answers (f : State → State) (s : State) : ∃ t, act f s = .next t := ⟨_, rfl⟩

/-- Nothing changed, nothing flagged. -/
@[simp] theorem publish_self (s : State) : publish s s = s := by
  simp [publish]

/-- Publication changes publish flags only. -/
@[simp] theorem publish_frame (pre s : State) :
    (publish pre s).left = s.left ∧ (publish pre s).right = s.right ∧ (publish pre s).time = s.time ∧
    (publish pre s).phase = s.phase ∧ (publish pre s).inReset = s.inReset ∧ (publish pre s).anchor = s.anchor ∧
    (publish pre s).lamp = s.lamp ∧ (publish pre s).cab = s.cab ∧ (publish pre s).backlight = s.backlight ∧
    (publish pre s).link = s.link ∧ (publish pre s).faults = s.faults ∧ (publish pre s).path = s.path ∧
    (publish pre s).snoop = s.snoop ∧ (publish pre s).down = s.down ∧ (publish pre s).up = s.up ∧
    (publish pre s).choice = s.choice ∧ (publish pre s).pending = s.pending ∧ (publish pre s).inj.w = s.inj.w ∧
    (publish pre s).inj.r = s.inj.r ∧ (publish pre s).inj.seq = s.inj.seq ∧
    (publish pre s).inj.serving = s.inj.serving ∧ (publish pre s).inj.inflight = s.inj.inflight ∧
    (publish pre s).inj.attn = s.inj.attn := by
  simp [publish]

@[simp] theorem side_publish (pre s : State) (d : SideId) : (publish pre s).side d = s.side d := by cases d <;> rfl

/-- The flags afterwards. -/
theorem publish_flags (pre s : State) :
    (publish pre s).inj.flagGlobal = (s.inj.flagGlobal || decide (globalNoted pre ≠ globalNoted s)) ∧
    (publish pre s).inj.flagFaults = (s.inj.flagFaults || decide (pre.faults.table ≠ s.faults.table)) ∧
    (publish pre s).inj.flagLeft = (s.inj.flagLeft || decide (sideFields .left pre ≠ sideFields .left s)) ∧
    (publish pre s).inj.flagRight = (s.inj.flagRight || decide (sideFields .right pre ≠ sideFields .right s)) :=
  ⟨rfl, rfl, rfl, rfl⟩

/-- Where no published field changes, nothing is flagged. -/
theorem publish_same {pre s : State} (hg : globalNoted pre = globalNoted s) (hf : pre.faults.table = s.faults.table)
    (hl : sideFields .left pre = sideFields .left s) (hr : sideFields .right pre = sideFields .right s) :
    publish pre s = s := by
  simp [publish, hg, hf, hl, hr]

/-- A command whose effect is none leaves the state as it was. -/
theorem act_none (f : State → State) {s : State} (h : f s = s) : act f s = .next s := by
  simp [act, h]


/-! ## The commands: each arm as its effect under `act` -/

theorem exec_writeBurstTaken (b : Burst) (s : State) :
    exec (.writeBurstTaken b) s = act (fun s => offerWrite b (settleGrants writeFree s)) s := rfl

theorem exec_writeDataBeatTaken (data : BitVec 64) (strb : BitVec 8) (s : State) :
    exec (.writeDataBeatTaken data strb) s = act (fun s => takeBeat ⟨data, strb⟩ (settleGrants beatFree s)) s := rfl

theorem exec_readBurstTaken (b : Burst) (s : State) :
    exec (.readBurstTaken b) s = act (fun s => if readFree s.path then arriveRead b s else s) s := rfl

theorem exec_settingsWrite (off : BitVec 12) (data : BitVec 64) (strb : BitVec 8) (s : State) :
    exec (.settingsWrite off data strb) s = act (snoopBeat off.toNat ⟨data, strb⟩) s := rfl

theorem exec_globalApply (value : BitVec 32) (strb : BitVec 4) (s : State) :
    exec (.globalApply value strb) s = act (snoopBeat 0x000 ⟨value.setWidth 64, strb.setWidth 8⟩) s := rfl

theorem exec_apply (d : SideId) (value : BitVec 32) (strb : BitVec 4) (s : State) :
    exec (.apply d value strb) s = act (snoopBeat (sideArea d) ⟨value.setWidth 64, strb.setWidth 8⟩) s := rfl

theorem exec_ringRead (value : BitVec 16) (strb : BitVec 2) (s : State) :
    exec (.ringRead value strb) s = act (snoopBeat 0x000 ⟨value.setWidth 64 <<< 32, strb.setWidth 8 <<< 4⟩) s := rfl

theorem exec_powerOn (arg : BitVec 16) (sq : BitVec 32) (s : State) :
    exec (.powerOn arg sq) s = act (snoopBeat 0x008 (commandBeat 1 arg sq)) s := rfl

theorem exec_powerOff (arg : BitVec 16) (sq : BitVec 32) (s : State) :
    exec (.powerOff arg sq) s = act (snoopBeat 0x008 (commandBeat 2 arg sq)) s := rfl

theorem exec_recover (arg : BitVec 16) (sq : BitVec 32) (s : State) :
    exec (.recover arg sq) s = act (snoopBeat 0x008 (commandBeat 3 arg sq)) s := rfl

theorem exec_ackFaults (arg : BitVec 16) (sq : BitVec 32) (s : State) :
    exec (.ackFaults arg sq) s = act (snoopBeat 0x008 (commandBeat 4 arg sq)) s := rfl

theorem exec_unknownCommand (code : Byte) (arg : BitVec 16) (sq : BitVec 32) (s : State) :
    exec (.unknownCommand code arg sq) s = act (snoopBeat 0x008 (commandBeat code arg sq)) s := rfl

theorem exec_mailboxSubmission (slot : Fin 6) (tag : Byte) (s : State) :
    exec (.mailboxSubmission slot tag) s = act (snoopBeat (tagOff slot.val) ⟨tag.setWidth 64, 1⟩) s := rfl

theorem exec_heldLine0WriteTaken (s : State) :
    exec .heldLine0WriteTaken s = act (fun s => if heldWriteDue s then heldWriteOp (grantNow s) else s) s := rfl

theorem exec_heldFrameStartTaken (s : State) :
    exec .heldFrameStartTaken s = act (fun s => if heldReadDue s then heldReadOp s else s) s := rfl

theorem exec_downstreamWriteGrant (s : State) :
    exec .downstreamWriteGrant s = act grantWaiting s := rfl

theorem exec_downstreamWriteResponse (id : BitVec 8) (r : Resp) (s : State) :
    exec (.downstreamWriteResponse id r) s = act (writeResponseOp id r) s := rfl

theorem exec_downstreamReadData (id : BitVec 8) (data : BitVec 64) (r : Resp) (s : State) :
    exec (.downstreamReadData id data r) s = act (readDataOp id data r) s := rfl

theorem exec_frameMissing (d : SideId) (s : State) :
    exec (.frameMissing d) s = act (fun s => if frameDue d s then frameExpiry (releaseDeferred d) d s else s) s := rfl

theorem exec_displayIdle (d : SideId) (s : State) :
    exec (.displayIdle d) s = act (fun s => if displayDue d s then displayExpiry d s else s) s := rfl

theorem exec_stabilizationExpiry (d : SideId) (s : State) :
    exec (.stabilizationExpiry d) s = act (fun s => if stabDue d s then enterProbing d s else s) s := rfl

theorem exec_offDwellExpiry (d : SideId) (s : State) :
    exec (.offDwellExpiry d) s = act (fun s => if dwellDue d s then dwellEnd d s else s) s := rfl

theorem exec_raiseStepExpiry (d : SideId) (s : State) :
    exec (.raiseStepExpiry d) s = act (fun s => if raiseDue d s then raiseStep d s else s) s := rfl

theorem exec_lowerStepExpiry (d : SideId) (s : State) :
    exec (.lowerStepExpiry d) s = act (fun s => if lowerDue d s then seqRelease d s else s) s := rfl

theorem exec_lampMeasurementExpiry (s : State) :
    exec .lampMeasurementExpiry s = act (fun s => if lampDue s then lampTake s else s) s := rfl

theorem exec_rampTick (s : State) :
    exec .rampTick s = act (fun s => if rampDue s then rampTickOp s else s) s := rfl

theorem exec_pwmPeriodStart (s : State) :
    exec .pwmPeriodStart s = act (fun s => if periodDue s then periodStartOp s else s) s := rfl

theorem exec_requestSent (s : State) :
    exec .requestSent s = act (fun s => if sentDue s then sentOp s else s) s := rfl

theorem exec_cancelledCharacterEnd (s : State) :
    exec .cancelledCharacterEnd s = act (fun s => if cutDue s then enterGuard s else s) s := rfl

theorem exec_responseReceived (c : RxChar) (s : State) :
    exec (.responseReceived c) s = act (fun s => if characterDue s && s.link.chars.length == 3 then responseOp c s else s) s := rfl

theorem exec_noAnswer (s : State) :
    exec .noAnswer s = act (fun s => if silenceDue s then silenceOp s else s) s := rfl

theorem exec_guardEnd (s : State) :
    exec .guardEnd s = act (fun s => if guardDue s then startNext s else s) s := rfl

theorem exec_ringRecordIssue (s : State) :
    exec .ringRecordIssue s = act (fun s => if recordDue s then issueRing (grantNow s) else s) s := rfl

theorem exec_sectionIssue (s : State) :
    exec .sectionIssue s = act (fun s => if sectionDue s then issueSection (grantNow s) else s) s := rfl

theorem exec_ringRecordResponse (r : Resp) (s : State) :
    exec (.ringRecordResponse r) s = act (ringResponseOp r) s := rfl

theorem exec_sectionResponse (r : Resp) (s : State) :
    exec (.sectionResponse r) s = act (pageResponseOp r) s := rfl

theorem exec_startEdge (low : Bool) (s : State) :
    exec (.startEdge low) s = act (startEdgeOp low) s := rfl

theorem exec_responseCharacterComplete (c : RxChar) (s : State) :
    exec (.responseCharacterComplete c) s = act (fun s => if characterDue s && decide (s.link.chars.length < 3) then characterOp c s else s) s := rfl

theorem exec_pwmHighTimeEnd (d : SideId) (s : State) :
    exec (.pwmHighTimeEnd d) s = act (fun s => if highEndDue d s then highEndOp d s else s) s := rfl

/-- Every command but the three of the pins is an effect under `act`. -/
theorem exec_is_act (c : Instr) (s : State) (h1 : ∀ level, c ≠ .lampsLevelChange level) (h2 : c ≠ .resetAssertion)
    (h3 : ∀ a, c ≠ .resetRelease a) : ∃ f, exec c s = act f s := by
  cases c
  case lampsLevelChange l => exact absurd rfl (h1 l)
  case resetAssertion => exact absurd rfl h2
  case resetRelease a => exact absurd rfl (h3 a)
  case writeBurstTaken => exact ⟨_, exec_writeBurstTaken _ s⟩
  case writeDataBeatTaken => exact ⟨_, exec_writeDataBeatTaken _ _ s⟩
  case readBurstTaken => exact ⟨_, exec_readBurstTaken _ s⟩
  case settingsWrite => exact ⟨_, exec_settingsWrite _ _ _ s⟩
  case globalApply => exact ⟨_, exec_globalApply _ _ s⟩
  case apply => exact ⟨_, exec_apply _ _ _ s⟩
  case ringRead => exact ⟨_, exec_ringRead _ _ s⟩
  case powerOn => exact ⟨_, exec_powerOn _ _ s⟩
  case powerOff => exact ⟨_, exec_powerOff _ _ s⟩
  case recover => exact ⟨_, exec_recover _ _ s⟩
  case ackFaults => exact ⟨_, exec_ackFaults _ _ s⟩
  case unknownCommand => exact ⟨_, exec_unknownCommand _ _ _ s⟩
  case mailboxSubmission => exact ⟨_, exec_mailboxSubmission _ _ s⟩
  case heldLine0WriteTaken => exact ⟨_, exec_heldLine0WriteTaken s⟩
  case heldFrameStartTaken => exact ⟨_, exec_heldFrameStartTaken s⟩
  case downstreamWriteGrant => exact ⟨_, exec_downstreamWriteGrant s⟩
  case downstreamWriteResponse => exact ⟨_, exec_downstreamWriteResponse _ _ s⟩
  case downstreamReadData => exact ⟨_, exec_downstreamReadData _ _ _ s⟩
  case frameMissing => exact ⟨_, exec_frameMissing _ s⟩
  case displayIdle => exact ⟨_, exec_displayIdle _ s⟩
  case stabilizationExpiry => exact ⟨_, exec_stabilizationExpiry _ s⟩
  case offDwellExpiry => exact ⟨_, exec_offDwellExpiry _ s⟩
  case raiseStepExpiry => exact ⟨_, exec_raiseStepExpiry _ s⟩
  case lowerStepExpiry => exact ⟨_, exec_lowerStepExpiry _ s⟩
  case lampMeasurementExpiry => exact ⟨_, exec_lampMeasurementExpiry s⟩
  case rampTick => exact ⟨_, exec_rampTick s⟩
  case pwmPeriodStart => exact ⟨_, exec_pwmPeriodStart s⟩
  case requestSent => exact ⟨_, exec_requestSent s⟩
  case cancelledCharacterEnd => exact ⟨_, exec_cancelledCharacterEnd s⟩
  case responseReceived => exact ⟨_, exec_responseReceived _ s⟩
  case noAnswer => exact ⟨_, exec_noAnswer s⟩
  case guardEnd => exact ⟨_, exec_guardEnd s⟩
  case ringRecordIssue => exact ⟨_, exec_ringRecordIssue s⟩
  case sectionIssue => exact ⟨_, exec_sectionIssue s⟩
  case ringRecordResponse => exact ⟨_, exec_ringRecordResponse _ s⟩
  case sectionResponse => exact ⟨_, exec_sectionResponse _ s⟩
  case startEdge => exact ⟨_, exec_startEdge _ s⟩
  case responseCharacterComplete => exact ⟨_, exec_responseCharacterComplete _ s⟩
  case pwmHighTimeEnd => exact ⟨_, exec_pwmHighTimeEnd _ s⟩

end Sys2Proof.Laws
end

