-- ==== Sys2Proof/Laws/Grants.lean ====
section
/-! SUPPORT. The downstream write arbiter (R180): what a grant can touch, that after one none is made at once, and what is
granted before a burst or a beat. -/

namespace Sys2Proof.Laws

open Sys2Proof.Machine

/-- A pass-through write granted sends downstream and moves in the memory path only. -/
@[simp] theorem grantPass_frame (s : State) :
    (grantPass s).left = s.left ∧ (grantPass s).right = s.right ∧ (grantPass s).time = s.time ∧
    (grantPass s).phase = s.phase ∧ (grantPass s).inReset = s.inReset ∧ (grantPass s).anchor = s.anchor ∧
    (grantPass s).lamp = s.lamp ∧ (grantPass s).cab = s.cab ∧ (grantPass s).backlight = s.backlight ∧
    (grantPass s).link = s.link ∧ (grantPass s).faults = s.faults ∧ (grantPass s).inj = s.inj ∧
    (grantPass s).snoop = s.snoop ∧ (grantPass s).up = s.up ∧ (grantPass s).choice = s.choice ∧
    (grantPass s).pending = s.pending ∧ (grantPass s).path.heldWrite = s.path.heldWrite ∧
    (grantPass s).path.heldRead = s.path.heldRead ∧ (grantPass s).path.reads = s.path.reads ∧
    (grantPass s).path.waitCount = s.path.waitCount := by
  unfold grantPass
  split
  · split <;> simp [sendDown, updPath, updCurEntry]
  · simp

/-- An injected burst granted sends downstream, and moves in the memory path and the injector's burst only. -/
@[simp] theorem grantInjected_frame (s : State) :
    (grantInjected s).left = s.left ∧ (grantInjected s).right = s.right ∧ (grantInjected s).time = s.time ∧
    (grantInjected s).phase = s.phase ∧ (grantInjected s).inReset = s.inReset ∧
    (grantInjected s).anchor = s.anchor ∧ (grantInjected s).lamp = s.lamp ∧ (grantInjected s).cab = s.cab ∧
    (grantInjected s).backlight = s.backlight ∧ (grantInjected s).link = s.link ∧
    (grantInjected s).faults = s.faults ∧ (grantInjected s).snoop = s.snoop ∧ (grantInjected s).up = s.up ∧
    (grantInjected s).choice = s.choice ∧ (grantInjected s).pending = s.pending ∧
    (grantInjected s).inj.w = s.inj.w ∧ (grantInjected s).inj.r = s.inj.r ∧ (grantInjected s).inj.seq = s.inj.seq ∧
    (grantInjected s).inj.serving = s.inj.serving ∧ (grantInjected s).inj.attn = s.inj.attn ∧
    (grantInjected s).inj.flagGlobal = s.inj.flagGlobal ∧ (grantInjected s).inj.flagFaults = s.inj.flagFaults ∧
    (grantInjected s).inj.flagLeft = s.inj.flagLeft ∧ (grantInjected s).inj.flagRight = s.inj.flagRight ∧
    (grantInjected s).path.cur = s.path.cur ∧ (grantInjected s).path.heldWrite = s.path.heldWrite ∧
    (grantInjected s).path.heldRead = s.path.heldRead ∧ (grantInjected s).path.reads = s.path.reads ∧
    (grantInjected s).path.writes = s.path.writes := by
  unfold grantInjected
  split <;> simp [sendDown, updPath, updInj]

/-- What a grant leaves as it was: all but the downstream port, the burst that holds the write channel, the write order
lists, the arbiter and the injector's burst. -/
abbrev GrantFrame (s t : State) : Prop :=
  t.left = s.left ∧ t.right = s.right ∧ t.time = s.time ∧ t.phase = s.phase ∧ t.inReset = s.inReset ∧
  t.anchor = s.anchor ∧ t.lamp = s.lamp ∧ t.cab = s.cab ∧ t.backlight = s.backlight ∧ t.link = s.link ∧
  t.faults = s.faults ∧ t.snoop = s.snoop ∧ t.up = s.up ∧ t.choice = s.choice ∧ t.pending = s.pending ∧
  t.inj.w = s.inj.w ∧ t.inj.r = s.inj.r ∧ t.inj.seq = s.inj.seq ∧ t.inj.serving = s.inj.serving ∧
  t.inj.attn = s.inj.attn ∧ t.inj.flagGlobal = s.inj.flagGlobal ∧ t.inj.flagFaults = s.inj.flagFaults ∧
  t.inj.flagLeft = s.inj.flagLeft ∧ t.inj.flagRight = s.inj.flagRight ∧ t.path.heldWrite = s.path.heldWrite ∧
  t.path.heldRead = s.path.heldRead ∧ t.path.reads = s.path.reads

@[simp] theorem grantOp_frame (s : State) : GrantFrame s (grantOp s) := by
  unfold grantOp GrantFrame
  split
  · split
    · split <;> simp [updPath]
    · simp
  · simp

@[simp] theorem grantNow_frame (s : State) : GrantFrame s (grantNow s) := by
  unfold grantNow GrantFrame
  split <;> simp

@[simp] theorem grantWaiting_frame (s : State) : GrantFrame s (grantWaiting s) := by
  unfold grantWaiting GrantFrame
  split <;> simp

@[simp] theorem passGranted_frame (s : State) : GrantFrame s (passGranted s) := by
  unfold passGranted GrantFrame
  simp only []
  split
  · split <;> simp
  · simp

@[simp] theorem settleGrants_frame (ready : Path → Bool) (s : State) : GrantFrame s (settleGrants ready s) := by
  unfold settleGrants GrantFrame
  simp only []
  split <;> simp

/-- The sides stay. -/
theorem GrantFrame.side {s t : State} (h : GrantFrame s t) (d : SideId) : t.side d = s.side d := by
  cases d <;> simp [State.side, h]

@[simp] theorem side_grantOp (s : State) (d : SideId) : (grantOp s).side d = s.side d :=
  GrantFrame.side (grantOp_frame s) d

@[simp] theorem side_grantNow (s : State) (d : SideId) : (grantNow s).side d = s.side d :=
  GrantFrame.side (grantNow_frame s) d

@[simp] theorem side_grantWaiting (s : State) (d : SideId) : (grantWaiting s).side d = s.side d :=
  GrantFrame.side (grantWaiting_frame s) d

@[simp] theorem side_settleGrants (ready : Path → Bool) (s : State) (d : SideId) :
    (settleGrants ready s).side d = s.side d :=
  GrantFrame.side (settleGrants_frame ready s) d

/-! ## The end of a burst that is still being sent -/

/-- The response to the injected burst ends its flight and its hold on the channels, and touches no more (R162, R180). -/
theorem endInjected_eq (s : State) :
    endInjected s =
      { s with
        inj := { s.inj with inflight := none }
        path := { s.path with tail := if s.path.tail = some .injector then none else s.path.tail } } := by
  by_cases h : s.path.tail = some .injector <;> simp [endInjected, updInj, endTail, h] 

/-- A write response of an ID ends that ID's hold on the channels where no burst of the ID awaits one any more, and touches
no more (R180). -/
theorem sentWhole_eq (id : BitVec 8) (s : State) :
    sentWhole id s =
      { s with
        path :=
          { s.path with
            tail :=
              if s.path.tail = some (.upstream id) ∧ writeTarget id s.path.writes = none then none
              else s.path.tail } } := by
  unfold sentWhole endTail
  split <;> simp

/-! ## When a grant is due -/

/-- While a pass-through write waits no burst whose beats are still to be taken holds the channels: a grant is due. -/
theorem grantDue_of_passWaits {s : State} (h : passWaits s.path = true) : grantDue s = true := by
  have hc : channelsHeld s.path = false := by
    unfold passWaits at h
    unfold channelsHeld
    split at h
    · simp only [Bool.and_eq_true, Bool.not_eq_true'] at h
      exact h.1
    · cases h
  simp [grantDue, hc, h]

/-- With none made at once, none is made. -/
theorem grantNow_idle {s : State} (h : grantAtOnce s = false) : grantNow s = s := by simp [grantNow, h]

/-- With none due, none is made at once. -/
theorem grantAtOnce_of_not_due {s : State} (h : grantDue s = false) : grantAtOnce s = false := by simp [grantAtOnce, h]

/-- Where one is made at once, it is the grant that is due. -/
theorem grantNow_eq {s : State} (h : grantAtOnce s = true) : grantNow s = grantWaiting s := by
  have hd : grantDue s = true := by
    unfold grantAtOnce at h
    exact (Bool.and_eq_true _ _ ▸ h).1
  simp [grantNow, grantWaiting, h, hd]

/-- With no pass-through write waiting, none has to be granted. -/
theorem passGranted_idle {s : State} (h : passWaits s.path = false) : passGranted s = s := by simp [passGranted, h]

/-- With none made at once and no pass-through write waiting, none is made before a burst or beat. -/
theorem settleGrants_idle {ready : Path → Bool} {s : State} (h : grantAtOnce s = false)
    (hp : passWaits s.path = false ∨ ready s.path = true) : settleGrants ready s = s := by
  unfold settleGrants
  rw [grantNow_idle h]
  rcases hp with hp | hp
  · simp [passGranted_idle hp]
  · simp [hp]

/-- A pass-through write that waits for its grant waits no more after it. -/
theorem passWaits_grantPass {s : State} : passWaits (grantPass s).path = false := by
  unfold grantPass
  split
  · split
    · simp [sendDown, updPath, passWaits]
    · rename_i c hc _ hr
      simp [passWaits, hc, hr]
    · simp [sendDown, updPath, updCurEntry, passWaits]
  · rename_i hc
    simp [passWaits, hc]

/-- Neither is a grant made at once behind it. -/
theorem grantAtOnce_grantPass {s : State} (h : passWaits s.path = true) : grantAtOnce (grantPass s) = false := by
  unfold passWaits at h
  unfold grantPass
  split
  · rename_i c hc
    simp only [hc] at h
    split
    · simp [sendDown, updPath, grantAtOnce, grantDue, channelsHeld]
    · rename_i hr
      simp [hr] at h
    · simp [sendDown, updPath, updCurEntry, grantAtOnce]
  · rename_i hc
    simp [hc] at h

/-- An injected burst that waits holds the channels after its grant. -/
theorem grantAtOnce_grantInjected {s : State} (h : injectedWaits s.inj = true) :
    grantAtOnce (grantInjected s) = false := by
  unfold injectedWaits at h
  unfold grantInjected
  split
  · simp [sendDown, updPath, updInj, grantAtOnce]
  · rename_i hb
    simp [hb] at h

/-- After a grant none is made at once: a burst holds the channels. -/
theorem grantAtOnce_grantOp {s : State} (h : grantDue s = true) : grantAtOnce (grantOp s) = false := by
  unfold grantDue at h
  simp only [Bool.and_eq_true, Bool.or_eq_true] at h
  unfold grantOp
  split
  · rename_i hp
    split
    · rename_i hi
      split
      · exact grantAtOnce_grantPass (by simpa [updPath, passWaits] using hp)
      · exact grantAtOnce_grantInjected hi
    · exact grantAtOnce_grantPass hp
  · rename_i hp
    exact grantAtOnce_grantInjected (by simpa [hp] using h.2)

/-- After a grant none is made at once. -/
theorem grantAtOnce_grantWaiting (s : State) : grantAtOnce (grantWaiting s) = false := by
  unfold grantWaiting
  by_cases h : grantDue s = true
  · rw [if_pos h]; exact grantAtOnce_grantOp h
  · rw [if_neg h]; exact grantAtOnce_of_not_due (by simpa using h)

/-- After the grants made at once none is left. -/
theorem grantAtOnce_grantNow (s : State) : grantAtOnce (grantNow s) = false := by
  by_cases h : grantAtOnce s = true
  · rw [grantNow_eq h]; exact grantAtOnce_grantWaiting s
  · rw [grantNow_idle (by simpa using h)]; simpa using h

/-- What comes after a grant made at once is what comes without it: it is made first in any case (R180). -/
theorem settleGrants_grantNow (ready : Path → Bool) (s : State) :
    settleGrants ready (grantNow s) = settleGrants ready s := by
  unfold settleGrants
  rw [grantNow_idle (grantAtOnce_grantNow s)]

/-- A waiting write that waits behind the injected burst: after one more grant it does not. -/
theorem passWaits_passGranted (s : State) : passWaits (passGranted s).path = false := by
  have hi : ∀ t : State, injectedWaits (grantInjected t).inj = false := by
    intro t
    unfold grantInjected
    split
    · simp [sendDown, updPath, updInj, injectedWaits]
    · rename_i e
      simp [injectedWaits, e]
  have hp : ∀ t : State, injectedWaits t.inj = false → passWaits t.path = true → grantOp t = grantPass t := by
    intro t h1 h2
    simp [grantOp, h1, h2]
  unfold passGranted
  by_cases h : passWaits s.path = true
  · rw [if_pos h]
    simp only []
    by_cases h2 : passWaits (grantOp s).path = true
    · rw [if_pos h2]
      have hg : injectedWaits (grantOp s).inj = false := by
        unfold grantOp at h2 ⊢
        rw [if_pos h] at h2 ⊢
        split at h2
        · rename_i h3
          rw [if_pos h3]
          split at h2
          · rw [passWaits_grantPass] at h2; cases h2
          · rename_i h4
            rw [if_neg h4]; exact hi s
        · rw [passWaits_grantPass] at h2; cases h2
      rw [hp _ hg h2]
      exact passWaits_grantPass
    · rw [if_neg h2]; simpa using h2
  · rw [if_neg h]; simpa using h

/-! ## In the statements' words -/

/-- A write that waits for the arbiter. -/
theorem passWaits_of_cur {s : State} {c : CurWrite} (h : s.path.cur = some c) :
    passWaits s.path = true ↔ Safety.passWaiting c := by
  unfold passWaits Safety.passWaiting
  rw [h]
  cases hg : c.granted <;> cases hr : c.route <;> simp [hg, hr]

/-- None waits. -/
theorem passWaits_iff (s : State) : passWaits s.path = false ↔ ∀ c, s.path.cur = some c → ¬Safety.passWaiting c := by
  constructor
  · intro h c hc hw
    rw [(passWaits_of_cur hc).2 hw] at h; cases h
  · intro h
    cases hc : s.path.cur with
    | none => simp [passWaits, hc]
    | some c => exact Bool.eq_false_iff.2 fun hw => h c hc ((passWaits_of_cur hc).1 hw)

/-- That no grant is due. -/
theorem noGrantDue_iff (s : State) : Safety.noGrantDue s ↔ grantDue s = false := by
  have hi : injectedWaits s.inj = false ↔ ∀ b, s.inj.inflight = some b → b.granted = true := by
    unfold injectedWaits
    cases s.inj.inflight <;> simp
  have hh : channelsHeld s.path = true ↔ ∃ c, s.path.cur = some c ∧ c.granted = true := by
    unfold channelsHeld
    cases s.path.cur <;> simp
  unfold Safety.noGrantDue grantDue
  rw [← passWaits_iff, ← hh, ← hi]
  cases channelsHeld s.path <;> cases passWaits s.path <;> cases injectedWaits s.inj <;> simp

/-- That none is made at once. -/
theorem noGrantAtOnce_iff (s : State) : Safety.noGrantAtOnce s ↔ grantAtOnce s = false := by
  unfold Safety.noGrantAtOnce grantAtOnce
  rw [noGrantDue_iff]
  cases grantDue s <;> cases s.path.tail <;> simp

/-- With no grant before a burst or beat, none is made. -/
theorem settleGrants_of_noGrantFirst {ready : Path → Bool} {s : State} (h : Safety.noGrantFirst s) :
    settleGrants ready s = s :=
  settleGrants_idle ((noGrantAtOnce_iff s).1 h.1) (Or.inl ((passWaits_iff s).2 h.2))

/-! ## Publication -/

/-- No published field is a grant's. -/
theorem GrantFrame.fields {s t : State} (h : GrantFrame s t) :
    globalNoted t = globalNoted s ∧ sideFields .left t = sideFields .left s ∧
    sideFields .right t = sideFields .right s := by
  have hs : ∀ d, t.side d = s.side d := h.side
  have hp : ∀ d, pinLevel t d = pinLevel s d := fun d => by funext k; simp [pinLevel, hs, h]
  refine ⟨?_, ?_, ?_⟩ <;> simp [globalNoted, sideFields, hp, hs, State.pathFailing, isActive, State.faultRec, h]

/-- A grant flags nothing. -/
theorem GrantFrame.publish_self {s t : State} (h : GrantFrame s t) : publish s t = t := by
  refine publish_same h.fields.1.symm ?_ h.fields.2.1.symm h.fields.2.2.symm
  simp [h]

/-- What a command changes after a grant is published as without it. -/
theorem GrantFrame.publish {s t : State} (h : GrantFrame s t) (u : State) :
    Machine.publish t u = Machine.publish s u := by
  have hf : t.faults = s.faults := by simp [h]
  unfold Machine.publish
  rw [h.fields.1, h.fields.2.1, h.fields.2.2, hf]

end Sys2Proof.Laws
end

