-- ==== Sys2Proof/Laws/Addresses.lean ====
section
/-! SUPPORT. The memory path's tests in the words of Safety.lean: when an address can be taken, which line it starts,
when a line-0 write is held, which buffer is SHOWN, and what a beat shows outside its lanes. -/

namespace Sys2Proof.Laws

open Sys2Proof Sys2Proof.Machine Sys2Proof.Safety

/-- What moves on the ports and in the memory path flags nothing. -/
theorem publish_path (s : State) (p : Path) (dn : List DownMsg) (u : List UpMsg) :
    publish s { s with path := p, down := dn, up := u } = { s with path := p, down := dn, up := u } := by
  apply publish_same <;> rfl

/-- Out of reset a meaning answers its effect, published. -/
theorem act_next (f : State → State) {s t : State} (h : s.inReset = false) (e : publish s (f s) = t) :
    act f s = .next t := by rw [act_live _ h, e]

/-- A write address can be taken (R171). -/
theorem writeFree_iff (s : State) : writeFree s.path = true ↔ writeOpen s := by
  unfold writeFree writeOpen
  simp [and_assoc]

/-- A read address can be taken (R171). -/
theorem readFree_iff (s : State) : readFree s.path = true ↔ readOpen s := by
  unfold readFree readOpen
  simp

/-- A write burst that can be taken, with no grant made at once, arrives. -/
theorem exec_writeBurstTaken_open (b : Burst) (s : State) (hng : noGrantAtOnce s) (h : writeOpen s)
    (hr : s.inReset = false) : exec (.writeBurstTaken b) s = .next (publish s (arriveWrite b s)) := by
  rw [exec_writeBurstTaken]
  apply act_next _ hr
  rw [settleGrants_idle ((noGrantAtOnce_iff s).1 hng) (Or.inr ((writeFree_iff s).mpr h))]
  unfold offerWrite
  rw [if_pos ((writeFree_iff s).mpr h)]

/-- The line a write inside the frame area starts (R4). -/
theorem lineStart_iff {c : CaptureCfg} {off : Nat} (h : off < c.area) (l : Nat) :
    lineStart c off = some l ↔ startsLine c off l := by
  unfold lineStart startsLine
  have : off / c.pitch < c.height := Nat.div_lt_of_lt_mul h
  by_cases hm : off % c.pitch = 0 ∨ off % c.pitch = 1
  · rw [if_pos ⟨hm, this⟩]; simp [hm]
  · rw [if_neg (fun h => hm h.1)]; simp [hm]

/-- It starts none. -/
theorem lineStart_none_iff {c : CaptureCfg} {off : Nat} (h : off < c.area) :
    lineStart c off = none ↔ ∀ l, ¬startsLine c off l := by
  constructor
  · intro e l hl; rw [← lineStart_iff h] at hl; rw [hl] at e; cases e
  · intro hl
    cases e : lineStart c off with
    | none => rfl
    | some l => exact absurd ((lineStart_iff h l).mp e) (hl l)

/-- No buffer is SHOWN. -/
theorem shownBuf_isNone_iff (t : Table Buf 3) :
    (shownBuf t).isNone = true ↔ ∀ n < 3, isShown (t.get n .free) = false := by
  unfold shownBuf
  rw [Option.isNone_iff_eq_none, List.findSome?_eq_none_iff]
  constructor
  · intro h n hn
    have := h n (List.mem_range.mpr hn)
    cases e : t.get n .free <;> rw [e] at this <;> simp at this <;> rfl
  · intro h n hn
    have := h n (List.mem_range.mp hn)
    cases e : t.get n .free <;> rw [e] at this
    all_goals first | rfl | (exfalso; unfold isShown Buf.code at this; cases this)

/-- The first SHOWN buffer, with its frame. -/
theorem shownBuf_eq_some {t : Table Buf 3} {n : Nat} (hn : n < 3) (h : isShown (t.get n .free) = true) 
    (hl : ∀ m < n, isShown (t.get m .free) = false) : ∃ f, t.get n .free = .shown f ∧ shownBuf t = some (n, f) := by
  cases e : t.get n .free with
  | shown f =>
    refine ⟨f, rfl, ?_⟩
    unfold shownBuf
    have r : List.range 3 = [0, 1, 2] := rfl
    rw [r]
    simp only [List.findSome?]
    interval_cases n
    · rw [e]
    · have h0 := hl 0 (by omega)
      cases e0 : t.get 0 .free <;> simp [e0, isShown, Buf.code] at h0 ⊢ <;> simp [e]
    · have h0 := hl 0 (by omega)
      have h1 := hl 1 (by omega)
      cases e0 : t.get 0 .free <;> simp [e0, isShown, Buf.code] at h0 ⊢ <;> cases e1 : t.get 1 .free <;>
        simp [e1, isShown, Buf.code] at h1 ⊢ <;> simp [e]
  | free => rw [e] at h; revert h; simp [isShown, Buf.code]
  | filling => rw [e] at h; revert h; simp [isShown, Buf.code]
  | ready f => rw [e] at h; revert h; simp [isShown, Buf.code]

/-- A line-0 write is held (R6, R13, R25). -/
theorem line0Held_iff (d : SideId) (off : Nat) (s : State) :
    line0Held d off s = true ↔
      (s.side d).inService = true ∧ off < (s.side d).cfg.cap.area ∧ startsLine (s.side d).cfg.cap off 0 ∧
        line0Waits (s.side d) := by
  unfold line0Held line0Waits
  simp only [Bool.and_eq_true, decide_eq_true_eq, beq_iff_eq]
  constructor
  · rintro ⟨⟨⟨h1, h2⟩, h3⟩, h4⟩
    refine ⟨h1, h3, (lineStart_iff h3 0).mp h2, ?_⟩
    cases e : (s.side d).cap.fip with
    | some f => rw [e] at h4; exact Or.inl ⟨f, rfl, h4⟩
    | none =>
      rw [e] at h4; simp only [Bool.and_eq_true, decide_eq_true_eq] at h4
      exact Or.inr ⟨rfl, (shownBuf_isNone_iff _).mp h4.1, h4.2⟩
  · rintro ⟨h1, h3, h2, h4⟩
    refine ⟨⟨⟨h1, (lineStart_iff h3 0).mpr h2⟩, h3⟩, ?_⟩
    rcases h4 with ⟨f, e, h⟩ | ⟨e, h, h5⟩
    · rw [e]; exact h
    · rw [e]; simp only [Bool.and_eq_true, decide_eq_true_eq]; exact ⟨(shownBuf_isNone_iff _).mpr h, h5⟩

/-- A write burst in a capture window: held, or handled (R8). -/
theorem arriveWrite_capture {b : Burst} {s : State} {d off} (h : decodeBurst b s = .capture d off) :
    arriveWrite b s =
      if line0Held d off s then updPath (fun p => { p with heldWrite := some (d, b) }) s
      else captureWrite (handleWrite takeAbsorbed) d off b s := by
  show handleWrite _ b s = _
  unfold handleWrite; rw [h]

/-- The two error responses. -/
theorem isError_iff (r : Resp) : r.isError = true ↔ (r = .slverr ∨ r = .decerr) := by
  cases r <;> simp [Resp.isError]

/-- The first element that passes a test, after ones that do not. -/
theorem findIdx_append {α : Type} (p : α → Bool) (pre : List α) (e : α) (post : List α)
    (h1 : ∀ x ∈ pre, p x = false) (h2 : p e = true) : (pre ++ e :: post).findIdx? p = some pre.length := by
  induction pre with
  | nil => simp [List.findIdx?_cons, h2]
  | cons x xs ih =>
    rw [List.cons_append, List.findIdx?_cons, h1 x (by simp)]
    simp [ih (fun y hy => h1 y (by simp [hy]))]

/-- A beat outside its lanes counts as unstrobed (R172). -/
theorem maskBeat_spec (b : Burst) (n : Nat) (bt : Beat) :
    ∀ k < 8, (maskBeat b n bt).byte k = bt.byte k ∧ (maskBeat b n bt).strobed k = (bt.strobed k && inLane b n k) := by
  intro k hk
  unfold maskBeat
  rw [byte_ofLanes (by simp), strobed_ofLanes _ hk]
  simp [hk]

end Sys2Proof.Laws
end

