-- ==== Sys2Proof/Laws/Link.lean ====
section
/-! SUPPORT. The link controller: when each of its events is due, the start of an attempt, and the places of entries. -/

namespace Sys2Proof.Laws

open Sys2Proof.Machine Sys2Proof.Safety

theorem listening_iff (k : Link) :
    k.line.listening = true ↔ (k.line = .awaiting ∨ k.line = .receiving ∨ k.line = .draining) := by
  cases h : k.line <;> simp [LineState.listening]

theorem isPart_iff (e : LinkEntry) : e.isPart = true ↔ (e.kind = .probe ∨ e.kind = .exposure) := by
  unfold LinkEntry.isPart; cases h : e.kind <;> simp

/-! ## When events are due -/

theorem sentDue_iff (s : State) : sentDue s = true ↔
    s.link.line = .sending ∧ s.link.cutAt = none ∧
      6 * (11 * (16 * (s.link.divisor + 1))) ≤ s.refSince s.link.txStart := by
  simp only [sentDue, Bool.and_eq_true, decide_eq_true_eq, beq_iff_eq, Option.isNone_iff_eq_none, and_assoc]
  simp only [charRef, bitRef]

theorem cutDue_iff (s : State) : cutDue s = true ↔
    s.link.line = .sending ∧ ∃ t, s.link.cutAt = some t ∧ t ≤ s.refSince s.link.txStart := by
  unfold cutDue
  cases s.link.cutAt <;> simp

theorem guardDue_iff (s : State) : guardDue s = true ↔
    s.link.line = .guard ∧ 2 * (11 * (16 * (s.link.divisor + 1))) ≤ s.refSince s.link.guardStart := by
  simp only [guardDue, Bool.and_eq_true, decide_eq_true_eq, beq_iff_eq]
  simp only [charRef, bitRef]

theorem silenceDue_iff (s : State) : silenceDue s = true ↔
    (s.link.line = .awaiting ∨ s.link.line = .receiving ∨ s.link.line = .draining) ∧
      ∃ t, s.link.silence = some t ∧ s.link.timeout * (11 * (16 * (s.link.divisor + 1))) ≤ s.refSince t := by
  unfold silenceDue
  cases s.link.silence <;> simp [listening_iff] <;> simp only [charRef, bitRef]
  exact fun _ => trivial

theorem characterDue_iff (s : State) : characterDue s = true ↔
    (s.link.line = .awaiting ∨ s.link.line = .receiving ∨ s.link.line = .draining) ∧
      ∃ t, s.link.receiving = some t ∧
        10 * (16 * (s.link.divisor + 1)) + 16 * (s.link.divisor + 1) / 2 ≤ s.refSince t := by
  unfold characterDue
  cases s.link.receiving <;> simp [listening_iff] <;> simp only [bitRef]
  exact fun _ => trivial

/-! ## Attempts -/

/-- An attempt begins (R136, R139). -/
theorem beginAttempt_eq (e : LinkEntry) (s : State) :
    beginAttempt e s =
      { s with link := beginning s.snoop.cfg (s.side e.side).cfg.head.camAddr s.refNow e s.link } := by
  have h : ∀ b : Byte, b ^^^ 0 = b := fun b => BitVec.xor_zero
  unfold beginAttempt beginning updLink requestChars requestBody hiByte loByte
  simp only [List.cons_append, List.nil_append, xorBytes, h, BitVec.xor_assoc]

theorem enterGuard_eq (s : State) : enterGuard s = { s with link := guarding s.refNow s.link } := rfl

/-- A link change that keeps the results, the depth and the in-flight kind flags nothing (R148). -/
theorem publish_link {s : State} {k : Link} (h1 : k.results = s.link.results) (h2 : linkDepth k = linkDepth s.link)
    (h3 : linkKind k = linkKind s.link) : publish s { s with link := k } = { s with link := k } := by
  apply publish_same
  · simp only [globalNoted, State.pathFailing, isActive, State.faultRec, h1, h2, h3]
  · rfl
  · rfl
  · rfl

/-! ## Judgement -/

theorem rxBad_iff (c : RxChar) : rxBad c = true ↔ (c.stop = false ∨ c.mark = true) := by
  unfold rxBad; cases c.stop <;> simp

end Sys2Proof.Laws
end

