-- ==== Sys2Proof/Laws/Due.lean ====
section
/-! SUPPORT. When each of the part's own events is due, in the words of Safety.lean: one lemma a test. Those of
the line stand in Laws/Link.lean. -/

namespace Sys2Proof.Laws

open Sys2Proof Sys2Proof.Machine Sys2Proof.Safety

/-- A watchdog or measurement is due (00, Time). -/
theorem dueAt_iff (s : State) (start : Option Time) (len : Nat) :
    dueAt s start len = true ↔ ∃ t, start = some t ∧ len ≤ (s.time - t).toNat := by
  unfold dueAt State.since
  cases start with
  | none => constructor <;> intro h <;> simp at h
  | some x => simp only [Option.some.injEq, decide_eq_true_eq, exists_eq_left']

/-- A timer has expired (00, Time). -/
theorem timerDue_iff (s : State) (timer : Option Timer) :
    timerDue s timer = true ↔ ∃ t, timer = some t ∧ t.len ≤ (s.time - t.start).toNat := by
  unfold timerDue State.since
  cases timer with
  | none => constructor <;> intro h <;> simp at h
  | some x => simp only [Option.some.injEq, decide_eq_true_eq, exists_eq_left']

/-- A ring record is due (R162). -/
theorem recordDue_iff (s : State) :
    recordDue s = true ↔
      (s.inj.serving = true ∧ s.inj.inflight = none) ∧
        (s.inj.w - s.inj.r).toNat < ringCount s.snoop.cfg.ringSize ∧ (0 < s.faults.lost ∨ s.faults.queue ≠ []) := by
  unfold recordDue injectorFree ringRoom
  simp only [Bool.and_eq_true, Bool.or_eq_true, decide_eq_true_eq, Option.isNone_iff_eq_none, Bool.not_eq_true',
    List.isEmpty_eq_false_iff]
  tauto

/-- A section is due: no record is, and a section is flagged (R162). -/
theorem sectionDue_iff (s : State) :
    sectionDue s = true ↔
      (s.inj.serving = true ∧ s.inj.inflight = none) ∧
        ¬((s.inj.w - s.inj.r).toNat < ringCount s.snoop.cfg.ringSize ∧ (0 < s.faults.lost ∨ s.faults.queue ≠ [])) ∧
        ∃ p, firstFlagged s.inj = some p := by
  unfold sectionDue
  rw [Bool.and_eq_true, Bool.and_eq_true, Bool.not_eq_true', ← Bool.not_eq_true, recordDue_iff, Option.isSome_iff_exists]
  unfold injectorFree
  simp only [Bool.and_eq_true, Option.isNone_iff_eq_none]
  constructor
  · rintro ⟨⟨h1, h2⟩, h3⟩; exact ⟨h1, fun h => h2 ⟨h1, h⟩, h3⟩
  · rintro ⟨h1, h2, h3⟩; exact ⟨⟨h1, fun h => h2 h.2⟩, h3⟩

/-- The held write address may be taken again (R13, R171). -/
theorem heldWriteOpen_iff (s : State) :
    (writeFree { s.path with heldWrite := none } && heldWriteDue s) = true ↔ heldWriteOpen s := by
  unfold heldWriteOpen writeFree heldWriteDue
  simp only [Bool.and_eq_true, Option.isNone_iff_eq_none, Option.isNone_none, decide_eq_true_eq, and_true, and_assoc]
  refine and_congr_right fun _ => and_congr_right fun _ => ?_
  cases h : s.path.heldWrite with
  | none => simp
  | some p =>
    obtain ⟨d, b⟩ := p
    simp only [Option.some.injEq, Prod.mk.injEq]
    cases hd : decodeBurst b s with
    | plain => exact ⟨fun _ => ⟨d, b, ⟨rfl, rfl⟩, by simp [hd]⟩, fun _ => rfl⟩
    | split => exact ⟨fun _ => ⟨d, b, ⟨rfl, rfl⟩, by simp [hd]⟩, fun _ => rfl⟩
    | display _ _ => exact ⟨fun _ => ⟨d, b, ⟨rfl, rfl⟩, by simp [hd]⟩, fun _ => rfl⟩
    | capture d' off =>
      simp only [Bool.not_eq_true', ← Bool.not_eq_true, line0Held_iff]
      constructor
      · intro h
        refine ⟨d, b, ⟨rfl, rfl⟩, fun d2 o2 e h1 h2 h3 h4 => ?_⟩
        rw [hd] at e
        cases e
        exact h ⟨h1, h2, h3, h4⟩
      · rintro ⟨d1, b1, ⟨rfl, rfl⟩, h⟩ ⟨h1, h2, h3, h4⟩
        exact h d' off hd h1 h2 h3 h4

/-- The held display frame start may be taken (R88). -/
theorem heldReadDue_iff (s : State) :
    heldReadDue s = true ↔ ∃ d b, s.path.heldRead = some (d, b) ∧ (s.side d).disp.outstanding = 0 := by
  unfold heldReadDue
  cases s.path.heldRead with
  | none => simp
  | some p => obtain ⟨d, b⟩ := p; simp

end Sys2Proof.Laws
end

