-- ==== Sys2Proof/Laws/FaultMoves.lean ====
section
/-! SUPPORT. The fault unit's operations read the fault unit, the time, the active levels, one frame number and what FAULT_N
follows, and write the fault unit only; so they pass over every other update. -/

namespace Sys2Proof.Laws

open Sys2Proof.Machine

/-! ## Reading -/

theorem pushReport_congr {r q : Report} {s t : State} (hr : r = q) (hf : s.faults = t.faults) :
    (pushReport r s).faults = (pushReport q t).faults := by
  subst hr
  unfold pushReport
  rw [hf]
  split <;> rfl

theorem mkReport_congr (k : FaultKind) (sc : Scope) (ty : ReportType) (det : BitVec 32) {s t : State}
    (hf : s.faults = t.faults) (ht : s.time = t.time) (hc : s.snoop.cfg = t.snoop.cfg) (hn : frameOf s sc = frameOf t sc) :
    mkReport k sc ty det s = mkReport k sc ty det t := by
  unfold mkReport kindLevel State.faultRec
  rw [hf, ht, hc, hn]

/-- What FAULT_N follows beside the fault unit: RESET_N, the sides in FAILED and the active levels (R168). -/
def pinView (s : State) : Bool × Bool × Bool × GlobalCfg :=
  (s.inReset, s.left.head.health == .failed, s.right.head.health == .failed, s.snoop.cfg)

theorem faultAsserted_congr {s t : State} (hv : pinView s = pinView t) (ht : s.faults.table = t.faults.table) :
    s.faultAsserted = t.faultAsserted := by
  simp only [pinView, Prod.mk.injEq] at hv
  obtain ⟨h1, h2, h3, h4⟩ := hv
  simp only [State.faultAsserted, State.pathFailing, isActive, State.faultRec, levelledCondition, h1, h2, h3, h4, ht]

theorem followPin_congr {p q s t : State} (hp : p.faultAsserted = q.faultAsserted)
    (hs : s.faultAsserted = t.faultAsserted) (hf : s.faults = t.faults) :
    (followPin p s).faults = (followPin q t).faults := by
  unfold followPin
  rw [hp, hs]
  split <;> simp [hf]

theorem followPin_writes (pre s : State) : followPin pre s = { s with faults := (followPin pre s).faults } := by
  unfold followPin
  split <;> rfl

@[simp] theorem pinView_setFaultRec (k : FaultKind) (sc : Scope) (r : FaultRec) (s : State) :
    pinView (setFaultRec k sc r s) = pinView s := rfl

@[simp] theorem pinView_pushReport (r : Report) (s : State) : pinView (pushReport r s) = pinView s := by
  simp [pinView]

theorem frameOf_setFaultRec (k : FaultKind) (sc sc' : Scope) (r : FaultRec) (s : State) :
    frameOf (setFaultRec k sc r s) sc' = frameOf s sc' := by cases sc' <;> rfl

theorem raiseEvent_congr (k : FaultKind) (sc : Scope) (det : BitVec 32) {s t : State} (hf : s.faults = t.faults) (ht : s.time = t.time)
    (hc : s.snoop.cfg = t.snoop.cfg) (hn : frameOf s sc = frameOf t sc) :
    (raiseEvent k sc det s).faults = (raiseEvent k sc det t).faults := by
  have h1 : s.faultRec k sc = t.faultRec k sc := by simp only [State.faultRec, hf]
  have h2 : ∀ r, (setFaultRec k sc r s).faults = (setFaultRec k sc r t).faults := fun r => by
    simp only [setFaultRec, hf]
  have h3 : ∀ r ty dt, mkReport k sc ty dt (setFaultRec k sc r s) = mkReport k sc ty dt (setFaultRec k sc r t) :=
    fun r ty dt => mkReport_congr k sc ty dt (h2 r) ht hc (by simpa [frameOf_setFaultRec] using hn)
  unfold raiseEvent
  rw [h1, ht]
  split
  · exact h2 _
  · exact pushReport_congr (h3 _ _ _) (h2 _)

theorem raiseCond_congr (k : FaultKind) (sc : Scope) (det : BitVec 32) {s t : State} (hf : s.faults = t.faults) (ht : s.time = t.time)
    (hv : pinView s = pinView t) (hn : frameOf s sc = frameOf t sc) :
    (raiseCond k sc det s).faults = (raiseCond k sc det t).faults := by
  have hc : s.snoop.cfg = t.snoop.cfg := congrArg (fun v => v.2.2.2) hv
  have h1 : s.faultRec k sc = t.faultRec k sc := by simp only [State.faultRec, hf]
  have h2 : ∀ r, (setFaultRec k sc r s).faults = (setFaultRec k sc r t).faults := fun r => by
    simp only [setFaultRec, hf]
  have h3 : ∀ r ty dt, mkReport k sc ty dt (setFaultRec k sc r s) = mkReport k sc ty dt (setFaultRec k sc r t) :=
    fun r ty dt => mkReport_congr k sc ty dt (h2 r) ht hc (by simpa [frameOf_setFaultRec] using hn)
  unfold raiseCond isActive
  rw [h1, ht]
  split
  · exact hf
  · exact followPin_congr (faultAsserted_congr hv (by rw [hf]))
      (faultAsserted_congr (by simpa using hv) (by rw [pushReport_congr (h3 _ _ _) (h2 _)]))
      (pushReport_congr (h3 _ _ _) (h2 _))

theorem clearCond_congr (k : FaultKind) (sc : Scope) {s t : State} (hf : s.faults = t.faults) (ht : s.time = t.time)
    (hv : pinView s = pinView t) (hn : frameOf s sc = frameOf t sc) :
    (clearCond k sc s).faults = (clearCond k sc t).faults := by
  have hc : s.snoop.cfg = t.snoop.cfg := congrArg (fun v => v.2.2.2) hv
  have h1 : s.faultRec k sc = t.faultRec k sc := by simp only [State.faultRec, hf]
  have h2 : ∀ r, (setFaultRec k sc r s).faults = (setFaultRec k sc r t).faults := fun r => by
    simp only [setFaultRec, hf]
  have h3 : ∀ r ty dt, mkReport k sc ty dt (setFaultRec k sc r s) = mkReport k sc ty dt (setFaultRec k sc r t) :=
    fun r ty dt => mkReport_congr k sc ty dt (h2 r) ht hc (by simpa [frameOf_setFaultRec] using hn)
  unfold clearCond isActive
  rw [h1]
  split
  · exact followPin_congr (faultAsserted_congr hv (by rw [hf]))
      (faultAsserted_congr (by simpa using hv) (by rw [pushReport_congr (h3 _ _ _) (h2 _)]))
      (pushReport_congr (h3 _ _ _) (h2 _))
  · exact hf

/-- Two states show the fault unit the same: its own state, the time, what FAULT_N follows, and a scope's frame number. -/
def SameView (sc : Scope) (s t : State) : Prop :=
  s.faults = t.faults ∧ s.time = t.time ∧ pinView s = pinView t ∧ frameOf s sc = frameOf t sc

theorem SameView.refl (sc : Scope) (s : State) : SameView sc s s := ⟨rfl, rfl, rfl, rfl⟩

theorem SameView.trans {sc : Scope} {s t u : State} (h : SameView sc s t) (h' : SameView sc t u) : SameView sc s u :=
  ⟨h.1.trans h'.1, h.2.1.trans h'.2.1, h.2.2.1.trans h'.2.2.1, h.2.2.2.trans h'.2.2.2⟩

/-- An event occurrence in both. -/
theorem SameView.raiseEvent {sc : Scope} {s t : State} (k : FaultKind) (det : BitVec 32) (h : SameView sc s t) :
    SameView sc (raiseEvent k sc det s) (raiseEvent k sc det t) := by
  obtain ⟨hf, ht, hv, hn⟩ := h
  refine ⟨raiseEvent_congr k sc det hf ht (congrArg (fun v => v.2.2.2) hv) hn, by simpa using ht, ?_, ?_⟩
  · simpa [pinView] using hv
  · cases sc with
    | global => rfl
    | left => simpa [frameOf] using hn
    | right => simpa [frameOf] using hn

/-- A raise in both. -/
theorem SameView.raiseCond {sc : Scope} {s t : State} (k : FaultKind) (det : BitVec 32) (h : SameView sc s t) :
    SameView sc (raiseCond k sc det s) (raiseCond k sc det t) := by
  obtain ⟨hf, ht, hv, hn⟩ := h
  refine ⟨raiseCond_congr k sc det hf ht hv hn, by simpa using ht, ?_, ?_⟩
  · simpa [pinView] using hv
  · cases sc with
    | global => rfl
    | left => simpa [frameOf] using hn
    | right => simpa [frameOf] using hn

/-- A clear in both. -/
theorem SameView.clearCond {sc : Scope} {s t : State} (k : FaultKind) (h : SameView sc s t) :
    SameView sc (clearCond k sc s) (clearCond k sc t) := by
  obtain ⟨hf, ht, hv, hn⟩ := h
  refine ⟨clearCond_congr k sc hf ht hv hn, by simpa using ht, ?_, ?_⟩
  · simpa [pinView] using hv
  · cases sc with
    | global => rfl
    | left => simpa [frameOf] using hn
    | right => simpa [frameOf] using hn

/-- A side changed in neither its frame number nor whether it is FAILED shows the fault unit the same. -/
theorem sameView_updSide (sc : Scope) (d : SideId) (f : Side → Side) (s : State)
    (hh : ((f (s.side d)).head.health == .failed) = ((s.side d).head.health == .failed))
    (hn : (f (s.side d)).cap.frameNumber = (s.side d).cap.frameNumber) : SameView sc (updSide d f s) s := by
  refine ⟨by simp, by simp, ?_, ?_⟩
  · cases d <;> simp only [State.side] at hh <;> simp [pinView, updSide, hh]
  · cases d <;> simp only [State.side] at hn <;> cases sc <;> simp [frameOf, updSide, hn]

/-- A record replaced leaves the others. -/
theorem faultRec_setFaultRec_other (k : FaultKind) (sc : Scope) (r : FaultRec) (s : State) {k' : FaultKind} {sc' : Scope}
    (h : recIndex k' sc' ≠ recIndex k sc) : (setFaultRec k sc r s).faultRec k' sc' = s.faultRec k' sc' := by
  simp only [State.faultRec, setFaultRec]
  rw [get_set_ne _ _ _ (Ne.symm h)]

/-! ## FAULT_N -/

theorem faultAsserted_followPin (p s : State) : (followPin p s).faultAsserted = s.faultAsserted :=
  faultAsserted_congr (by simp [pinView]) (by simp)

/-- The record of FAULT_N follows a change of its level (R168). -/
theorem edges_followPin (p s : State) :
    (followPin p s).faults.edges =
      if s.faultAsserted = p.faultAsserted then s.faults.edges else s.faults.edges ++ [s.faultAsserted] := by
  unfold followPin
  split <;> rfl

theorem edges_setFaultRec (k : FaultKind) (sc : Scope) (r : FaultRec) (s : State) :
    (setFaultRec k sc r s).faults.edges = s.faults.edges := rfl

theorem edges_pushReport (r : Report) (s : State) : (pushReport r s).faults.edges = s.faults.edges := by
  unfold pushReport
  split <;> rfl

/-- An event moves no level. -/
theorem edges_raiseEvent (k : FaultKind) (sc : Scope) (det : BitVec 32) (s : State) :
    (raiseEvent k sc det s).faults.edges = s.faults.edges := by
  unfold raiseEvent
  split
  · rfl
  · rw [edges_pushReport]
    rfl

/-- A raise records the level it changes FAULT_N to. -/
theorem edges_raiseCond (k : FaultKind) (sc : Scope) (det : BitVec 32) (s : State) :
    (raiseCond k sc det s).faults.edges =
      if (raiseCond k sc det s).faultAsserted = s.faultAsserted then s.faults.edges
      else s.faults.edges ++ [(raiseCond k sc det s).faultAsserted] := by
  unfold raiseCond
  split
  · simp
  · dsimp only
    rw [edges_followPin, faultAsserted_followPin, edges_pushReport, edges_setFaultRec]

/-- A clear records the level it changes FAULT_N to. -/
theorem edges_clearCond (k : FaultKind) (sc : Scope) (s : State) :
    (clearCond k sc s).faults.edges =
      if (clearCond k sc s).faultAsserted = s.faultAsserted then s.faults.edges
      else s.faults.edges ++ [(clearCond k sc s).faultAsserted] := by
  unfold clearCond
  split
  · dsimp only
    rw [edges_followPin, faultAsserted_followPin, edges_pushReport, edges_setFaultRec]
  · simp

/-! ## Writing -/

theorem pushReport_writes (r : Report) (s : State) : pushReport r s = { s with faults := (pushReport r s).faults } := by
  unfold pushReport
  split <;> rfl

/-- An event occurrence writes the fault unit only. -/
theorem raiseEvent_writes (k : FaultKind) (sc : Scope) (det : BitVec 32) (s : State) :
    raiseEvent k sc det s = { s with faults := (raiseEvent k sc det s).faults } := by
  unfold raiseEvent
  split
  · rfl
  · exact pushReport_writes _ _

/-- An event occurrence passes over a change of a side that keeps its frame number. -/
theorem raiseEvent_updSide (k : FaultKind) (sc : Scope) (det : BitVec 32) (d : SideId) (f : Side → Side) (s : State)
    (h : ∀ x : Side, (f x).cap.frameNumber = x.cap.frameNumber) :
    raiseEvent k sc det (updSide d f s) = updSide d f (raiseEvent k sc det s) := by
  have e : (raiseEvent k sc det (updSide d f s)).faults = (raiseEvent k sc det s).faults := by
    refine raiseEvent_congr k sc det ?_ ?_ ?_ ?_
    · cases d <;> rfl
    · cases d <;> rfl
    · cases d <;> rfl
    · cases d <;> cases sc <;> simp [frameOf, updSide, h]
  rw [raiseEvent_writes k sc det (updSide d f s), e, raiseEvent_writes k sc det s]
  cases d <;> rfl

/-- An event occurrence of one record leaves the others. -/
theorem faultRec_raiseEvent_other (k : FaultKind) (sc : Scope) (det : BitVec 32) (s : State) {k' : FaultKind} {sc' : Scope}
    (h : recIndex k' sc' ≠ recIndex k sc) : (raiseEvent k sc det s).faultRec k' sc' = s.faultRec k' sc' := by
  unfold raiseEvent
  split <;> simp [faultRec_setFaultRec_other, h]

/-- A raise writes the fault unit only. -/
theorem raiseCond_writes (k : FaultKind) (sc : Scope) (det : BitVec 32) (s : State) :
    raiseCond k sc det s = { s with faults := (raiseCond k sc det s).faults } := by
  unfold raiseCond
  split
  · rfl
  · rw [followPin_writes, pushReport_writes]; rfl

/-- A raise passes over a change of a side that keeps its frame number and its health. -/
theorem raiseCond_updSide (k : FaultKind) (sc : Scope) (det : BitVec 32) (d : SideId) (f : Side → Side) (s : State)
    (h : ∀ x : Side, (f x).cap.frameNumber = x.cap.frameNumber)
    (hh : ∀ x : Side, (f x).head.health = x.head.health) :
    raiseCond k sc det (updSide d f s) = updSide d f (raiseCond k sc det s) := by
  have e : (raiseCond k sc det (updSide d f s)).faults = (raiseCond k sc det s).faults := by
    refine raiseCond_congr k sc det ?_ ?_ ?_ ?_
    · cases d <;> rfl
    · cases d <;> rfl
    · cases d <;> simp [pinView, updSide, hh]
    · cases d <;> cases sc <;> simp [frameOf, updSide, h]
  rw [raiseCond_writes k sc det (updSide d f s), e, raiseCond_writes k sc det s]
  cases d <;> rfl

/-- A raise of one record leaves the others. -/
theorem faultRec_raiseCond_other (k : FaultKind) (sc : Scope) (det : BitVec 32) (s : State) {k' : FaultKind} {sc' : Scope}
    (h : recIndex k' sc' ≠ recIndex k sc) : (raiseCond k sc det s).faultRec k' sc' = s.faultRec k' sc' := by
  unfold raiseCond
  split <;> simp [faultRec_setFaultRec_other, h]

/-- A clear writes the fault unit only. -/
theorem clearCond_writes (k : FaultKind) (sc : Scope) (s : State) :
    clearCond k sc s = { s with faults := (clearCond k sc s).faults } := by
  unfold clearCond
  split
  · rw [followPin_writes, pushReport_writes]; rfl
  · rfl

/-- A clear passes over a change of a side that keeps its frame number and its health. -/
theorem clearCond_updSide (k : FaultKind) (sc : Scope) (d : SideId) (f : Side → Side) (s : State)
    (h : ∀ x : Side, (f x).cap.frameNumber = x.cap.frameNumber)
    (hh : ∀ x : Side, (f x).head.health = x.head.health) :
    clearCond k sc (updSide d f s) = updSide d f (clearCond k sc s) := by
  have e : (clearCond k sc (updSide d f s)).faults = (clearCond k sc s).faults := by
    refine clearCond_congr k sc ?_ ?_ ?_ ?_
    · cases d <;> rfl
    · cases d <;> rfl
    · cases d <;> simp [pinView, updSide, hh]
    · cases d <;> cases sc <;> simp [frameOf, updSide, h]
  rw [clearCond_writes k sc (updSide d f s), e, clearCond_writes k sc s]
  cases d <;> rfl

/-- A clear of one record leaves the others. -/
theorem faultRec_clearCond_other (k : FaultKind) (sc : Scope) (s : State) {k' : FaultKind} {sc' : Scope}
    (h : recIndex k' sc' ≠ recIndex k sc) : (clearCond k sc s).faultRec k' sc' = s.faultRec k' sc' := by
  unfold clearCond
  split <;> simp [faultRec_setFaultRec_other, h]

end Sys2Proof.Laws
end

