-- ==== Sys2Proof/Laws/Heads.lean ====
section
/-! SUPPORT. The head controller's entries, one lemma per operation: teardown, the watchdogs' stop, cancellation, the
sequencer's lower, and what they leave of a side. -/

namespace Sys2Proof.Laws

open Sys2Proof.Machine Sys2Proof.Safety

/-! ## Conditions -/

theorem isActive_congr {s t : State} (h : s.faults = t.faults) (k : FaultKind) (sc : Scope) :
    isActive k sc s = isActive k sc t := by
  simp only [isActive, State.faultRec, h]

/-- A clear of one condition leaves the others. -/
theorem isActive_clearCond_other (k : FaultKind) (sc : Scope) (s : State) {k' : FaultKind} {sc' : Scope}
    (h : recIndex k' sc' ≠ recIndex k sc) : isActive k' sc' (clearCond k sc s) = isActive k' sc' s := by
  unfold isActive
  rw [faultRec_clearCond_other k sc s h]

/-- A raise of one condition leaves the others. -/
theorem isActive_raiseCond_other (k : FaultKind) (sc : Scope) (det : BitVec 32) (s : State) {k' : FaultKind} {sc' : Scope}
    (h : recIndex k' sc' ≠ recIndex k sc) : isActive k' sc' (raiseCond k sc det s) = isActive k' sc' s := by
  unfold isActive
  rw [faultRec_raiseCond_other k sc det s h]

/-- An event leaves every other record. -/
theorem isActive_raiseEvent_other (k : FaultKind) (sc : Scope) (det : BitVec 32) (s : State) {k' : FaultKind} {sc' : Scope}
    (h : recIndex k' sc' ≠ recIndex k sc) : isActive k' sc' (raiseEvent k sc det s) = isActive k' sc' s := by
  unfold isActive
  rw [faultRec_raiseEvent_other k sc det s h]

/-- Clears keep what is not active. -/
theorem isActive_clearCond_le (k : FaultKind) (sc : Scope) (s : State) {k' : FaultKind} {sc' : Scope}
    (h : isActive k' sc' s = false) : isActive k' sc' (clearCond k sc s) = false := by
  by_cases e : recIndex k' sc' = recIndex k sc
  · have := isActive_clearCond k sc s
    unfold isActive State.faultRec at this ⊢
    rw [e]; exact this
  · rw [isActive_clearCond_other k sc s e]; exact h

/-- A side's records of two kinds are two records. -/
theorem recIndex_side_ne {k k' : FaultKind} (d : SideId) (h : k ≠ k') (hk : k.code ≤ 17) :
    recIndex k (scopeOf d) ≠ recIndex k' (scopeOf d) := by
  cases d <;> cases k <;> cases k' <;> first | (exfalso; exact h rfl) | (exfalso; revert hk; decide) | decide

/-! ## Teardown and the watchdogs -/

/-- A side after teardown (R20, R94). -/
@[simp] theorem side_teardown (d : SideId) (s : State) :
    (teardown d s).side d =
      { s.side d with
        cap := { (s.side d).cap with bufs := freeBufs, fip := none, prevSig := none, identical := 0 }
        coll := { (s.side d).coll with acc := none }
        disp := { (s.side d).disp with repeats := 0 } } := by
  unfold teardown
  simp

@[simp] theorem side_teardown_other (d : SideId) (s : State) : (teardown d s).side d.other = s.side d.other := by
  unfold teardown
  simp

theorem teardown_viewStale (d : SideId) (s : State) : isActive .viewStale (scopeOf d) (teardown d s) = false := by
  unfold teardown
  exact isActive_clearCond ..

theorem discardCur_faults (d : SideId) (s : State) : (discardCur d s).faults = s.faults := by simp

/-- Teardown acts on the fault unit by the clear of VIEW_STALE alone. -/
theorem faultRec_teardown (d : SideId) (s : State) {k : FaultKind} {sc : Scope}
    (h : recIndex k sc ≠ recIndex .viewStale (scopeOf d)) : (teardown d s).faultRec k sc = s.faultRec k sc := by
  unfold teardown
  rw [faultRec_clearCond_other _ _ _ h]
  simp [State.faultRec]

/-- With no apply deferred, or no frame in progress, nothing follows a teardown. -/
theorem teardownRelease_plain {d : SideId} {s : State} (h : (s.side d).deferred = false ∨ (s.side d).cap.fip = none) :
    teardownRelease (releaseDeferred d) d s = teardown d s := by
  unfold teardownRelease
  rcases h with h | h
  · split
    · unfold releaseDeferred
      simp [h]
    · rfl
  · simp [h]

/-- A side after its watchdogs have stopped (R21, R92). -/
@[simp] theorem side_stopWatchdogs (d : SideId) (s : State) :
    (stopWatchdogs d s).side d =
      { s.side d with
        cap := { (s.side d).cap with watchdog := none, expiries := 0 }
        disp := { (s.side d).disp with watchdog := none, expired := false } } := by
  unfold stopWatchdogs
  simp

@[simp] theorem side_stopWatchdogs_other (d : SideId) (s : State) :
    (stopWatchdogs d s).side d.other = s.side d.other := by
  unfold stopWatchdogs
  simp

theorem stopWatchdogs_displayIdle (d : SideId) (s : State) :
    isActive .displayIdle (scopeOf d) (stopWatchdogs d s) = false := by
  unfold stopWatchdogs
  exact isActive_clearCond ..

theorem faultRec_stopWatchdogs (d : SideId) (s : State) {k : FaultKind} {sc : Scope}
    (h : recIndex k sc ≠ recIndex .displayIdle (scopeOf d)) : (stopWatchdogs d s).faultRec k sc = s.faultRec k sc := by
  unfold stopWatchdogs
  rw [faultRec_clearCond_other _ _ _ h]
  simp [State.faultRec]

/-- What the watchdogs' stop after a teardown leaves of a side. -/
theorem tornDown_stop (d : SideId) (s : State) : tornDown d (stopWatchdogs d (teardown d s)) := by
  unfold tornDown
  refine ⟨by simp, by simp, by simp, by simp, by simp, by simp, by simp, by simp, by simp, by simp, ?_,
    stopWatchdogs_displayIdle d _⟩
  have h : recIndex .viewStale (scopeOf d) ≠ recIndex .displayIdle (scopeOf d) := by cases d <;> decide
  have := teardown_viewStale d s
  unfold isActive at this ⊢
  rw [faultRec_stopWatchdogs d _ h]
  exact this

/-- What `tornDown` reads of a state. -/
theorem tornDown_congr {d : SideId} {s t : State} (hc : (t.side d).cap = (s.side d).cap)
    (hl : (t.side d).coll = (s.side d).coll) (hd : (t.side d).disp = (s.side d).disp)
    (h1 : isActive .viewStale (scopeOf d) t = isActive .viewStale (scopeOf d) s)
    (h2 : isActive .displayIdle (scopeOf d) t = isActive .displayIdle (scopeOf d) s) (h : tornDown d s) :
    tornDown d t := by
  unfold tornDown at h ⊢
  simp only [hc, hl, hd, h1, h2]
  exact h

/-! ## Cancellation -/

/-- Handing CANCELLED to entries of one side touches that side's exposure request only. -/
theorem side_handAll (d : SideId) (es : List LinkEntry) (h : ∀ e ∈ es, e.side = d) (s : State) :
    (∃ b, (handAll es s).side d = { s.side d with expo := { (s.side d).expo with request := b } }) ∧
    (handAll es s).side d.other = s.side d.other := by
  induction es generalizing s with
  | nil => exact ⟨⟨(s.side d).expo.request, rfl⟩, rfl⟩
  | cons e rest ih =>
    have he : e.side = d := h e (by simp)
    obtain ⟨⟨b, hb⟩, ho⟩ := ih (fun x hx => h x (by simp [hx])) (handCancelled e s)
    have hs : (∃ b, (handCancelled e s).side d = { s.side d with expo := { (s.side d).expo with request := b } }) ∧
        (handCancelled e s).side d.other = s.side d.other := by
      unfold handCancelled
      split
      · exact ⟨⟨(s.side d).expo.request, rfl⟩, rfl⟩
      · rw [he]; exact ⟨⟨false, by simp⟩, by simp⟩
      · exact ⟨⟨(s.side d).expo.request, by simp⟩, by simp⟩
    obtain ⟨⟨b', hb'⟩, ho'⟩ := hs
    refine ⟨⟨b, ?_⟩, ?_⟩
    · show (handAll rest (handCancelled e s)).side d = _
      rw [hb, hb']
    · show (handAll rest (handCancelled e s)).side d.other = _
      rw [ho, ho']

theorem handAll_queue (es : List LinkEntry) (s : State) :
    (handAll es s).link.inFlight = s.link.inFlight ∧ (handAll es s).link.waiting = s.link.waiting := by
  induction es generalizing s with
  | nil => exact ⟨rfl, rfl⟩
  | cons e rest ih =>
    have h : (handCancelled e s).link.inFlight = s.link.inFlight ∧ (handCancelled e s).link.waiting = s.link.waiting := by
      unfold handCancelled
      split
      · exact ⟨rfl, rfl⟩
      · simp
      · exact ⟨rfl, rfl⟩
    exact ⟨(ih _).1.trans h.1, (ih _).2.trans h.2⟩

theorem cutLine_queue (n : Nat) (k : Link) : (cutLine n k).inFlight = none ∧ (cutLine n k).waiting = k.waiting := by
  unfold cutLine
  split <;> exact ⟨rfl, rfl⟩

/-- A side after the cancellation of its entries: its exposure request may have gone (R59, R144). -/
theorem side_cancelSide (d : SideId) (s : State) :
    (∃ b, (cancelSide d s).side d = { s.side d with expo := { (s.side d).expo with request := b } }) ∧
    (cancelSide d s).side d.other = s.side d.other := by
  unfold cancelSide
  dsimp only
  have hg : ∀ e ∈ inFlightOf d s.link ++ s.link.waiting.filter (fun e => e.side == d), e.side = d := by
    intro e he
    rw [List.mem_append] at he
    rcases he with he | he
    · unfold inFlightOf at he
      split at he
      · split at he
        · simp_all
        · simp at he
      · simp at he
    · simpa using (List.mem_filter.mp he).2
  obtain ⟨⟨b, hb⟩, ho⟩ := side_handAll d _ hg
    (updLink (fun k => { k with waiting := k.waiting.filter fun e => e.side != d })
      (if (inFlightOf d s.link).isEmpty then s else updLink (cutLine (s.refSince s.link.txStart)) s))
  refine ⟨⟨b, ?_⟩, ?_⟩
  · rw [hb]; split <;> simp
  · rw [ho]; split <;> simp

/-- No entry of the side is left (R144). -/
theorem cancelSide_gone (d : SideId) (s : State) : ∀ e ∈ linkEntries (cancelSide d s).link, e.side ≠ d := by
  intro e he
  unfold linkEntries cancelSide at he
  dsimp only at he
  rw [(handAll_queue _ _).1, (handAll_queue _ _).2, List.mem_append] at he
  rcases he with he | he
  · split at he
    · rename_i h
      unfold inFlightOf at h
      simp only [updLink_link] at he
      split at h
      · rename_i x hx
        split at h
        · simp at h
        · rename_i hne
          rw [hx] at he
          simp only [Option.toList_some, List.mem_singleton] at he
          subst he
          exact hne
      · rename_i hx
        rw [hx] at he
        simp at he
    · simp [(cutLine_queue _ _).1] at he
  · rw [updLink_link, List.mem_filter] at he
    simpa using he.2

/-! ## The sequencer's lower -/

/-- LOW reported to the head controller, as one change of the head (R122, R123). -/
theorem reportLow_eq (d : SideId) (s : State) : reportLow d s = updHead d (fun h =>
    if h.awaitingLower = false then h
    else if h.health = .recovering then
      { h with awaitingLower := false, stageTimer := some ⟨s.time, (s.side d).cfg.head.offDwellMs * 1000⟩ }
    else if h.health = .stopping then { h with awaitingLower := false, health := .off }
    else { h with awaitingLower := false }) s := by
  unfold reportLow
  dsimp only
  have same : ∀ f g : Head → Head, f (s.side d).head = g (s.side d).head → updHead d f s = updHead d g s := by
    intro f g hfg; cases d <;> simp [updHead, updSide] <;> simpa [State.side] using hfg
  by_cases e1 : (s.side d).head.awaitingLower = true
  · rw [if_pos e1]
    cases e2 : (s.side d).head.health <;> apply same <;> simp [e1, e2, State.timer]
  · rw [if_neg e1]
    have e1' : (s.side d).head.awaitingLower = false := by simpa using e1
    cases d <;> simp_all [updHead, updSide, State.side]

/-- A LOWER request in a state and step the sequences go through (R128). -/
theorem seqLower_eq {d : SideId} {s : State} {q : Sequencer}
    (h : lowerTo (s.side d).cfg.head s.time (s.side d).seq = some q) :
    seqLower d s =
      if q.state = .low then reportLow d (updSeq d (fun _ => q) s) else updSeq d (fun _ => q) s := by
  have self : updSeq d (fun _ => (s.side d).seq) s = s := by cases d <;> rfl
  unfold lowerTo at h
  unfold seqLower
  cases e : (s.side d).seq.state <;> simp only [e] at h
  · cases h
    simp [e, self]
  · unfold seqRelease
    split at h
    · rename_i e2
      cases h
      simp [e2, State.timer]
    · split at h
      · rename_i e2
        cases h
        simp [e2]
      · cases h
  · unfold seqRelease
    split at h
    · rename_i e2
      cases h
      simp [e2, State.timer]
    · cases h
  · cases h
    simp [e, self]

end Sys2Proof.Laws
end

