-- ==== Sys2Proof/Laws/Entries.lean ====
section
/-! SUPPORT. Entries to FAILED, RECOVERING and STOPPING: everything they leave of the side. -/

namespace Sys2Proof.Laws

open Sys2Proof.Machine Sys2Proof.Safety

/-- A re-formed target is the one its settings and states give (R103). -/
theorem monitor_reformTarget (d : SideId) (s : State) :
    ((reformTarget d s).monitor d).target = targetOf (reformTarget d s) d := by
  have : targetOf (reformTarget d s) d = targetOf s d := by unfold targetOf; simp
  rw [this]
  unfold reformTarget
  dsimp only
  split
  · assumption
  · cases d <;> rfl

/-- The health conditions are not active once cleared (R122, R123). -/
theorem clearHealth_off {d : SideId} {s : State} :
    isActive .sideFailed (scopeOf d) (clearHealth d s) = false ∧
      isActive .sideDegraded (scopeOf d) (clearHealth d s) = false ∧
      isActive .cameraFrozen (scopeOf d) (clearHealth d s) = false := by
  unfold clearHealth
  refine ⟨?_, isActive_clearCond .., ?_⟩
  · apply isActive_clearCond_le; apply isActive_clearCond_le; exact isActive_clearCond ..
  · apply isActive_clearCond_le; exact isActive_clearCond ..

/-- What an entry to RECOVERING or STOPPING has done of a side before the LOWER request. -/
theorem leaveUp_down (release : State → State) (was : Bool) (d : SideId) (s : State)
    (h : teardownRelease release d (clearHealth d s) = teardown d (clearHealth d s)) :
    ∃ s3, leaveUp release was d s = seqLower d (updHead d (fun h => { h with awaitingLower := true }) s3) ∧
      tornDown d s3 ∧ isActive .sideFailed (scopeOf d) s3 = false ∧
      isActive .sideDegraded (scopeOf d) s3 = false ∧ isActive .cameraFrozen (scopeOf d) s3 = false ∧
      (∀ e ∈ linkEntries s3.link, e.side ≠ d) ∧ (s3.monitor d).target = targetOf s3 d ∧
      s3.side d.other = s.side d.other ∧ s3.snoop = s.snoop ∧ s3.lamp = s.lamp ∧ s3.down = s.down ∧
      s3.time = s.time ∧
      (∃ b, s3.side d = { s.side d with
        cap :=
          { (s.side d).cap with
            bufs := freeBufs, fip := none, prevSig := none, identical := 0, watchdog := none, expiries := 0 }
        coll := { (s.side d).coll with acc := none }
        disp := { (s.side d).disp with repeats := 0, watchdog := none, expired := false }
        expo := { (s.side d).expo with request := b }
        head := { (s.side d).head with stageTimer := none } }) := by
  refine ⟨_, rfl, ?_⟩
  rw [h]
  generalize hc : clearHealth d s = c
  have hside : ∀ e, c.side e = s.side e := by intro e; rw [← hc]; simp
  have hact := clearHealth_off (d := d) (s := s)
  rw [hc] at hact
  have hfr : c.snoop = s.snoop ∧ c.lamp = s.lamp ∧ c.down = s.down ∧ c.time = s.time := by rw [← hc]; simp
  generalize hs1 : stopWatchdogs d (teardown d c) = s1
  have htd : tornDown d s1 := by rw [← hs1]; exact tornDown_stop d c
  have h1act : isActive .sideFailed (scopeOf d) s1 = false ∧ isActive .sideDegraded (scopeOf d) s1 = false ∧
      isActive .cameraFrozen (scopeOf d) s1 = false := by
    rw [← hs1]
    unfold isActive at hact ⊢
    refine ⟨?_, ?_, ?_⟩
    · rw [faultRec_stopWatchdogs, faultRec_teardown]; exact hact.1
      all_goals cases d <;> decide
    · rw [faultRec_stopWatchdogs, faultRec_teardown]; exact hact.2.1
      all_goals cases d <;> decide
    · rw [faultRec_stopWatchdogs, faultRec_teardown]; exact hact.2.2
      all_goals cases d <;> decide
  obtain ⟨⟨b, hb⟩, ho⟩ := side_cancelSide d s1
  have hgone := cancelSide_gone d s1
  have h1side := side_stopWatchdogs d (teardown d c)
  rw [hs1, side_teardown] at h1side
  generalize hs2 : updHead d (fun h => { h with stageTimer := none }) (cancelSide d s1) = s2
  have h2side : s2.side d =
      { (cancelSide d s1).side d with head := { ((cancelSide d s1).side d).head with stageTimer := none } } := by
    rw [← hs2]; simp
  have h2f : s2.faults = s1.faults := by rw [← hs2]; simp
  have h2l : s2.link = (cancelSide d s1).link := by rw [← hs2]; simp
  have h2o : s2.side d.other = s1.side d.other := by rw [← hs2]; simp [ho]
  have h2fr : s2.snoop = s1.snoop ∧ s2.lamp = s1.lamp ∧ s2.down = s1.down ∧ s2.time = s1.time := by
    rw [← hs2]; simp
  generalize hs3 : reformTarget d (if was = true then reformCab s2 else s2) = s3
  have h3side : ∀ e, s3.side e = s2.side e := by intro e; rw [← hs3]; cases was <;> simp
  have h3f : s3.faults = s2.faults := by rw [← hs3]; cases was <;> simp
  have h3l : s3.link = s2.link := by rw [← hs3]; cases was <;> simp
  have h3fr : s3.snoop = s2.snoop ∧ s3.lamp = s2.lamp ∧ s3.down = s2.down ∧ s3.time = s2.time := by
    rw [← hs3]; cases was <;> simp
  have h1fr : s1.snoop = c.snoop ∧ s1.lamp = c.lamp ∧ s1.down = c.down ∧ s1.time = c.time := by rw [← hs1]; simp
  have hA : ∀ k, isActive k (scopeOf d) s3 = isActive k (scopeOf d) s1 := fun k => isActive_congr (h3f.trans h2f) k _
  refine ⟨?_, ?_, ?_, ?_, ?_, ?_, ?_, ?_, ?_, ?_, ?_, b, ?_⟩
  · apply tornDown_congr _ _ _ (hA _) (hA _) htd
    · rw [h3side, h2side, hb]
    · rw [h3side, h2side, hb]
    · rw [h3side, h2side, hb]
  · rw [hA]; exact h1act.1
  · rw [hA]; exact h1act.2.1
  · rw [hA]; exact h1act.2.2
  · rw [h3l, h2l]; exact hgone
  · rw [← hs3]; exact monitor_reformTarget d _
  · rw [h3side, h2o, ← hs1, side_stopWatchdogs_other, side_teardown_other, hside]
  · rw [h3fr.1, h2fr.1, h1fr.1, hfr.1]
  · rw [h3fr.2.1, h2fr.2.1, h1fr.2.1, hfr.2.1]
  · rw [h3fr.2.2.1, h2fr.2.2.1, h1fr.2.2.1, hfr.2.2.1]
  · rw [h3fr.2.2.2, h2fr.2.2.2, h1fr.2.2.2, hfr.2.2.2]
  · rw [h3side, h2side, hb, h1side, hside]

/-! ## The sequencer and the head controller -/

/-- Of the sides, only this one's head controller and sequencer changed, and the health at most from STOPPING to OFF. -/
def onlyHS (d : SideId) (s t : State) : Prop :=
  (∃ h q, t.side d = { s.side d with head := h, seq := q } ∧ h.cause = (s.side d).head.cause ∧
    h.attempts = (s.side d).head.attempts ∧
    (h.health = (s.side d).head.health ∨ (s.side d).head.health = .stopping ∧ h.health = .off)) ∧
  t.side d.other = s.side d.other

theorem onlyHS_updSeq (d : SideId) (f) (s : State) : onlyHS d s (updSeq d f s) :=
  ⟨⟨(s.side d).head, f (s.side d).seq, by simp, rfl, rfl, .inl rfl⟩, by simp⟩

theorem onlyHS_trans {d : SideId} {s t u : State} (h1 : onlyHS d s t) (h2 : onlyHS d t u) : onlyHS d s u := by
  obtain ⟨⟨h, q, e, c, a, hh⟩, o⟩ := h1
  obtain ⟨⟨h', q', e', c', a', hh'⟩, o'⟩ := h2
  rw [e] at e' c' a' hh'
  refine ⟨⟨h', q', e', c'.trans c, a'.trans a, ?_⟩, o'.trans o⟩
  rcases hh with hh | hh
  · rw [← hh]; exact hh'
  · rcases hh' with hh' | hh'
    · exact .inr ⟨hh.1, hh'.trans hh.2⟩
    · exfalso; have := hh.2.symm.trans hh'.1; cases this

theorem onlyHS_reportLow (d : SideId) (s : State) : onlyHS d s (reportLow d s) := by
  rw [reportLow_eq]
  refine ⟨⟨_, (s.side d).seq, side_updHead .., ?_, ?_, ?_⟩, side_updHead_other ..⟩
  · split_ifs <;> rfl
  · split_ifs <;> rfl
  · split_ifs <;> simp_all

theorem onlyHS_seqRelease (d : SideId) (s : State) : onlyHS d s (seqRelease d s) := by
  unfold seqRelease
  dsimp only
  split
  · exact onlyHS_updSeq ..
  · exact onlyHS_updSeq ..
  · exact onlyHS_trans (onlyHS_updSeq ..) (onlyHS_reportLow ..)

theorem onlyHS_refl (d : SideId) (s : State) : onlyHS d s s :=
  ⟨⟨(s.side d).head, (s.side d).seq, by simp, rfl, rfl, .inl rfl⟩, by simp⟩

/-- A LOWER request touches the head controller and the sequencer of its side (R128). -/
theorem onlyHS_seqLower (d : SideId) (s : State) : onlyHS d s (seqLower d s) := by
  unfold seqLower
  split
  · exact onlyHS_seqRelease ..
  · exact onlyHS_seqRelease ..
  · exact onlyHS_refl ..
  · exact onlyHS_reportLow ..

/-! ## The entries -/

/-- What an entry to RECOVERING, STOPPING or FAILED leaves of a side: all but its head controller and its sequencer is as
it was or torn down. -/
def leftTorn (d : SideId) (s t : State) : Prop :=
  tornDown d t ∧ t.side d.other = s.side d.other ∧ t.snoop = s.snoop ∧ t.lamp = s.lamp ∧ t.down = s.down ∧
    t.time = s.time ∧
    ∃ b h q, t.side d = { s.side d with
      cap :=
        { (s.side d).cap with
          bufs := freeBufs, fip := none, prevSig := none, identical := 0, watchdog := none, expiries := 0 }
      coll := { (s.side d).coll with acc := none }
      disp := { (s.side d).disp with repeats := 0, watchdog := none, expired := false }
      expo := { (s.side d).expo with request := b }
      head := h
      seq := q }

/-- An entry to RECOVERING or STOPPING. -/
theorem leaveUp_torn (release : State → State) (was : Bool) (d : SideId) (s : State)
    (h : teardownRelease release d (clearHealth d s) = teardown d (clearHealth d s)) :
    leftTorn d s (leaveUp release was d s) ∧
      ((leaveUp release was d s).side d).head.cause = (s.side d).head.cause ∧
      ((leaveUp release was d s).side d).head.attempts = (s.side d).head.attempts ∧
      ((s.side d).head.health ≠ .stopping →
        ((leaveUp release was d s).side d).head.health = (s.side d).head.health) := by
  obtain ⟨s3, e, htd, h1, h2, h3, h4, h5, h6, h7, h8, h9, h10, b, h11⟩ := leaveUp_down release was d s h
  obtain ⟨⟨hd, q, hs, hc, ha, hh⟩, ho⟩ :=
    onlyHS_seqLower d (updHead d (fun h => { h with awaitingLower := true }) s3)
  have hf : (leaveUp release was d s).faults = s3.faults := by rw [e]; simp
  have hfr : (leaveUp release was d s).snoop = s3.snoop ∧ (leaveUp release was d s).lamp = s3.lamp ∧
      (leaveUp release was d s).down = s3.down ∧ (leaveUp release was d s).time = s3.time := by rw [e]; simp
  rw [← e] at hs ho
  generalize leaveUp release was d s = t at *
  simp only [side_updHead, side_updHead_other] at hs ho hc ha hh
  have hA : ∀ k, isActive k (scopeOf d) t = isActive k (scopeOf d) s3 := fun k => isActive_congr hf k _
  refine ⟨⟨tornDown_congr (by rw [hs]) (by rw [hs]) (by rw [hs]) (hA _) (hA _) htd, ho.trans h6, hfr.1.trans h7,
    hfr.2.1.trans h8, hfr.2.2.1.trans h9, hfr.2.2.2.trans h10, b, hd, q, ?_⟩, ?_, ?_, ?_⟩
  · rw [hs, h11]
  · rw [hs, hc, h11]
  · rw [hs, ha, h11]
  · intro hns
    rw [hs]
    rw [h11] at hh
    rcases hh with hh | hh
    · exact hh
    · exact absurd hh.1 hns

theorem leftTorn_trans {d : SideId} {s t u : State} (h1 : leftTorn d s t) (h2 : leftTorn d t u) : leftTorn d s u := by
  obtain ⟨_, a2, a3, a4, a5, a6, b, h, q, a7⟩ := h1
  obtain ⟨c1, c2, c3, c4, c5, c6, b', h', q', c7⟩ := h2
  refine ⟨c1, c2.trans a2, c3.trans a3, c4.trans a4, c5.trans a5, c6.trans a6, b', h', q', ?_⟩
  rw [c7, a7]

/-- A head controller's own change before, which FAULT_N follows. -/
theorem leftTorn_head {d : SideId} {s t : State} (f : Head → Head) (p : State)
    (h : leftTorn d (followPin p (updHead d f s)) t) : leftTorn d s t := by
  obtain ⟨a1, a2, a3, a4, a5, a6, b, h, q, a7⟩ := h
  refine ⟨a1, by simpa using a2, by simpa using a3, by simpa using a4, by simpa using a5, by simpa using a6, b, h, q, ?_⟩
  rw [a7]; simp

/-- The other changes that `leftTorn` does not see. -/
theorem leftTorn_of {d : SideId} {s t u : State} (h : leftTorn d s t) (hs : ∀ e, u.side e = t.side e)
    (h1 : u.snoop = t.snoop) (h2 : u.lamp = t.lamp) (h3 : u.down = t.down) (h4 : u.time = t.time)
    (h5 : isActive .viewStale (scopeOf d) u = isActive .viewStale (scopeOf d) t)
    (h6 : isActive .displayIdle (scopeOf d) u = isActive .displayIdle (scopeOf d) t) : leftTorn d s u := by
  obtain ⟨a1, a2, a3, a4, a5, a6, b, h, q, a7⟩ := h
  refine ⟨tornDown_congr (by rw [hs]) (by rw [hs]) (by rw [hs]) h5 h6 a1, (hs _).trans a2, h1.trans a3, h2.trans a4,
    h3.trans a5, h4.trans a6, b, h, q, ?_⟩
  rw [hs, a7]

/-- Entry to FAILED with its cause, and what the automatic recovery test makes of it (R120, R121), where no apply is
released behind the teardowns. -/
theorem enterFailed_torn (release : State → State) (d : SideId) (code : Nat) (s : State)
    (h : ∀ t, (t.side d).deferred = (s.side d).deferred → (t.side d).cap.fip = (s.side d).cap.fip ∨ (t.side d).cap.fip = none →
      teardownRelease release d t = teardown d t) :
    leftTorn d s (enterFailed release d code s) ∧ ((enterFailed release d code s).side d).head.cause = code ∧
      (let x := s.side d
       let t := enterFailed release d code s
       (x.cfg.head.autoRecover = true → x.head.attempts < x.cfg.head.recoverMax →
         (t.side d).head.health = .recovering ∧ (t.side d).head.attempts = x.head.attempts + 1) ∧
       (¬(x.cfg.head.autoRecover = true ∧ x.head.attempts < x.cfg.head.recoverMax) →
         (t.side d).head.health = .failed ∧ (t.side d).head.attempts = x.head.attempts ∧
           isActive .sideFailed (scopeOf d) t = true)) := by
  unfold enterFailed
  dsimp only
  generalize hu : raiseCond .sideFailed (scopeOf d) (BitVec.ofNat 32 code)
    (clearCond .sideDegraded (scopeOf d)
      (followPin (flagPage .faults s)
        (updHead d (fun h => { h with health := .failed, cause := code }) (flagPage .faults s)))) = u
  have us : u.side d = { s.side d with head := { (s.side d).head with health := .failed, cause := code } } := by
    rw [← hu]; simp
  have uo : u.side d.other = s.side d.other := by rw [← hu]; simp
  have uf : u.snoop = s.snoop ∧ u.lamp = s.lamp ∧ u.down = s.down ∧ u.time = s.time := by rw [← hu]; simp
  have ua : isActive .sideFailed (scopeOf d) u = true := by rw [← hu]; exact isActive_raiseCond ..
  rw [h u (by rw [us]) (Or.inl (by rw [us]))]
  generalize hv : stopWatchdogs d (teardown d u) = v
  have vs : v.side d = { s.side d with
      cap :=
        { (s.side d).cap with
          bufs := freeBufs, fip := none, prevSig := none, identical := 0, watchdog := none, expiries := 0 }
      coll := { (s.side d).coll with acc := none }
      disp := { (s.side d).disp with repeats := 0, watchdog := none, expired := false }
      head := { (s.side d).head with health := .failed, cause := code } } := by
    rw [← hv]; simp [us]
  have v0 : leftTorn d s v := by
    refine ⟨by rw [← hv]; exact tornDown_stop d u, by rw [← hv]; simp [uo], ?_, ?_, ?_, ?_, (s.side d).expo.request,
      _, (s.side d).seq, vs⟩
    · rw [← uf.1, ← hv]; simp
    · rw [← uf.2.1, ← hv]; simp
    · rw [← uf.2.2.1, ← hv]; simp
    · rw [← uf.2.2.2, ← hv]; simp
  have va : isActive .sideFailed (scopeOf d) v = true := by
    rw [← hv]
    unfold isActive at ua ⊢
    rw [faultRec_stopWatchdogs _ _ (recIndex_side_ne d (by decide) (by decide)),
      faultRec_teardown _ _ (recIndex_side_ne d (by decide) (by decide))]
    exact ua
  generalize hw : reformTarget d (reformCab v) = w
  have ws : ∀ e, w.side e = v.side e := by intro e; rw [← hw]; simp
  have wf : w.faults = v.faults := by rw [← hw]; simp
  have w0 : leftTorn d s w := by
    refine leftTorn_of v0 ws ?_ ?_ ?_ ?_ (isActive_congr wf _ _) (isActive_congr wf _ _) <;> rw [← hw] <;> simp
  have wh : (w.side d).head = { (s.side d).head with health := .failed, cause := code } := by rw [ws, vs]
  have wc : (w.side d).cfg = (s.side d).cfg := by rw [ws, vs]
  have wa : isActive .sideFailed (scopeOf d) w = true := (isActive_congr wf _ _).trans va
  have wt : (w.side d).head.attempts = (s.side d).head.attempts := by rw [wh]
  unfold recoveryTest
  dsimp only
  rw [wc, wt]
  split
  · rename_i h1
    split
    · rename_i h2
      unfold enterRecovering
      rw [show updHead d (fun h => { h with health := .recovering })
          (updHead d (fun h => { h with attempts := h.attempts + 1 }) w) =
        updHead d (fun h => { h with attempts := h.attempts + 1, health := .recovering }) w by cases d <;> rfl]
      have e2 : ∀ was p f, (∀ x : Head,
          (f x).health = .recovering ∧ (f x).cause = x.cause ∧ (f x).attempts = x.attempts + 1) →
          leftTorn d s (leaveUp release was d (followPin p (updHead d f w))) ∧
          ((leaveUp release was d (followPin p (updHead d f w))).side d).head.cause = code ∧
          ((leaveUp release was d (followPin p (updHead d f w))).side d).head.health = .recovering ∧
          ((leaveUp release was d (followPin p (updHead d f w))).side d).head.attempts =
            (s.side d).head.attempts + 1 := by
        intro was p f hf
        obtain ⟨l1, l2, l4, l3⟩ := leaveUp_torn release was d (followPin p (updHead d f w))
          (h _ (by simp [ws, vs]) (Or.inr (by simp [ws, vs])))
        refine ⟨leftTorn_trans w0 (leftTorn_head f p l1), ?_, ?_, ?_⟩
        · rw [l2]; simp [(hf _).2.1, wh]
        · rw [l3 (by simp [(hf _).1])]; simp [(hf _).1]
        · rw [l4]; simp [(hf _).2.2, wt]
      have e3 := fun was p => e2 was p (fun h => { h with attempts := h.attempts + 1, health := .recovering })
        fun x => ⟨rfl, rfl, rfl⟩
      exact ⟨(e3 _ _).1, (e3 _ _).2.1, fun _ _ => (e3 _ _).2.2, fun hn => absurd ⟨h1, h2⟩ hn⟩
    · have n1 : ∀ k, k = .viewStale ∨ k = .displayIdle → recIndex k (scopeOf d) ≠ recIndex .recoveryExhausted (scopeOf d) := by
        rintro k (rfl | rfl) <;> cases d <;> decide
      rename_i h2
      refine ⟨?_, by simp [wh], fun _ h3 => absurd h3 h2, fun _ => ⟨by simp [wh], by simp [wh], ?_⟩⟩
      on_goal 2 =>
        rw [isActive_raiseEvent_other _ _ _ _ (by cases d <;> decide)]; exact wa
      refine leftTorn_of w0 (by simp) (by simp) (by simp) (by simp) (by simp) ?_ ?_
      · exact isActive_raiseEvent_other _ _ _ _ (n1 _ (Or.inl rfl))
      · exact isActive_raiseEvent_other _ _ _ _ (n1 _ (Or.inr rfl))
  · rename_i h1
    exact ⟨w0, by rw [wh], fun h2 => absurd h2 h1, fun _ => ⟨by rw [wh], wt, wa⟩⟩

end Sys2Proof.Laws
end

