-- ==== Sys2Proof/Laws/Layout.lean ====
section
/-! SUPPORT. Layouts of R189: what the beats of a record or section hold, once its fields keep apart. -/

namespace Sys2Proof.Laws

open Sys2Proof.Machine Sys2Proof.Safety

/-- Two fields share no byte. -/
def apart (a b : FieldVal) : Prop := a.off + a.width ≤ b.off ∨ b.off + b.width ≤ a.off

/-- A byte inside a field is that field's, where the fields keep apart. -/
theorem byteAt_inside {fs : List FieldVal} (hd : fs.Pairwise apart) {f : FieldVal} (hf : f ∈ fs) {o : Nat}
    (h1 : f.off ≤ o) (h2 : o < f.off + f.width) : byteAt fs o = byteOf f.val (o - f.off) := by
  induction fs with
  | nil => cases hf
  | cons a fs ih =>
    obtain ⟨ha, hd'⟩ := List.pairwise_cons.mp hd
    rcases List.mem_cons.mp hf with rfl | hf
    · simp [byteAt, h1, h2]
    · have hn : (decide (a.off ≤ o) && decide (o < a.off + a.width)) = false := by
        rcases ha f hf with h | h <;> simp <;> omega
      have e : byteAt (a :: fs) o = byteAt fs o := by unfold byteAt; rw [List.find?_cons, hn]
      rw [e]
      exact ih hd' hf

/-- A byte outside every field is 0. -/
theorem byteAt_outside {fs : List FieldVal} {o : Nat} (h : ∀ f ∈ fs, o < f.off ∨ f.off + f.width ≤ o) :
    byteAt fs o = 0 := by
  have e : (fs.find? fun f => f.off ≤ o && o < f.off + f.width) = none := by
    rw [List.find?_eq_none]
    intro f hf
    rcases h f hf with h | h <;> simp <;> omega
  unfold byteAt
  rw [e]

/-- The beats made of bytes hold them in order, every byte strobed. -/
theorem beatsOfBytes_spec (n : Nat) (bs : List Byte) :
    (beatsOfBytes n bs).length = n ∧ (bs.length = 8 * n → (∀ b ∈ beatsOfBytes n bs, b.strb = 0xFF) ∧
      ∀ o < 8 * n, ((beatsOfBytes n bs).getD (o / 8) ⟨0, 0⟩).byte (o % 8) = bs.getD o 0) := by
  induction n generalizing bs with
  | zero => exact ⟨rfl, fun _ => ⟨fun b hb => (by cases hb), fun o ho => absurd ho (by omega)⟩⟩
  | succ n ih =>
    obtain ⟨i1, i2⟩ := ih (bs.drop 8)
    refine ⟨by simp [beatsOfBytes, i1], fun hl => ?_⟩
    obtain ⟨i3, i4⟩ := i2 (by rw [List.length_drop]; omega)
    have h8 : ((bs.take 8).map fun b => (b, true)).length = 8 := by rw [List.length_map, List.length_take]; omega
    refine ⟨fun b hb => ?_, fun o ho => ?_⟩
    · rcases List.mem_cons.mp hb with rfl | hb
      · apply BitVec.eq_of_getLsbD_eq
        intro k hk
        have e := strobed_ofLanes ((bs.take 8).map fun b => (b, true)) hk
        rw [List.getD_eq_getElem _ _ (by rw [h8]; exact hk)] at e
        simp only [List.getElem_map] at e
        rw [show (Beat.ofLanes ((bs.take 8).map fun b => (b, true))).strb.getLsbD k = true from e]
        have : ∀ k < 8, true = (0xFF : BitVec 8).getLsbD k := by decide
        exact this k hk
      · exact i3 b hb
    · rw [beatsOfBytes]
      by_cases h : o < 8
      · rw [show o / 8 = 0 by omega, show o % 8 = o by omega, List.getD_cons_zero, byte_ofLanes h8]
        simp only [List.getD, List.getElem?_map, List.getElem?_take, h, if_true]
        cases bs[o]? <;> rfl
      · rw [show o / 8 = (o - 8) / 8 + 1 by omega, show o % 8 = (o - 8) % 8 by omega, List.getD_cons_succ,
          i4 (o - 8) (by omega)]
        simp only [List.getD, List.getElem?_drop, show 8 + (o - 8) = o by omega]

/-- The little-endian sum of a field's bytes is its value, modulo its width. -/
theorem sum_bytes (v w : Nat) : ((List.range w).map fun k => 256 ^ k * (byteOf v k).toNat).sum = v % 256 ^ w := by
  induction w with
  | zero => simp [Nat.mod_one]
  | succ w ih =>
    rw [List.range_succ, List.map_append, List.sum_append, ih, Nat.pow_succ, Nat.mod_mul]
    simp [byteOf]

/-- The beats of a layout whose fields keep apart hold its fields. -/
theorem beatsHold_layout (n : Nat) {fs : List FieldVal} (hd : fs.Pairwise apart) (hin : ∀ f ∈ fs, f.off + f.width ≤ 8 * n)
    {gs : List (Nat × Nat × Nat)} (hg : ∀ g, g ∈ gs ↔ g ∈ fs.map fun f => (f.off, f.width, f.val)) :
    beatsHold (beatsOfBytes n (layoutBytes (8 * n) fs)) n gs := by
  obtain ⟨h1, h2⟩ := beatsOfBytes_spec n (layoutBytes (8 * n) fs)
  obtain ⟨h3, h4⟩ := h2 (by simp [layoutBytes])
  have h5 : ∀ o < 8 * n, ((beatsOfBytes n (layoutBytes (8 * n) fs)).getD (o / 8) ⟨0, 0⟩).byte (o % 8) = byteAt fs o := by
    intro o ho
    rw [h4 o ho]
    simp [layoutBytes, List.getD, ho]
  refine ⟨h1, h3, fun g hgm => ?_, fun o ho hout => ?_⟩
  · obtain ⟨f, hf, rfl⟩ := List.mem_map.mp ((hg g).1 hgm)
    have hb := hin f hf
    rw [← sum_bytes]
    congr 1
    apply List.map_congr_left
    intro k hk
    have hk := List.mem_range.mp hk
    dsimp only at hk ⊢
    rw [h5 _ (by omega), byteAt_inside hd hf (by omega) (by omega), Nat.add_sub_cancel_left]
  · have e : byteAt fs o = 0 := byteAt_outside fun f hf => hout _ ((hg _).2 (List.mem_map.mpr ⟨f, hf, rfl⟩))
    show BitVec.toNat _ = 0
    rw [h5 o ho, e]
    rfl

/-- The place of a field: its offset and its width. -/
def placeOf (f : FieldVal) : Nat × Nat := (f.off, f.width)

/-- The beats of a layout hold its fields, where their places are drawn from a list of places that keep apart and fit. -/
theorem beatsHold_fields (n : Nat) {fs : List FieldVal} (places : List (Nat × Nat)) (h : (fs.map placeOf).Sublist places)
    (hp : places.Pairwise fun a b => a.1 + a.2 ≤ b.1 ∨ b.1 + b.2 ≤ a.1) (hb : ∀ a ∈ places, a.1 + a.2 ≤ 8 * n) :
    beatsHold (beatsOfBytes n (layoutBytes (8 * n) fs)) n (fs.map fun f => (f.off, f.width, f.val)) := by
  refine beatsHold_layout n ?_ (fun f hf => hb (placeOf f) (h.subset (List.mem_map_of_mem hf))) fun g => Iff.rfl
  have := hp.sublist h
  rw [List.pairwise_map] at this
  exact this

end Sys2Proof.Laws
end

