-- ==== Sys2Proof/Laws/Passage.lean ====
section
/-! SUPPORT. What an entry to FAILED with an automatic recovery after it does to the record of FAULT_N's changes: asserted
for the passage, then released (R120, R168). -/

namespace Sys2Proof.Laws

open Sys2Proof Sys2Proof.Machine Sys2Proof.Safety

/-- The condition flags set in `u` are set in `v` too, record `j` apart. -/
def FlagsWithin (j : Nat) (u v : State) : Prop :=
  ∀ i < 40, i ≠ j → isConditionCode (codeOfIndex i) = true →
    (u.faults.table.get i FaultRec.empty).flag = true → (v.faults.table.get i FaultRec.empty).flag = true

/-- A condition flag within, and within again. -/
theorem FlagsWithin.trans {j u v w} (h : FlagsWithin j u v) (h' : FlagsWithin j v w) : FlagsWithin j u w :=
    fun i hi hj hc hf => h' i hi hj hc (h i hi hj hc hf)

/-- The same table has the same flags. -/
theorem FlagsWithin.same {j} {u v : State} (h : u.faults.table = v.faults.table) : FlagsWithin j u v :=
    fun i _ _ _ hf => by rw [← h]; exact hf

/-- A record set leaves every other record. -/
theorem get_set_le (k : FaultKind) (sc : Scope) (r : FaultRec) (u : State) (i : Nat) (h : i ≠ recIndex k sc) :
    ((setFaultRec k sc r u).faults.table.get i FaultRec.empty) = u.faults.table.get i FaultRec.empty := by
  unfold setFaultRec
  exact get_set_ne _ _ _ (Ne.symm h)

/-- A report made leaves the records. -/
theorem table_push (r : Report) (s : State) : (pushReport r s).faults.table = s.faults.table := by
  unfold pushReport; split <;> rfl

/-- A clear sets no flag. -/
theorem within_clear (j k sc) (u : State) : FlagsWithin j (clearCond k sc u) u := by
  intro i hi hj hc hf
  unfold clearCond at hf
  split at hf
  · dsimp only at hf
    have : ∀ r x, (followPin u (pushReport x (setFaultRec k sc r u))).faults.table =
        (setFaultRec k sc r u).faults.table := by
      intro r x; simp [table_push]
    rw [this] at hf
    by_cases e : i = recIndex k sc
    · rw [e] at hf
      have h2 := faultRec_setFaultRec k sc { u.faultRec k sc with flag := false } u
      unfold State.faultRec at h2 hf
      rw [h2] at hf; cases hf
    · rw [get_set_le _ _ _ _ _ e] at hf; exact hf
  · exact hf

/-- A raise sets no flag but its own. -/
theorem within_raise (k sc dt) (u : State) : FlagsWithin (recIndex k sc) (raiseCond k sc dt u) u := by
  intro i hi hj hc hf
  unfold raiseCond at hf
  split at hf
  · exact hf
  · dsimp only at hf
    have : ∀ r x, (followPin u (pushReport x (setFaultRec k sc r u))).faults.table = (setFaultRec k sc r u).faults.table := by
      intro r x; simp [table_push]
    rw [this, get_set_le _ _ _ _ _ hj] at hf; exact hf

/-- An event sets no condition flag. -/
theorem within_event (j k sc dt) (u : State) (hk : isConditionCode (codeOfIndex (recIndex k sc)) = false) :
    FlagsWithin j (raiseEvent k sc dt u) u := by
  intro i hi hj hc hf
  have hne : i ≠ recIndex k sc := fun e => by rw [e, hk] at hc; cases hc
  unfold raiseEvent at hf
  split at hf
  · rw [get_set_le _ _ _ _ _ hne] at hf; exact hf
  · dsimp only at hf
    have : ∀ r x, (pushReport x (setFaultRec k sc r u)).faults.table = (setFaultRec k sc r u).faults.table := by
      intro r x; simp [table_push]
    rw [this, get_set_le _ _ _ _ _ hne] at hf; exact hf

/-- A teardown sets no condition flag. -/
theorem within_teardown (j d) (u : State) : FlagsWithin j (teardown d u) u := by
  unfold teardown
  exact (within_clear _ _ _ _).trans (FlagsWithin.same (by simp))

/-- Stopping the watchdogs sets no condition flag. -/
theorem within_stop (j d) (u : State) : FlagsWithin j (stopWatchdogs d u) u := by
  unfold stopWatchdogs
  exact (within_clear _ _ _ _).trans (FlagsWithin.same (by simp))

/-- Clearing the health conditions sets no flag. -/
theorem within_clearHealth (j d) (u : State) : FlagsWithin j (clearHealth d u) u := by
  unfold clearHealth
  exact (within_clear _ _ _ _).trans ((within_clear _ _ _ _).trans (within_clear _ _ _ _))

/-- FAULT_N is not asserted by fewer condition flags under the same view of the rest. -/
theorem asserted_le {u v : State} {k sc} (h : FlagsWithin (recIndex k sc) u v) (hv : pinView u = pinView v)
    (hk : isActive k sc u = false) (hp : k ≠ .reportPath) (ha : u.faultAsserted = true) : v.faultAsserted = true := by
  simp only [pinView, Prod.mk.injEq] at hv
  obtain ⟨h1, h2, h3, h4⟩ := hv
  unfold State.faultAsserted at ha ⊢
  simp only [Bool.or_eq_true] at ha ⊢
  rw [h1, h2, h3] at ha
  rcases ha with (((ha | ha) | ha) | ha) | ha
  · exact .inl (.inl (.inl (.inl ha)))
  · exact .inl (.inl (.inl (.inr ha)))
  · exact .inl (.inl (.inr ha))
  · left; right
    exact h _ (by decide) (by cases k <;> first | exact absurd rfl hp | (cases sc <;> decide)) (by decide) ha
  · right
    unfold levelledCondition at ha ⊢
    rw [List.any_eq_true] at ha ⊢
    obtain ⟨i, hi, hb⟩ := ha
    simp only [Bool.and_eq_true] at hb
    refine ⟨i, hi, ?_⟩
    simp only [Bool.and_eq_true]
    refine ⟨⟨hb.1.1, ?_⟩, by rw [← h4]; exact hb.2⟩
    by_cases e : i = recIndex k sc
    · subst e
      have := hb.1.2
      unfold isActive State.faultRec at hk
      rw [hk] at this; cases this
    · exact h i (List.mem_range.mp hi) e hb.1.1 hb.1.2

/-- Since the record `E`, FAULT_N has been asserted, or asserted and released again. -/
def Passed (E : List Bool) (u : State) : Prop :=
  u.faultAsserted = true ∧ u.faults.edges = E ++ [true] ∨ u.faultAsserted = false ∧ u.faults.edges = E ++ [true, false]

/-- A clear does not assert FAULT_N. -/
theorem asserted_clear {k sc} {u : State} (h : (clearCond k sc u).faultAsserted = true) : u.faultAsserted = true := by
  by_cases hp : k = .reportPath
  · subst hp
    by_cases ha : isActive .reportPath sc u = true
    · have h1 : isActive .reportPath .global u = true := ha
      unfold State.faultAsserted State.pathFailing
      rw [h1]
      simp
    · have : clearCond .reportPath sc u = u := by unfold clearCond; rw [if_neg ha]
      rw [this] at h; exact h
  · exact asserted_le (within_clear _ k sc u) (by simp [pinView]) (isActive_clearCond k sc u) hp h

/-- A clear keeps the passage on record. -/
theorem passed_clear {E k sc} {u : State} (h : Passed E u) : Passed E (clearCond k sc u) := by
  unfold Passed at *
  rw [edges_clearCond]
  rcases h with ⟨h1, h2⟩ | ⟨h1, h2⟩
  · rw [h1]
    cases hb : (clearCond k sc u).faultAsserted
    · right; rw [if_neg (by decide), h2]; simp
    · left; rw [if_pos rfl]; exact ⟨rfl, h2⟩
  · have hb : (clearCond k sc u).faultAsserted = false := by
      rw [← Bool.not_eq_true]; intro hc; rw [asserted_clear hc] at h1; cases h1
    right; rw [hb, h1, if_pos rfl]; exact ⟨rfl, h2⟩

/-- So does a move that FAULT_N does not see. -/
theorem passed_same {E} {u v : State} (h : Passed E u) (hv : pinView v = pinView u) (hf : v.faults = u.faults) :
    Passed E v := by
  unfold Passed at *
  rw [faultAsserted_congr hv (by rw [hf]), hf]; exact h

/-- Leaving FAILED puts the passage on record. -/
theorem passed_follow {E} {u v : State} (h : u.faultAsserted = true ∧ u.faults.edges = E ++ [true])
    (hf : v.faults = u.faults) : Passed E (followPin u v) := by
  unfold Passed
  rw [edges_followPin, faultAsserted_followPin, h.1, hf, h.2]
  cases v.faultAsserted <;> simp

/-- The side is FAILED, so that FAULT_N stays asserted, and its record is `E`. -/
def Failing (E : List Bool) (d : SideId) (u : State) : Prop :=
  (u.side d).head.health = .failed ∧ u.faults.edges = E

/-- A FAILED side asserts FAULT_N. -/
theorem failing_asserted {E d} {u : State} (h : Failing E d u) : u.faultAsserted = true := by
  have h1 := h.1
  unfold State.faultAsserted
  cases d <;> simp only [State.side] at h1 <;> rw [h1] <;> simp

/-- A clear changes no level while a side is FAILED. -/
theorem failing_clear {E d k sc} {u : State} (h : Failing E d u) : Failing E d (clearCond k sc u) := by
  have hh : ((clearCond k sc u).side d).head.health = .failed := by simpa using h.1
  refine ⟨hh, ?_⟩
  rw [edges_clearCond, failing_asserted h, failing_asserted (E := (clearCond k sc u).faults.edges) ⟨hh, rfl⟩,
      if_pos rfl]; exact h.2

/-- Nor does a raise. -/
theorem failing_raise {E d k sc dt} {u : State} (h : Failing E d u) : Failing E d (raiseCond k sc dt u) := by
  have hh : ((raiseCond k sc dt u).side d).head.health = .failed := by simpa using h.1
  refine ⟨hh, ?_⟩
  rw [edges_raiseCond, failing_asserted h, failing_asserted (E := (raiseCond k sc dt u).faults.edges) ⟨hh, rfl⟩,
      if_pos rfl]; exact h.2

/-- Nor does a move of something else. -/
theorem failing_same {E d} {u v : State} (h : Failing E d u) (hs : (v.side d).head = (u.side d).head)
    (hf : v.faults = u.faults) : Failing E d v :=
  ⟨by rw [hs]; exact h.1, by rw [hf]; exact h.2⟩

/-- Nor does a teardown. -/
theorem failing_teardown {E d} {u : State} (h : Failing E d u) : Failing E d (teardown d u) := by
  unfold teardown
  refine failing_clear (failing_same h ?_ ?_) <;> simp

/-- Nor does stopping the watchdogs. -/
theorem failing_stop {E d} {u : State} (h : Failing E d u) : Failing E d (stopWatchdogs d u) := by
  unfold stopWatchdogs
  refine failing_clear (failing_same h ?_ ?_) <;> simp

/-- A teardown keeps the passage on record. -/
theorem passed_teardown {E d} {u : State} (h : Passed E u) : Passed E (teardown d u) := by
  unfold teardown
  refine passed_clear (passed_same h ?_ ?_)
  · cases d <;> simp [pinView, updDisp, updColl, updCap, updSide]
  · simp

/-- So does stopping the watchdogs. -/
theorem passed_stop {E d} {u : State} (h : Passed E u) : Passed E (stopWatchdogs d u) := by
  unfold stopWatchdogs
  refine passed_clear (passed_same h ?_ ?_)
  · cases d <;> simp [pinView, updDisp, updCap, updSide]
  · simp

/-- An entry to FAILED of a side in service, out of which it recovers by itself, asserts FAULT_N for the passage and
releases it again, where it was released before (R120, R168). -/
theorem edges_enterFailed_recovering (release) (d : SideId) (code : Nat) (s : State) (hna : s.faultAsserted = false)
    (hrel : ∀ t : State, (t.side d).deferred = (s.side d).deferred →
      (t.side d).cap.fip = (s.side d).cap.fip ∨ (t.side d).cap.fip = none → teardownRelease release d t = teardown d t)
    (hauto : (s.side d).cfg.head.autoRecover = true)
    (hatt : (s.side d).head.attempts < (s.side d).cfg.head.recoverMax) (hsv : (s.side d).inService = true) :
    (enterFailed release d code s).faults.edges = s.faults.edges ++ [true, false] := by
  unfold enterFailed
  dsimp only
  have hs0 : (flagPage .faults s).faultAsserted = false := hna
  generalize h0 : flagPage .faults s = s0 at hs0
  have e0 : s0.faults = s.faults ∧ (∀ e, s0.side e = s.side e) ∧ pinView s0 = pinView s := by rw [← h0]; exact ⟨rfl,
      fun e => by cases e <;> rfl, rfl⟩
  generalize h1 : followPin s0 (updHead d (fun h => { h with health := .failed, cause := code }) s0) = s1
  have on1 : Failing (s.faults.edges ++ [true]) d s1 := by
    have hfa : (updHead d (fun h => { h with health := .failed, cause := code }) s0).faultAsserted = true :=
        failing_asserted (E := (updHead d (fun h => { h with health := .failed, cause :=
            code }) s0).faults.edges) (d := d) ⟨by simp, rfl⟩
    refine ⟨by rw [← h1]; simp, ?_⟩
    rw [← h1, edges_followPin, hfa, hs0, if_neg (by decide)]; simp [e0.1]
  have le1 : FlagsWithin (recIndex .sideFailed (scopeOf d)) s1 s := FlagsWithin.same (by rw [← h1]; simp [e0.1])
  have s1side : s1.side d = { s.side d with head := { (s.side d).head with health := .failed, cause := code } } ∧
      s1.side d.other = s.side d.other := by rw [← h1]; simp [e0.2.1]
  have s1fr : s1.inReset = s.inReset ∧ s1.snoop = s.snoop := by rw [← h1, ← h0]; simp
  generalize h2 : raiseCond .sideFailed (scopeOf d) (BitVec.ofNat 32 code) (clearCond .sideDegraded (scopeOf d) s1) =
      s2
  have on2 : Failing (s.faults.edges ++ [true]) d s2 := by rw [← h2]; exact failing_raise (failing_clear on1)
  have le2 : FlagsWithin (recIndex .sideFailed (scopeOf d)) s2 s :=
      by rw [← h2]; exact (within_raise _ _ _ _).trans ((within_clear _ _ _ _).trans le1)
  have s2side : s2.side d = s1.side d ∧ s2.side d.other = s1.side d.other ∧ s2.inReset = s1.inReset ∧
      s2.snoop = s1.snoop := by rw [← h2]; simp
  rw [hrel s2 (by rw [s2side.1, s1side.1]) (.inl (by rw [s2side.1, s1side.1]))]
  generalize h3 : stopWatchdogs d (teardown d s2) = s3
  have on3 : Failing (s.faults.edges ++ [true]) d s3 := by
    rw [← h3]; exact failing_stop (failing_teardown on2)
  have le3 : FlagsWithin (recIndex .sideFailed (scopeOf d)) s3 s :=
      by rw [← h3]; exact (within_stop _ _ _).trans ((within_teardown _ _ _).trans le2)
  have s3h : (s3.side d).head = (s2.side d).head ∧ (s3.side d).cfg = (s2.side d).cfg ∧
      (s3.side d).deferred = (s2.side d).deferred ∧ (s3.side d).cap.fip = none ∧ s3.side d.other = s2.side d.other ∧
          s3.inReset = s2.inReset ∧ s3.snoop = s2.snoop := by
    rw [← h3]; simp
  generalize h4 : reformTarget d (reformCab s3) = s4
  have s4s : (∀ e, s4.side e = s3.side e) ∧ s4.faults = s3.faults ∧ s4.inReset = s3.inReset ∧ s4.snoop = s3.snoop :=
      by rw [← h4]; simp
  have on4 : Failing (s.faults.edges ++ [true]) d s4 := failing_same on3 (by rw [s4s.1]) s4s.2.1
  have hcfg : (s4.side d).cfg = (s.side d).cfg := by rw [s4s.1, s3h.2.1, s2side.1, s1side.1]
  have hat : (s4.side d).head.attempts = (s.side d).head.attempts := by rw [s4s.1, s3h.1, s2side.1, s1side.1]
  unfold recoveryTest
  dsimp only
  rw [hcfg, hat, if_pos hauto, if_pos hatt]
  unfold enterRecovering
  generalize h5 : updHead d (fun h => { h with attempts := h.attempts + 1 }) s4 = s5
  have s5s : (s5.side d).head.health = .failed ∧ s5.faults = s4.faults ∧ s5.inReset = s4.inReset ∧
      s5.snoop = s4.snoop ∧ s5.side d.other = s4.side d.other ∧ (s5.side d).deferred = (s4.side d).deferred ∧
          (s5.side d).cap = (s4.side d).cap := by rw [← h5]; simp [on4.1]
  have on5 : Failing (s.faults.edges ++ [true]) d s5 := ⟨s5s.1, by rw [s5s.2.1]; exact on4.2⟩
  generalize h6 : followPin s5 (updHead d (fun h => { h with health := .recovering }) s5) = s6
  have rec6 : Passed s.faults.edges s6 := by rw [← h6]; exact passed_follow ⟨failing_asserted on5, on5.2⟩ (by simp)
  have s6s : (s6.side d).head.health = .recovering ∧ s6.faults.table = s5.faults.table ∧ s6.inReset = s5.inReset ∧
      s6.snoop = s5.snoop ∧ s6.side d.other = s5.side d.other ∧ (s6.side d).deferred = (s5.side d).deferred ∧
          (s6.side d).cap = (s5.side d).cap := by rw [← h6]; simp
  have td : teardownRelease release d (clearHealth d s6) = teardown d (clearHealth d s6) := by
    apply hrel
    · rw [side_clearHealth, s6s.2.2.2.2.2.1, s5s.2.2.2.2.2.1, s4s.1, s3h.2.2.1, s2side.1, s1side.1]
    · right; rw [side_clearHealth, s6s.2.2.2.2.2.2, s5s.2.2.2.2.2.2, s4s.1, s3h.2.2.2.1]
  have hlast : ∀ was, (leaveUp release was d s6).faults = (stopWatchdogs d (teardown d (clearHealth d s6))).faults :=
      by
    intro was; unfold leaveUp; dsimp only; rw [td]; cases was <;> simp
  rw [hlast]
  generalize h7 : stopWatchdogs d (teardown d (clearHealth d s6)) = s7
  have rec7 : Passed s.faults.edges s7 := by
    rw [← h7]; refine passed_stop (passed_teardown ?_)
    unfold clearHealth
    exact passed_clear (passed_clear (passed_clear rec6))
  have na : s7.faultAsserted = false := by
    rw [← Bool.not_eq_true]; intro ha
    have : s.faultAsserted = true := by
      refine asserted_le (k := .sideFailed) (sc := scopeOf d) (u := s7) ?_ ?_ ?_ (by decide) ha
      · rw [← h7]
        exact (within_stop _ _ _).trans ((within_teardown _ _ _).trans ((within_clearHealth _ _ _).trans
            ((FlagsWithin.same (s6s.2.1.trans (by rw [s5s.2.1, s4s.2.1]))).trans le3)))
      · have hs7 : ((s7.side d).head.health = .recovering) ∧ s7.side d.other = s6.side d.other ∧
            s7.inReset = s6.inReset ∧ s7.snoop = s6.snoop := by rw [← h7]; simp [s6s.1]
        have ho : s7.side d.other = s.side d.other := by rw [hs7.2.1, s6s.2.2.2.2.1, s5s.2.2.2.2.1, s4s.1,
            s3h.2.2.2.2.1, s2side.2.1, s1side.2]
        have hr : s7.inReset = s.inReset := by rw [hs7.2.2.1, s6s.2.2.1, s5s.2.2.1, s4s.2.2.1, s3h.2.2.2.2.2.1,
            s2side.2.2.1, s1fr.1]
        have hn : s7.snoop = s.snoop := by rw [hs7.2.2.2, s6s.2.2.2.1, s5s.2.2.2.1, s4s.2.2.2, s3h.2.2.2.2.2.2,
            s2side.2.2.2, s1fr.2]
        have hh : ((s7.side d).head.health == .failed) = ((s.side d).head.health == .failed) := by
          rw [hs7.1]
          unfold Side.inService at hsv
          cases e : (s.side d).head.health <;> rw [e] at hsv <;> first | rfl | cases hsv
        unfold pinView; rw [hr, hn]
        cases d <;> simp only [State.side, SideId.other] at ho hh <;> rw [ho, hh]
      · rw [← h7]
        have := (clearHealth_off (d := d) (s := s6)).1
        unfold isActive at this ⊢
        rw [faultRec_stopWatchdogs _ _ (by cases d <;> decide),
            faultRec_teardown _ _ (by cases d <;> decide)]; exact this
    rw [hna] at this; cases this
  rcases rec7 with ⟨h, _⟩ | ⟨_, h⟩
  · rw [na] at h; cases h
  · exact h

end Sys2Proof.Laws
end

