-- ==== Sys2Proof/Laws/PerInstr.lean ====
section
/-! SUPPORT. Laws about every command as syntax: what makes it well-formed, in plain propositions, and that no word of
the table spells it. -/

namespace Sys2Proof.Laws.Form

open Sys2Proof Sys2Proof.Machine

/-- The offset belongs to a field that acts when a beat strobes it: GLOBAL_APPLY, RING_READ, CMD_SEQ, a side's APPLY or a
slot's TAG (R183). -/
def acts (o : Nat) : Prop :=
  o < 0x006 ∨ (0x008 ≤ o ∧ o < 0x00C) ∨ (0x200 ≤ o ∧ o < 0x204) ∨ (0x600 ≤ o ∧ o < 0x604) ∨
    ∃ n < 6, o = 0xA08 + 16 * n

/-- What the row of a command asks of its operands. -/
def asked : Instr → Prop
  | .settingsWrite off _ strb =>
    off.toNat % 8 = 0 ∧ off.toNat < 0xA60 ∧ ∀ k < 8, strb.getLsbD k = true → ¬acts (off.toNat + k)
  | .globalApply _ strb => strb ≠ 0
  | .apply _ _ strb => strb ≠ 0
  | .ringRead _ strb => strb ≠ 0
  | .unknownCommand code _ _ => code.toNat = 0 ∨ 5 ≤ code.toNat
  | .mailboxSubmission _ tag => tag ≠ 0
  | _ => True

/-- A command is well-formed exactly when its operands are what its row asks, and no word of the table spells it. -/
def Statement (i : Instr) : Prop := (i.wf = true ↔ asked i) ∧ ∀ nbits w, decodeTableWord nbits w ≠ some i

theorem isActionByte_iff (o : Nat) : isActionByte o = true ↔ acts o := by
  have h : ∀ n, tagOff n = 0xA08 + 16 * n := fun n => by simp only [tagOff, slotOff]; omega
  simp [isActionByte, acts, h, or_assoc]

theorem no_word (i : Instr) (nbits w : Nat) : decodeTableWord nbits w ≠ some i := by
  simp [decodeTableWord]

theorem writeBurstTaken (b : Burst) : Statement (.writeBurstTaken b) :=
  ⟨⟨fun _ => trivial, fun _ => rfl⟩, no_word _⟩

theorem writeDataBeatTaken (data : BitVec 64) (strb : BitVec 8) : Statement (.writeDataBeatTaken data strb) :=
  ⟨⟨fun _ => trivial, fun _ => rfl⟩, no_word _⟩

theorem readBurstTaken (b : Burst) : Statement (.readBurstTaken b) :=
  ⟨⟨fun _ => trivial, fun _ => rfl⟩, no_word _⟩

theorem settingsWrite (off : BitVec 12) (data : BitVec 64) (strb : BitVec 8) : Statement (.settingsWrite off data strb) := by
  refine ⟨?_, no_word _⟩
  simp only [Instr.wf, asked, strobedOffsets, Bool.and_eq_true, beq_iff_eq, decide_eq_true_eq, List.all_eq_true,
    List.mem_filterMap, List.mem_range, and_assoc]
  refine and_congr_right fun _ => and_congr_right fun _ => ⟨fun h k hk hs ha => ?_, ?_⟩
  · have := h _ ⟨k, hk, by rw [if_pos hs]⟩
    rw [(isActionByte_iff _).2 ha] at this
    simp at this
  · rintro h o ⟨k, hk, hs⟩
    split at hs
    · rename_i hb
      cases hs
      have : isActionByte (off.toNat + k) = false := by
        rw [← Bool.not_eq_true, isActionByte_iff]
        exact h k hk hb
      simp [this]
    · cases hs

theorem globalApply (value : BitVec 32) (strb : BitVec 4) : Statement (.globalApply value strb) :=
  ⟨by simp [Instr.wf, asked], no_word _⟩

theorem apply (d : SideId) (value : BitVec 32) (strb : BitVec 4) : Statement (.apply d value strb) :=
  ⟨by simp [Instr.wf, asked], no_word _⟩

theorem ringRead (value : BitVec 16) (strb : BitVec 2) : Statement (.ringRead value strb) :=
  ⟨by simp [Instr.wf, asked], no_word _⟩

theorem powerOn (arg : BitVec 16) (sq : BitVec 32) : Statement (.powerOn arg sq) :=
  ⟨⟨fun _ => trivial, fun _ => rfl⟩, no_word _⟩

theorem powerOff (arg : BitVec 16) (sq : BitVec 32) : Statement (.powerOff arg sq) :=
  ⟨⟨fun _ => trivial, fun _ => rfl⟩, no_word _⟩

theorem recover (arg : BitVec 16) (sq : BitVec 32) : Statement (.recover arg sq) :=
  ⟨⟨fun _ => trivial, fun _ => rfl⟩, no_word _⟩

theorem ackFaults (arg : BitVec 16) (sq : BitVec 32) : Statement (.ackFaults arg sq) :=
  ⟨⟨fun _ => trivial, fun _ => rfl⟩, no_word _⟩

theorem unknownCommand (code : Byte) (arg : BitVec 16) (sq : BitVec 32) :
    Statement (.unknownCommand code arg sq) := by
  refine ⟨?_, no_word _⟩
  simp only [Instr.wf, asked, Bool.not_eq_true', Bool.and_eq_false_iff, decide_eq_false_iff_not]
  omega

theorem mailboxSubmission (slot : Fin 6) (tag : Byte) : Statement (.mailboxSubmission slot tag) :=
  ⟨by simp [Instr.wf, asked], no_word _⟩

theorem heldLine0WriteTaken : Statement .heldLine0WriteTaken :=
  ⟨⟨fun _ => trivial, fun _ => rfl⟩, no_word _⟩

theorem heldFrameStartTaken : Statement .heldFrameStartTaken :=
  ⟨⟨fun _ => trivial, fun _ => rfl⟩, no_word _⟩

theorem downstreamWriteGrant : Statement .downstreamWriteGrant :=
  ⟨⟨fun _ => trivial, fun _ => rfl⟩, no_word _⟩

theorem downstreamWriteResponse (id : BitVec 8) (resp : Resp) : Statement (.downstreamWriteResponse id resp) :=
  ⟨⟨fun _ => trivial, fun _ => rfl⟩, no_word _⟩

theorem downstreamReadData (id : BitVec 8) (data : BitVec 64) (resp : Resp) : Statement (.downstreamReadData id data resp) :=
  ⟨⟨fun _ => trivial, fun _ => rfl⟩, no_word _⟩

theorem frameMissing (d : SideId) : Statement (.frameMissing d) :=
  ⟨⟨fun _ => trivial, fun _ => rfl⟩, no_word _⟩

theorem displayIdle (d : SideId) : Statement (.displayIdle d) :=
  ⟨⟨fun _ => trivial, fun _ => rfl⟩, no_word _⟩

theorem stabilizationExpiry (d : SideId) : Statement (.stabilizationExpiry d) :=
  ⟨⟨fun _ => trivial, fun _ => rfl⟩, no_word _⟩

theorem offDwellExpiry (d : SideId) : Statement (.offDwellExpiry d) :=
  ⟨⟨fun _ => trivial, fun _ => rfl⟩, no_word _⟩

theorem raiseStepExpiry (d : SideId) : Statement (.raiseStepExpiry d) :=
  ⟨⟨fun _ => trivial, fun _ => rfl⟩, no_word _⟩

theorem lowerStepExpiry (d : SideId) : Statement (.lowerStepExpiry d) :=
  ⟨⟨fun _ => trivial, fun _ => rfl⟩, no_word _⟩

theorem lampsLevelChange (level : Bool) : Statement (.lampsLevelChange level) :=
  ⟨⟨fun _ => trivial, fun _ => rfl⟩, no_word _⟩

theorem lampMeasurementExpiry : Statement .lampMeasurementExpiry :=
  ⟨⟨fun _ => trivial, fun _ => rfl⟩, no_word _⟩

theorem rampTick : Statement .rampTick :=
  ⟨⟨fun _ => trivial, fun _ => rfl⟩, no_word _⟩

theorem pwmPeriodStart : Statement .pwmPeriodStart :=
  ⟨⟨fun _ => trivial, fun _ => rfl⟩, no_word _⟩

theorem requestSent : Statement .requestSent :=
  ⟨⟨fun _ => trivial, fun _ => rfl⟩, no_word _⟩

theorem cancelledCharacterEnd : Statement .cancelledCharacterEnd :=
  ⟨⟨fun _ => trivial, fun _ => rfl⟩, no_word _⟩

theorem responseReceived (c : RxChar) : Statement (.responseReceived c) :=
  ⟨⟨fun _ => trivial, fun _ => rfl⟩, no_word _⟩

theorem noAnswer : Statement .noAnswer :=
  ⟨⟨fun _ => trivial, fun _ => rfl⟩, no_word _⟩

theorem guardEnd : Statement .guardEnd :=
  ⟨⟨fun _ => trivial, fun _ => rfl⟩, no_word _⟩

theorem ringRecordIssue : Statement .ringRecordIssue :=
  ⟨⟨fun _ => trivial, fun _ => rfl⟩, no_word _⟩

theorem sectionIssue : Statement .sectionIssue :=
  ⟨⟨fun _ => trivial, fun _ => rfl⟩, no_word _⟩

theorem ringRecordResponse (resp : Resp) : Statement (.ringRecordResponse resp) :=
  ⟨⟨fun _ => trivial, fun _ => rfl⟩, no_word _⟩

theorem sectionResponse (resp : Resp) : Statement (.sectionResponse resp) :=
  ⟨⟨fun _ => trivial, fun _ => rfl⟩, no_word _⟩

theorem resetAssertion : Statement .resetAssertion :=
  ⟨⟨fun _ => trivial, fun _ => rfl⟩, no_word _⟩

theorem resetRelease (anchor : BitVec 2) : Statement (.resetRelease anchor) :=
  ⟨⟨fun _ => trivial, fun _ => rfl⟩, no_word _⟩

theorem startEdge (low : Bool) : Statement (.startEdge low) :=
  ⟨⟨fun _ => trivial, fun _ => rfl⟩, no_word _⟩

theorem responseCharacterComplete (c : RxChar) : Statement (.responseCharacterComplete c) :=
  ⟨⟨fun _ => trivial, fun _ => rfl⟩, no_word _⟩

theorem pwmHighTimeEnd (d : SideId) : Statement (.pwmHighTimeEnd d) :=
  ⟨⟨fun _ => trivial, fun _ => rfl⟩, no_word _⟩

end Sys2Proof.Laws.Form
end

