-- ==== Sys2Proof/Laws/Snoop.lean ====
section
/-! SUPPORT. The settings snoop's beats: which acting fields a beat strobes, and what a beat of one acting field alone
does (R183). -/

namespace Sys2Proof.Laws

open Sys2Proof Sys2Proof.Machine

/-- Some strobe is set. -/
theorem strobe_ne_zero_iff {w : Nat} (b : BitVec w) : b ≠ 0 ↔ ∃ k, k < w ∧ b.getLsbD k = true := by
  constructor
  · intro h
    by_contra hc
    apply h
    apply BitVec.eq_of_getLsbD_eq
    intro k hk
    by_contra h2
    exact hc ⟨k, hk, by simpa using h2⟩
  · rintro ⟨k, hk, h⟩ hz
    rw [hz] at h; simp at h

/-- A beat strobes a byte of the offsets `lo` to below `hi`. -/
theorem hits_iff (off : Nat) (strb : BitVec 8) (lo hi : Nat) :
    hits (strobedOffsets off strb) lo hi = true ↔ ∃ k, k < 8 ∧ strb.getLsbD k = true ∧ lo ≤ off + k ∧ off + k < hi := by
  unfold hits strobedOffsets
  rw [List.any_eq_true]
  constructor
  · rintro ⟨o, ho, hc⟩
    rw [List.mem_filterMap] at ho
    obtain ⟨k, hk, hk2⟩ := ho
    split at hk2
    · cases hk2
      simp only [Bool.and_eq_true, decide_eq_true_eq] at hc
      exact ⟨k, List.mem_range.mp hk, by assumption, hc⟩
    · cases hk2
  · rintro ⟨k, hk, h1, h2⟩
    refine ⟨off + k, ?_, by simpa using h2⟩
    rw [List.mem_filterMap]
    exact ⟨k, List.mem_range.mpr hk, by rw [if_pos h1]⟩

/-- A beat that strobes no TAG submits nothing. -/
theorem slotActions_none {os : List Nat}
    (h : ∀ n : Fin 6, hits os (tagOff n.val) (tagOff n.val + 1) = false) (ns : List (Fin 6)) (s : State) :
    slotActions os ns s = s := by
  induction ns generalizing s with
  | nil => rfl
  | cons n rest ih => unfold slotActions when; rw [h n, if_neg (by decide), ih]

/-- A beat of GLOBAL_APPLY bytes alone is merged and applies the global settings (R183, R184). -/
theorem snoopBeat_global (v : BitVec 32) (strb : BitVec 4) (h : strb ≠ 0) (s : State) :
    snoopBeat 0 ⟨v.setWidth 64, strb.setWidth 8⟩ s = globalApplyOp (mergeOp 0 ⟨v.setWidth 64, strb.setWidth 8⟩ s) := by
  have hb : ∀ k, (strb.setWidth 8).getLsbD k = true → k < 4 := by
    intro k hk; rw [BitVec.getLsbD_setWidth, Bool.and_eq_true] at hk; exact BitVec.lt_of_getLsbD hk.2
  have off : ∀ lo hi, 4 ≤ lo → hits (strobedOffsets 0 (strb.setWidth 8)) lo hi = false := by
    intro lo hi hl
    rw [← Bool.not_eq_true, hits_iff]
    rintro ⟨k, hk, h1, h2, h3⟩
    have := hb k h1; omega
  have on : hits (strobedOffsets 0 (strb.setWidth 8)) 0 4 = true := by
    rw [hits_iff]
    obtain ⟨k, hk, h1⟩ := (strobe_ne_zero_iff strb).mp h
    exact ⟨k, by omega, by rw [BitVec.getLsbD_setWidth, h1]; simp; omega, by omega, by omega⟩
  unfold snoopBeat snoopActions
  rw [slotActions_none (fun n => off _ _ (by unfold tagOff slotOff; omega)), off _ _ (by omega), off _ _ (by omega),
      off _ _ (by omega), off _ _ (by omega), on]
  rfl

/-- A beat of RING_READ bytes alone is merged and takes the read index (R160). -/
theorem snoopBeat_ring (v : BitVec 16) (strb : BitVec 2) (h : strb ≠ 0) (s : State) :
    snoopBeat 0 ⟨v.setWidth 64 <<< 32, strb.setWidth 8 <<< 4⟩ s =
      ringReadOp (mergeOp 0 ⟨v.setWidth 64 <<< 32, strb.setWidth 8 <<< 4⟩ s) := by
  have hb : ∀ k, (strb.setWidth 8 <<< 4).getLsbD k = true → 4 ≤ k ∧ k < 6 := by
    intro k hk; rw [BitVec.getLsbD_shiftLeft] at hk
    simp only [Bool.and_eq_true, Bool.not_eq_true', decide_eq_true_eq, decide_eq_false_iff_not,
        BitVec.getLsbD_setWidth] at hk
    have := BitVec.lt_of_getLsbD hk.2.2; omega
  have off : ∀ lo hi, (hi ≤ 4 ∨ 6 ≤ lo) → hits (strobedOffsets 0 (strb.setWidth 8 <<< 4)) lo hi = false := by
    intro lo hi hl
    rw [← Bool.not_eq_true, hits_iff]
    rintro ⟨k, hk, h1, h2, h3⟩
    have := hb k h1; omega
  have on : hits (strobedOffsets 0 (strb.setWidth 8 <<< 4)) 4 6 = true := by
    rw [hits_iff]
    obtain ⟨k, hk, h1⟩ := (strobe_ne_zero_iff strb).mp h
    refine ⟨k + 4, by omega, ?_, by omega, by omega⟩
    rw [BitVec.getLsbD_shiftLeft, BitVec.getLsbD_setWidth, show k + 4 - 4 = k by omega, h1]
    simp; omega
  unfold snoopBeat snoopActions
  rw [slotActions_none (fun n => off _ _ (by unfold tagOff slotOff; omega)), off 0x600 0x604 (by omega),
      off 0x200 0x204 (by omega), off 8 12 (by omega), on, off 0 4 (by omega)]
  rfl

/-- A beat of APPLY bytes of a side alone is merged and applies the side (R185). -/
theorem snoopBeat_apply (d : SideId) (v : BitVec 32) (strb : BitVec 4) (h : strb ≠ 0) (s : State) :
    snoopBeat (sideArea d) ⟨v.setWidth 64, strb.setWidth 8⟩ s =
      sideApply d (mergeOp (sideArea d) ⟨v.setWidth 64, strb.setWidth 8⟩ s) := by
  have hb : ∀ k, (strb.setWidth 8).getLsbD k = true → k < 4 := by
    intro k hk; rw [BitVec.getLsbD_setWidth, Bool.and_eq_true] at hk; exact BitVec.lt_of_getLsbD hk.2
  have off : ∀ lo hi, (hi ≤ sideArea d ∨ sideArea d + 4 ≤ lo) →
      hits (strobedOffsets (sideArea d) (strb.setWidth 8)) lo hi = false := by
    intro lo hi hl
    rw [← Bool.not_eq_true, hits_iff]
    rintro ⟨k, hk, h1, h2, h3⟩
    have := hb k h1; omega
  have on : hits (strobedOffsets (sideArea d) (strb.setWidth 8)) (sideArea d) (sideArea d + 4) = true := by
    rw [hits_iff]
    obtain ⟨k, hk, h1⟩ := (strobe_ne_zero_iff strb).mp h
    exact ⟨k, by omega, by rw [BitVec.getLsbD_setWidth, h1]; simp; omega, by omega, by omega⟩
  unfold snoopBeat snoopActions
  have hsa : sideArea d = 0x200 ∨ sideArea d = 0x600 := by cases d <;> simp [sideArea]
  rw [slotActions_none (fun n => off _ _ (by unfold tagOff slotOff; omega))]
  cases d
  · have e : sideArea .left = 0x200 := rfl
    rw [off 0x600 0x604 (by omega), off 8 12 (by omega), off 4 6 (by omega), off 0 4 (by omega),
        show hits _ 0x200 0x204 = true from on]
    simp only [when, if_true, Bool.false_eq_true, if_false]
  · have e : sideArea .right = 0x600 := rfl
    rw [off 0x200 0x204 (by omega), off 8 12 (by omega), off 4 6 (by omega), off 0 4 (by omega),
        show hits _ 0x600 0x604 = true from on]
    simp only [when, if_true, Bool.false_eq_true, if_false]

/-- A beat of a TAG byte alone is merged and submits its slot (R145). -/
theorem snoopBeat_tag (n : Fin 6) (tag : Byte) (s : State) :
    snoopBeat (tagOff n.val) ⟨tag.setWidth 64, 1⟩ s = submitSlot n (mergeOp (tagOff n.val) ⟨tag.setWidth 64, 1⟩ s) := by
  unfold snoopBeat
  have : strobedOffsets (tagOff n.val) 1 = [tagOff n.val] := by
    unfold strobedOffsets
    simp [List.range_succ]
  rw [this]
  fin_cases n <;> simp [snoopActions, slotActions, when, hits, tagOff, slotOff]

end Sys2Proof.Laws
end

