-- ==== Sys2Proof/Tests/Slice0.lean ====
section
/-! SUPPORT. The model's own tests: ill-formed commands that the check refuses, worked examples of the manual, and for
each statement of Obligations.lean with hypotheses a state and operands that meet them, clause by clause. -/

namespace Sys2Proof.Tests

open Sys2Proof Sys2Proof.Machine Sys2Proof.Safety

-- The kernel evaluates these one after the other: side by side each waits in a thread of its own.
set_option Elab.async false

/-! ## Small states -/

/-- The state a command answers. -/
def after (c : Instr) (s : State) : State :=
  match exec c s with
  | .next t => t
  | .fault _ => s
  | .refused _ => s

/-- The commands of a list, one after the other. -/
def play (cs : List Instr) (s : State) : State := cs.foldl (fun s c => after c s) s

/-- A side whose frame is two lines of four pixels, its windows at 0x10000000 and 0x10010000. -/
def smallCfg : SideCfg :=
  let c := SideCfg.default .left
  { c with
    cap :=
      { c.cap with
        capCode := 0x10000000, capMask := 0xFFFF0000, dispCode := 0x10010000, dispMask := 0xFFFF0000, width := 4,
        height := 2, pitch := 8, bufBase := ⟨[0x20000000, 0x20001000, 0x20002000], rfl⟩, fallback := 0x20003000,
        shortTolerance := 0 }
    dev := { c.dev with roiX1 := 4, roiY1 := 2 } }

/-- LEFT runs with the small frame, its watchdogs started at 0 and its sequencer HIGH; the injector serves; it is 1000 µs
after reset. -/
def run : State :=
  let s := State.reset
  { s with
    time := 1000
    inj := { s.inj with serving := true }
    left :=
      { s.left with
        cfg := smallCfg
        configured := true
        cap := { s.left.cap with watchdog := some 0 }
        disp := { s.left.disp with watchdog := some 0 }
        head := { s.left.head with health := .running }
        seq := { state := .high, step := 3, timer := none } } }

/-- The same at another time. -/
def at' (t : Time) (s : State) : State := { s with time := t }

/-- LEFT in another health state. -/
def health (h : Health) (s : State) : State := updHead .left (fun x => { x with health := h }) s

/-- A burst of `n` beats of 8 bytes of type INCR. -/
def incr (id : BitVec 8) (a : Addr) (n : Nat) : Burst := ⟨id, a, BitVec.ofNat 8 (n - 1), .eight, .incr, 0⟩

/-- Line 0 of LEFT's frame: eight bytes at the base of the capture window. -/
def line0 : Burst := incr 5 0x10000000 1

/-- The last line of LEFT's frame. -/
def line1 : Burst := incr 5 0x10000008 1

/-- A frame of LEFT is in progress: line 0 written, granted and answered. -/
def framed : State :=
  play [.writeBurstTaken line0, .writeDataBeatTaken 0x0BB80BB80BB80BB8 0xFF, .downstreamWriteGrant,
    .downstreamWriteResponse 5 .okay] run

/-- Its last line is taken too, so that the frame is closing. -/
def closing : State :=
  play [.writeBurstTaken line1, .writeDataBeatTaken 0x0BB80BB80BB80BB8 0xFF, .downstreamWriteGrant] framed

/-- It is complete, in buffer 0. -/
def completed : State := after (.downstreamWriteResponse 5 .okay) closing

/-- Buffer 0 is SHOWN and a display read is outstanding. -/
def shown : State := after (.readBurstTaken (incr 2 0x10010000 1)) completed

/-- A mailbox entry of slot 0 for LEFT. -/
def mail : LinkEntry := ⟨.mailbox 0 7, .left, true, 0x3000, 0, 0⟩

/-- An exposure entry of LEFT. -/
def expo : LinkEntry := ⟨.exposure, .left, false, 0x3012, 0x03AA, 0⟩

/-- The link in a line state, with this entry in flight, begun at REFCLK count 0. -/
def onLink (l : LineState) (e : LinkEntry) (s : State) : State :=
  { s with link := { s.link with line := l, inFlight := some e, divisor := 13, timeout := 8 } }

/-- A character well received. -/
def good (b : Byte) : RxChar := ⟨b, false, true⟩

/-- A report of this kind and level. -/
def report (k : FaultKind) (level : Nat) : Report := ⟨k, .left, .event, level, 0, 0, 1, 0, 0⟩

/-! ## The smoke test of the check -/

theorem test_wf_settingsWrite_misaligned : Instr.wf (.settingsWrite 0x011 0 0) = false := by decide
theorem test_wf_settingsWrite_beyond : Instr.wf (.settingsWrite 0xA60 0 0xFF) = false := by decide
theorem test_wf_settingsWrite_apply : Instr.wf (.settingsWrite 0x200 0 0x08) = false := by decide
theorem test_wf_settingsWrite_tag : Instr.wf (.settingsWrite 0xA58 0 0x01) = false := by decide
theorem test_wf_settingsWrite_plain : Instr.wf (.settingsWrite 0x200 0 0xF0) = true := by decide
theorem test_wf_globalApply : Instr.wf (.globalApply 1 0) = false := by decide
theorem test_wf_apply : Instr.wf (.apply .right 1 0) = false := by decide
theorem test_wf_ringRead : Instr.wf (.ringRead 1 0) = false := by decide
theorem test_wf_unknownCommand :
    (Instr.wf (.unknownCommand 1 0 0), Instr.wf (.unknownCommand 4 0 0), Instr.wf (.unknownCommand 5 0 0)) =
      (false, false, true) := by decide
theorem test_wf_mailboxSubmission : Instr.wf (.mailboxSubmission 0 0) = false := by decide
theorem test_decode_none : decodeTableWord 32 0 = none := rfl

/-! ## Worked examples of the manual -/

/-- The default settings are those that the image's defaults read as. -/
theorem test_defaults :
    pendingSide .left [] = SideCfg.default .left ∧ pendingSide .right [] = SideCfg.default .right ∧
      pendingGlobal [] = GlobalCfg.default := by decide +kernel

/-- 2.3: the container at offset 11,522 with raw code 3000 develops to 737. -/
theorem test_pixel :
    let v := { (SideCfg.default .left).dev with gain11 := 384 }
    let p : Snapshot := { nodes := defaultCurve, gains := (Table.const 128 256).set 0 128 }
    (decompand v 3000, gainedValue v 3 1 3000, attenuate v.glareKnee 128 30144, developed v p 0 30144, binOf 30144) =
      (20352, 30144, 23264, 737, 14) := by decide +kernel

/-- 2.3: values at the edges. -/
theorem test_pixel_edges :
    let v := (SideCfg.default .left).dev
    (gainedValue v 0 0 256, gainedValue v 0 0 4095, toneMap defaultCurve 1, toneMap defaultCurve 2,
      toneMap defaultCurve 1048575) = (0, 86720, 0, 51, 1022) := by decide +kernel

/-- 3.4: the automatic update of the default curve. -/
theorem test_tone :
    let h : Table Nat 20 := (((Table.const 20 0).set 8 100).set 10 600 |>.set 12 250).set 15 50
    (toneUpdate (SideCfg.default .left).tone defaultCurve
      { Stats.fresh .day with hist := h, total := 1000 }).list =
      [4, 47, 90, 132, 175, 218, 261, 303, 346, 414, 457, 562, 606, 711, 754, 796, 852, 895, 937, 980, 1023] := by
  decide +kernel

/-- 3.4: a host curve with faults in it. -/
theorem test_monotone :
    ((monotone (((defaultCurve.set 2 90).set 3 85).set 4 150)).list.take 5) = [0, 51, 90, 90, 150] := by decide +kernel

/-- 3.6: the exposure steps 5, 9 and 12. -/
theorem test_exposure :
    let c := (SideCfg.default .left).expo
    (newExposure c 168 1000, newExposure c 163 938, newExposure c 40 1200, newExposure c 40 55000,
      expoWanted c 168 1000, expoWanted c 163 938, expoWanted c 40 1200) =
      (938, 916, 1500, 60000, true, false, true) := by decide +kernel

/-- 4.5: exposure octaves, and the key of the worked case. -/
theorem test_scene_key :
    let h : Table Nat 20 := (((Table.const 20 0).set 8 100).set 10 600 |>.set 12 250).set 15 50
    ([4, 1000, 1500, 60000, 1, 65535].map exposureOctave,
      sceneKey { Stats.fresh .day with hist := h, total := 1000 } 1000) = ([32, 159, 167, 253, 0, 255], 265) := by
  decide +kernel

/-- 4.5: the run of verdicts of the worked case with SCENE_PERSIST 3. -/
theorem test_scene_run :
    let c := { (SideCfg.default .left).scene with persist := 3 }
    let go := fun (m : SceneMon) (x : Bool × Nat) => takeVerdict c (verdict c x.1 m.state x.2) m
    (([(false, 330), (true, 330), (true, 328), (true, 345), (true, 300), (true, 290), (true, 270), (true, 250),
        (true, 252), (true, 360)].foldl
      (fun (a : SceneMon × List Scene) x => (go a.1 x, a.2 ++ [(go a.1 x).state]))
        (⟨.day, none, 0, 0⟩, []))) =
      (⟨.dusk, some .day, 1, 0⟩, [.day, .day, .day, .day, .day, .day, .dusk, .dusk, .dusk, .dusk]) := by decide +kernel

/-- 4.3: one tile over eight frames. -/
theorem test_tile :
    let g := (SideCfg.default .left).glare
    (([80, 90, 120, 40, 10, 5, 50].foldl (fun (a : Tile × List Nat) n =>
        (nightTile g n a.1, a.2 ++ [(nightTile g n a.1).gain])) (⟨.clear, 0, 256⟩, [])),
      dayTile g ⟨.dimmed, 0, 128⟩) =
      ((⟨.dimmed, 0, 128⟩, [256, 224, 192, 160, 160, 160, 128]), ⟨.release, 0, 128⟩) := by decide +kernel

/-- 8.8: the request of one exposure write. -/
theorem test_request : requestChars 0x11 expo = [0x11, 0x30, 0x12, 0x03, 0xAA, 0x9A] := by decide +kernel

/-- 10.3: beat addresses and byte ranges of the three examples. -/
theorem test_beats :
    let x : Burst := ⟨0, 0x1003, 2, .four, .incr, 0⟩
    let y : Burst := ⟨0, 0x1038, 3, .eight, .wrap, 0⟩
    let z : Burst := ⟨0, 0x2006, 4, .two, .fixed, 0⟩
    ((List.range 3).map (beatAddr x), byteRange x) = ([0x1003, 0x1004, 0x1008], (0x1003, 0x100B)) ∧
      ((List.range 4).map (beatAddr y), byteRange y) = ([0x1038, 0x1020, 0x1028, 0x1030], (0x1020, 0x103F)) ∧
      ((List.range 5).map (beatAddr z), byteRange z) = (List.replicate 5 0x2006, (0x2006, 0x2007)) := by decide +kernel

/-- A frame runs through the part: line 0 in buffer 0, the last line closing it, then READY, then SHOWN. -/
theorem test_frame :
    (framed.left.cap.fip.map fun f => (f.buf, f.lines, f.outstanding, f.closing)) = some (0, 1, 0, false) ∧
      (closing.left.cap.fip.map fun f => (f.lines, f.highest, f.outstanding, f.closing)) = some (2, 1, 1, true) ∧
      (completed.left.cap.bufs.list.map Buf.code, completed.left.cap.frameNumber) = ([2, 0, 0], 1) ∧
      (shown.left.cap.bufs.list.map Buf.code, shown.left.disp.outstanding) = ([3, 0, 0], 1) := by decide +kernel

/-- The developed line 0 leaves for buffer 0: code 3000 is 20,096 after the black level, octave 14, and develops to 727. -/
theorem test_frame_down :
    framed.down = [.writeAddr ⟨5, 0x20000000, 0, .eight, .incr, 0⟩, .writeData ⟨0x02D702D702D702D7, 0xFF⟩ true] := by
  decide +kernel

/-! ## Witnesses: states and operands that meet the hypotheses of each statement, clause by clause -/

theorem test_witness_IdleStep :
    (at' 100000 run).pending = [] ∧ dueEvents (at' 100000 run) ≠ [] ∧ (at' 999 run).pending = [] ∧
      dueEvents (at' 999 run) = [] ∧ dueEvents { run with inReset := true } = [] := by
  decide +kernel

/-- Which of the part's own events are due: both watchdogs and the PWM period late; none of them in OFF but the period; the
sequencer's and the head's timers; a record alone while a section is flagged too; and a grant. -/
theorem test_dueEvents :
    let timed := fun (h : Health) => updSide .left (fun x =>
      { x with
        head := { x.head with health := h, stageTimer := some ⟨0, 999⟩ }
        seq := { state := .raising, step := 1, timer := some ⟨0, 1001⟩ } }) (at' 999 run)
    let telling : State := { run with faults := { run.faults with lost := 1 }, inj := { run.inj with flagFaults := true } }
    dueEvents (at' 100000 run) = [.frameMissing .left, .displayIdle .left, .pwmPeriodStart] ∧
      dueEvents (at' 100000 (health .off run)) = [.pwmPeriodStart] ∧
      dueEvents (timed .stabilizing) = [.stabilizationExpiry .left] ∧ dueEvents (timed .recovering) = [.offDwellExpiry .left] ∧
      dueEvents (at' 998 (timed .recovering)) = [] ∧
      dueEvents (at' 1001 (timed .running)) = [.raiseStepExpiry .left, .pwmPeriodStart] ∧
      dueEvents (at' 1 telling) = [.sectionIssue] ∧
      dueEvents (at' 1 { telling with snoop := { run.snoop with cfg := { run.snoop.cfg with ringSize := 1 } } }) =
        [.ringRecordIssue] ∧
      dueEvents (at' 1 (after (.writeBurstTaken (incr 5 0x40000000 1)) run)) = [.downstreamWriteGrant] := by
  decide +kernel

theorem test_witness_EveryCommandAnswers :
    ({ run with inReset := true } : State).inReset = true ∧ (∀ level, Instr.rampTick ≠ .lampsLevelChange level) ∧
      Instr.rampTick ≠ .resetAssertion ∧ ∀ a, Instr.rampTick ≠ .resetRelease a :=
  ⟨rfl, fun _ => nofun, nofun, fun _ => nofun⟩

theorem test_witness_ResetAssertionAndRelease :
    (after .resetAssertion run).inReset = true ∧ (after (.resetRelease 1) (after .resetAssertion run)).inReset = false ∧
      (after (.resetRelease 1) (after .resetAssertion run)).anchor = 1 ∧
      (after (.resetRelease 1) (after .resetAssertion run)).faults.edges = [true, false] ∧ run.inReset = false ∧
      after (.resetRelease 1) run = run ∧ after .resetAssertion (after .resetAssertion run) = after .resetAssertion run := by
  decide +kernel

/-- A state in the middle of a run: a frame closing, display reads out, an entry on the link, a report pending. -/
def busy : State :=
  let s := play [.readBurstTaken (incr 2 0x10010000 1), .writeBurstTaken line0,
    .writeDataBeatTaken 0x0BB80BB80BB80BB8 0xFF, .settingsWrite 0xA00 0x0000000030000100 0xFF,
    .mailboxSubmission 0 7] completed
  { s with pending := [.frameMissing .left] }

/-- It has every law, and a step answers a next state. -/
theorem test_witness_invariants :
    (bufferLaws busy.left && lineLaws busy.left && toneLaws busy.left && tileLaws busy.left && displayLaws .left busy &&
      (bufferLaws busy.right && lineLaws busy.right && toneLaws busy.right && tileLaws busy.right &&
        displayLaws .right busy) &&
      (queueLaws busy.faults && tableLaws busy.faults && ringLaws busy && linkLaws busy && pathLaws busy.path &&
        Image.wf busy.snoop.image)) = true ∧
      (match step busy with
       | .next _ => true
       | .fault _ => false
       | .refused _ => false) = true ∧
      busy.left.cap.fip.isSome = true ∧ busy.left.disp.outstanding = 1 ∧ busy.link.inFlight.isSome = true := by
  decide +kernel

theorem test_witness_ReportRank :
    State.reset.faults.queue.length < 16 ∧ 16 ≤ (List.replicate 16 (report .frameMissing 2)).length := by decide

theorem test_witness_OutputPins :
    (after .resetAssertion run).inReset = true ∧ run.inReset = false ∧ run.left.cfg.head.bypEn.getLsbD 2 = false ∧
      ({ run.left.cfg.head with bypEn := 4 } : HeadCfg).bypEn.getLsbD 2 = true ∧ run.faultAsserted = false ∧
      (health .failed run).faultAsserted = true := by decide +kernel

/-- CTL while 0x11 and 0x30, the first characters of the request, are sent from 1000 on, a bit time being 8.96 µs: start bit,
data bits 0 and 1, mark bit and stop bit of the first one, mark bit of the second, then the request's end, and a cut. -/
theorem test_ctl :
    let s := enqueueEntry expo (updSide .left (fun x => { x with cfg := { x.cfg with head := { x.cfg.head with camAddr := 17 } } }) run)
    s.inReset = false ∧ s.link.line = .sending ∧ s.link.cutAt = none ∧ s.link.request.take 2 = [0x11, 0x30] ∧
      [0, 9, 18, 81, 90, 180, 591, 592].map (fun t => ctlLow (at' (1000 + t) s)) =
        [true, false, true, false, false, true, false, false] ∧
      [98, 99].map (fun t => ctlLow (at' (1000 + t) { s with link := { s.link with cutAt := some 2464 } })) =
        [false, false] ∧
      [81, 82].map (fun t => ctlLow (at' (1000 + t) s)) = [false, false] := by decide +kernel

theorem test_witness_PublishFlags :
    layoutBytes 256 (pageFields .left run) ≠ layoutBytes 256 (pageFields .left framed) ∧
      layoutBytes 256 (globalNoted run) ≠ layoutBytes 256 (globalNoted { run with cab := .night }) ∧
      layoutBytes 256 (pageFields .faults run) ≠
        layoutBytes 256 (pageFields .faults (raiseEvent .lineOrder .left 1 run)) ∧
      layoutBytes 256 (pageFields .right run) ≠
        layoutBytes 256 (pageFields .right (updHead .right (fun h => { h with cause := 1 }) run)) := by decide +kernel

/-- A truncation that restarts the same buffer within the same microsecond flags the side's section, although nothing it
publishes has changed; a command that changes nothing flags nothing. -/
theorem test_restart_flags :
    let s : State := { framed with inj := { framed.inj with flagLeft := false } }
    let t := after (.writeBurstTaken line0) s
    pageFields .left t = pageFields .left s ∧ t.inj.flagLeft = true ∧
      (after (.lampsLevelChange false) s).inj.flagLeft = false := by decide +kernel

/-- The lamps go on at 1000. -/
def lit : State := after (.lampsLevelChange true) run

theorem test_witness_LampState :
    run.inReset = false ∧ (after .resetAssertion run).inReset = true ∧ lit.lamp.measure = some 1000 ∧
      20000 ≤ ((at' 21000 lit).time - 1000).toNat ∧ ((at' 20999 lit).time - 1000).toNat < 20000 ∧
      run.lamp.measure = none ∧ (after .lampMeasurementExpiry (at' 21000 lit)).lamp.on = true := by decide +kernel

/-- The backlight runs, its ramp timer started at 1000. -/
def ramping : State := { run with backlight := { run.backlight with running := true, rampTimer := some 1000 } }

theorem test_witness_BacklightTimers :
    ramping.inReset = false ∧ ramping.backlight.rampTimer = some 1000 ∧
      4000 * 4 ^ ramping.snoop.cfg.rampCode ≤ ((at' 17000 ramping).time - 1000).toNat ∧
      ((at' 16999 ramping).time - 1000).toNat < 4000 * 4 ^ ramping.snoop.cfg.rampCode ∧
      run.backlight.periodLen ≤ (run.time - run.backlight.periodStart).toNat ∧
      ((at' 999 run).time - run.backlight.periodStart).toNat < run.backlight.periodLen ∧
      (after .rampTick (at' 17000 ramping)).backlight.left.cur = 10 := by decide +kernel

/-- LEFT's output is high at duty 250 of a period of 1000 µs that began at 1000. -/
def pulsing : State :=
  after .pwmPeriodStart (updMonitor .left (fun m => { m with cur := 250 }) run)

theorem test_witness_PwmHighTime :
    (pulsing.monitor .left).high = true ∧ (pulsing.monitor .left).out < 1000 ∧
      pulsing.backlight.periodLen * (pulsing.monitor .left).out / 1000 ≤
        ((at' 1250 pulsing).time - pulsing.backlight.periodStart).toNat ∧
      ((at' 1249 pulsing).time - pulsing.backlight.periodStart).toNat <
        pulsing.backlight.periodLen * (pulsing.monitor .left).out / 1000 ∧
      (pulsing.monitor .right).high = false := by decide +kernel

theorem test_witness_TargetDuty :
    (run.monitor .left).target = ((reformTarget .left run).monitor .left).target ∧
      ({ run with cab := .night }.monitor .left).target ≠
        ((reformTarget .left { run with cab := .night }).monitor .left).target ∧
      ((reformTarget .left (health .failed { run with cab := .night })).monitor .left).target = 400 := by decide +kernel

/-- The cab state with no member side, with one in DAY, in DUSK and in NIGHT, and with a NIGHT side that is no member. -/
theorem test_cab :
    let at'' := fun (x : Scene) (s : State) => updSide .left (fun y => { y with scene := { y.scene with state := x } }) s
    State.reset.left.head.health ≠ .running ∧ run.left.head.health = .running ∧
      (reformCab { State.reset with cab := .dusk }).cab = .dusk ∧ (reformCab { run with cab := .dusk }).cab = .day ∧
      (reformCab (at'' .dusk run)).cab = .dusk ∧ (reformCab (at'' .night run)).cab = .night ∧
      (reformCab (health .failed (at'' .night run))).cab = .day ∧
      (reformCab (at'' .night run)).backlight.left.target = run.snoop.cfg.blNight ∧ reformCab run = run := by
  decide +kernel

theorem test_witness_WatchdogExpiries :
    (at' 100000 run).inReset = false ∧ run.left.inService = true ∧ run.left.cap.watchdog = some 0 ∧
      run.left.cfg.cap.frameTimeout ≤ ((at' 100000 run).time - 0).toNat ∧
      min 15 (run.left.cap.expiries + 1) < run.left.cfg.cap.missingLimit ∧ run.left.disp.watchdog = some 0 ∧
      run.left.disp.expired = false ∧ run.left.cfg.disp.displayTimeout ≤ ((at' 100000 run).time - 0).toNat ∧
      ((at' 99999 run).time - 0).toNat < run.left.cfg.cap.frameTimeout ∧
      ((at' 99999 run).time - 0).toNat < run.left.cfg.disp.displayTimeout ∧
      (after (.displayIdle .left) (at' 100000 run)).left.disp.expired = true ∧ run.right.inService = false := by
  decide +kernel

/-- LEFT at its third expiry. -/
def missing : State := updCap .left (fun c => { c with expiries := 2 }) (at' 100000 run)

theorem test_witness_MissingLimitFailsSide :
    missing.inReset = false ∧ missing.left.inService = true ∧ missing.left.cap.watchdog = some 0 ∧
      missing.left.cfg.cap.frameTimeout ≤ (missing.time - 0).toNat ∧
      missing.left.cfg.cap.missingLimit ≤ min 15 (missing.left.cap.expiries + 1) ∧ missing.left.deferred = false ∧
      isActive .sideFailed .left missing = false ∧ missing.left.cfg.head.autoRecover = true ∧
      missing.left.head.attempts < missing.left.cfg.head.recoverMax ∧
      ¬(3 < missing.left.cfg.head.recoverMax) ∧
      (after (.frameMissing .left) missing).left.head.health = .recovering ∧
      (after (.frameMissing .left) (updHead .left (fun h => { h with attempts := 3 }) missing)).left.head.health =
        .failed ∧
      missing.faultAsserted = false ∧ (after (.frameMissing .left) missing).faults.edges = [true, false] ∧
      (after (.frameMissing .left) (updHead .left (fun h => { h with attempts := 3 }) missing)).faults.edges = [true] := by
  decide +kernel

/-- LEFT's stage timer has run out. -/
def staged (h : Health) : State :=
  updHead .left (fun x => { x with health := h, stageTimer := some ⟨0, 1000⟩ }) run

theorem test_witness_StageTimers :
    (staged .stabilizing).inReset = false ∧ (staged .stabilizing).left.head.stageTimer = some ⟨0, 1000⟩ ∧
      1000 ≤ ((staged .stabilizing).time - 0).toNat ∧ ((at' 999 run).time - 0).toNat < 1000 ∧
      (after (.stabilizationExpiry .left) (staged .stabilizing)).left.head.health = .probing ∧
      (after (.offDwellExpiry .left) (staged .recovering)).left.head.health = .powering := by decide +kernel

/-- LEFT's step timer has run out. -/
def stepping (st : SeqState) (n : Nat) (h : Health) : State :=
  updSeq .left (fun _ => ⟨st, n, some ⟨0, 1000⟩⟩) (updHead .left (fun x => { x with health := h, awaitingLower := true }) run)

theorem test_witness_SequencerSteps :
    (stepping .raising 1 .powering).inReset = false ∧
      (stepping .raising 1 .powering).left.seq.timer = some ⟨0, 1000⟩ ∧
      1000 ≤ ((stepping .raising 1 .powering).time - 0).toNat ∧
      (after (.raiseStepExpiry .left) (stepping .raising 1 .powering)).left.seq.step = 2 ∧
      (after (.raiseStepExpiry .left) (stepping .raising 2 .powering)).left.head.health = .stabilizing ∧
      (after (.lowerStepExpiry .left) (stepping .lowering 2 .stopping)).left.seq.step = 1 ∧
      (after (.lowerStepExpiry .left) (stepping .lowering 1 .stopping)).left.head.health = .off ∧
      ((after (.lowerStepExpiry .left) (stepping .lowering 1 .recovering)).left.head.stageTimer.map Timer.len) =
        some 200000 := by decide +kernel

theorem test_witness_PowerCommands :
    run.inReset = false ∧ Image.wf run.snoop.image = true ∧ (health .off run).left.head.health = .off ∧
      run.left.configured = true ∧ run.left.deferred = false ∧ lowerTo smallCfg.head 1000 run.left.seq ≠ none ∧
      (after (.powerOn 0 9) (health .off run)).left.head.health = .powering ∧
      (after (.powerOff 0 9) run).left.head.health = .stopping ∧
      (after (.recover 0 9) run).left.head.health = .recovering ∧
      (after (.powerOn 0 9) run).snoop.cmdResult = .refusedState ∧
      (after (.powerOff 1 9) run).snoop.cmdResult = .refusedState ∧
      (after (.recover 1 9) run).snoop.cmdResult = .refusedState := by decide +kernel

theorem test_witness_OtherCommands :
    (2 : BitVec 16) ≠ 0 ∧ (2 : BitVec 16) ≠ 1 ∧ run.inReset = false ∧ Image.wf run.snoop.image = true ∧
      (0 : Byte).toNat = 0 ∧ 5 ≤ (5 : Byte).toNat ∧ (after (.powerOn 2 9) run).snoop.cmdResult = .refusedArg ∧
      (after (.unknownCommand 5 0 9) run).snoop.cmdResult = .unknown ∧
      ((after (.ackFaults 0x13F 9) (raiseEvent .lineOrder .left 1 run)).faultRec .lineOrder .left).count = 0 ∧
      (after (.ackFaults 0x13F 9) run).snoop.cmdEcho = 9 := by decide +kernel

theorem test_witness_LinkQueuePlacement :
    (onLink .sending mail run).link.line ≠ .idle ∧ run.link.line = .idle ∧ run.link.inFlight = none ∧
      run.link.waiting = [] ∧
      (enqueueEntry expo (enqueueEntry mail (onLink .sending mail run))).link.waiting = [expo, mail] ∧
      (enqueueEntry expo run).link.line = .sending ∧ (enqueueEntry expo run).inj.flagGlobal = true := by decide +kernel

theorem test_witness_LinkLineTimers :
    let s := onLink .sending expo run
    let cut : State := { s with link := { s.link with inFlight := none, cutAt := some 2464 } }
    let g := onLink .guard expo run
    s.inReset = false ∧ s.link.line = .sending ∧ s.link.cutAt = none ∧
      6 * (11 * (16 * (s.link.divisor + 1))) ≤ s.refSince s.link.txStart ∧
      ¬(6 * (11 * (16 * (s.link.divisor + 1))) ≤ (at' 591 s).refSince s.link.txStart) ∧
      cut.link.cutAt = some 2464 ∧ 2464 ≤ cut.refSince cut.link.txStart ∧
      (at' 98 cut).refSince cut.link.txStart < 2464 ∧ g.link.line = .guard ∧
      2 * (11 * (16 * (g.link.divisor + 1))) ≤ g.refSince g.link.guardStart ∧
      (after .requestSent s).link.line = .awaiting ∧ (after .cancelledCharacterEnd cut).link.line = .guard ∧
      (after .guardEnd g).link.line = .sending ∧
      (after .guardEnd { g with link := { g.link with inFlight := none } }).link.line = .idle ∧
      (after .guardEnd { g with link := { g.link with inFlight := none, waiting := [mail] } }).link.inFlight =
        some { mail with attempts := 1 } := by decide +kernel

/-- The part awaits the answer to an exposure write, with these characters received and the next one's edge at 0. -/
def answering (cs : List RxChar) : State :=
  let s := onLink .awaiting expo run
  { s with link := { s.link with silence := none, chars := cs, receiving := some 0 } }

theorem test_witness_ResponseReception :
    let s := onLink .awaiting expo run
    s.inReset = false ∧ s.link.line = .awaiting ∧ s.link.receiving = none ∧
      (answering []).link.receiving = some 0 ∧ 10 * 224 + 224 / 2 ≤ (answering []).refSince 0 ∧
      (at' 94 (answering [])).refSince 0 < 10 * 224 + 224 / 2 ∧ (answering []).link.chars.length < 3 ∧
      (after (.startEdge true) s).link.receiving = some 25000 ∧
      (after (.responseCharacterComplete (good 0xA5)) (answering [])).link.line = .receiving := by decide +kernel

theorem test_witness_ResponseJudged :
    judge expo (good 0xA5) (good 0x03) (good 0xAA) ⟨0x0C, false, false⟩ = .badCheck ∧
      judge expo (good 0xA5) (good 0x03) (good 0xAA) (good 0x0D) = .badCheck ∧
      judge expo (good 0x5A) (good 0) (good 0) (good 0x5A) = .refused ∧
      judge expo (good 0x5B) (good 0) (good 0) (good 0x5B) = .badCheck ∧
      judge expo (good 0xA5) (good 0x03) (good 0xAB) (good 0x0D) = .badCheck ∧
      judge expo (good 0xA5) (good 0x03) (good 0xAA) (good 0x0C) = .done 0x03AA := by decide

/-- All but the check of a good answer has come. -/
def nearly : State := answering [good 0xA5, good 0x03, good 0xAA]

/-- Nothing has come since 0. -/
def silent (l : LineState) (e : LinkEntry) : State :=
  let s := onLink l e run
  { s with link := { s.link with silence := some 0 } }

theorem test_witness_AttemptEnds :
    let last : LinkEntry := { expo with attempts := 2 }
    run.inReset = false ∧ (silent .awaiting expo).link.silence = some 0 ∧
      8 * (11 * (16 * 14)) ≤ (silent .awaiting expo).refSince 0 ∧ (silent .awaiting expo).link.inFlight = some expo ∧
      expo.attempts ≤ run.snoop.cfg.linkRetries ∧ run.snoop.cfg.linkRetries < last.attempts ∧
      (silent .draining last).link.line = .draining ∧ nearly.link.receiving = some 0 ∧
      21 * (16 * 14) / 2 ≤ nearly.refSince 0 ∧ nearly.link.chars.length = 3 ∧
      (after .noAnswer (silent .awaiting expo)).link.inFlight = some expo ∧
      (after .noAnswer (silent .receiving last)).link.inFlight = none ∧
      (after .noAnswer (silent .draining last)).link.line = .guard ∧
      (after (.responseReceived (good 0x0C)) nearly).left.expo.confirmed = 0x03AA ∧
      (after (.responseReceived (good 0x0D)) nearly).link.inFlight = some expo ∧
      ((after .noAnswer (silent .receiving last)).faultRec .linkNoAnswer .left).count = 1 := by decide +kernel

theorem test_witness_FinalOutcomes :
    let s := updHead .left (fun h => { h with streak := 2 }) run
    expo.kind ≠ .probe ∧ mail.kind ≠ .probe ∧ (∀ v, Attempt.refused ≠ .done v) ∧
      min 255 (run.left.head.streak + 1) < run.left.cfg.head.linkFailLimit ∧
      s.left.cfg.head.linkFailLimit ≤ min 255 (s.left.head.streak + 1) ∧ s.left.head.health = .running ∧
      (finalOutcome mail .refused s).left.head.health = .degraded ∧ (finalOutcome mail .refused s).left.head.cause = 7 ∧
      (health .degraded s).left.head.health = .degraded ∧
      (finalOutcome mail .refused (health .degraded s)).left.head.cause = 7 ∧
      ((finalOutcome mail .refused s).faults.queue.map Report.kind) = [.sideDegraded, .linkRefused] ∧
      ((finalOutcome mail .refused (health .degraded s)).faults.queue.map Report.detail) = [0x33000] ∧
      run.right.inService = false ∧
      (finalOutcome mail .refused s).link.results.get 0 ⟨0, .none, 0⟩ = ⟨7, .camRefused, 0⟩ ∧
      (finalOutcome expo (.done 0x03AA) run).left.expo.settle = 2 := by
  refine ⟨by decide, by decide, nofun, ?_⟩
  decide +kernel

/-- LEFT is being probed, the entry in flight. -/
def probing : State := onLink .receiving ⟨.probe, .left, true, 0, 0, 1⟩ (health .probing run)

theorem test_witness_ProbeOutcome :
    let e : LinkEntry := ⟨.probe, .left, true, 0x0010, 0, 3⟩
    let spent := updHead .left (fun h => { h with attempts := 3 }) probing
    e.kind = .probe ∧ e.read = true ∧ probing.left.inService = false ∧ probing.left.cfg.expo.manual = false ∧
      probing.left.cfg.head.idExpect = 0 ∧ Attempt.done 1 ≠ .done 0 ∧ probing.left.deferred = false ∧
      probing.left.cfg.head.autoRecover = true ∧ probing.left.head.attempts < probing.left.cfg.head.recoverMax ∧
      ¬(spent.left.head.attempts < spent.left.cfg.head.recoverMax) ∧
      (outcomeProbe .left (.done 0) probing).left.head.health = .running ∧
      (outcomeProbe .left (.done 0) probing).left.expo.request = true ∧
      (outcomeProbe .left (.done 0) probing).link.waiting =
        [⟨.exposure, .left, false, probing.left.cfg.expo.expoReg, BitVec.ofNat 16 probing.left.cfg.expo.eInit, 0⟩] ∧
      (outcomeProbe .left (.done 1) probing).left.head.health = .recovering ∧
      (outcomeProbe .left (.done 1) spent).left.head.health = .failed ∧
      ((outcomeProbe .left .noAnswer probing).faultRec .probeFailed .left).count = 1 ∧
      ((finalOutcome e .noAnswer probing).faultRec .linkNoAnswer .left).count = 1 ∧
      (finalOutcome e .noAnswer probing).left.head.streak = 1 ∧
      (finalOutcome e (.done 0) probing).left.head.health = .running := by decide +kernel

theorem test_witness_CancelSide :
    let s := onLink .sending mail run
    s.link.inFlight = some mail ∧ mail.side = .left ∧ (∀ e' ∈ linkEntries s.link, LinkEntry.ofSlot 0 e' = true → e' = mail) ∧
      (∀ e ∈ linkEntries s.link, e.side = .left → LinkEntry.ofSlot 1 e = false) ∧
      (cancelSide .left s).link.results.get 0 ⟨0, .none, 0⟩ = ⟨7, .cancelled, 0⟩ ∧
      (cancelSide .left (at' 98 s)).link.cutAt = some 2464 ∧ (cancelSide .left (at' 99 s)).link.cutAt = some 4928 ∧
      (cancelSide .left (onLink .receiving mail run)).link.line = .draining ∧
      (cancelSide .left (onLink .guard mail run)).link.line = .guard ∧
      (cancelSide .right s).link.inFlight = some mail := by decide +kernel

theorem test_witness_MailboxSubmission :
    let s := after (.settingsWrite 0xA00 0x0000000030000100 0xFF) run
    let held := after (.mailboxSubmission 0 7) s
    s.inReset = false ∧ Image.wf s.snoop.image = true ∧ Image.wf held.snoop.image = true ∧
      (∃ e ∈ linkEntries held.link, LinkEntry.ofSlot 0 e = true) ∧
      s.left.head.health ∈ [.probing, .running, .degraded, .failed] ∧
      (health .off s).left.head.health ∉ [.probing, .running, .degraded, .failed] ∧
      held.link.inFlight = some { mail with attempts := 1 } ∧
      held.link.results.get 0 ⟨0, .none, 0⟩ = ⟨7, .pending, 0⟩ ∧
      (after (.mailboxSubmission 0 8) held).link.results.get 0 ⟨0, .none, 0⟩ = ⟨8, .busy, 0⟩ ∧
      (after (.mailboxSubmission 0 8) (health .off s)).link.results.get 0 ⟨0, .none, 0⟩ = ⟨8, .refusedState, 0⟩ := by
  decide +kernel

/-! ### The settings block -/

theorem test_witness_SettingsWriteMerges :
    Image.wf run.snoop.image = true ∧ run.inReset = false ∧ Instr.wf (.settingsWrite 0x220 0x20000000 0xFF) = true ∧
      (0x220 ≤ 0x223 ∧ (0xFF : BitVec 8).getLsbD 3 = true ∧ 0x223 < 0xA60) ∧
      Image.get (after (.settingsWrite 0x220 0x20000000 0xFF) run).snoop.image 0x223 = 0x20 := by decide +kernel

/-- One beat strobes RING_READ and GLOBAL_APPLY; another one the LEFT apply word; another one a TAG. -/
theorem test_witness_BeatActionOrder :
    run.inReset = false ∧ ((0x11 : BitVec 8).getLsbD 0 = true ∧ (0x11 : BitVec 8).getLsbD 4 = true) ∧
      (after (.settingsWrite 0 0 0x11) run).snoop.reject = (after (.globalApply 0 1) run).snoop.reject ∧
      (after (.settingsWrite 0x200 0 1) run).left.reject = (after (.apply .left 0 1) run).left.reject := by decide +kernel

/-- The pending image with the small frame's side settings of LEFT. -/
def setUp (s : State) : State :=
  play [.settingsWrite 0x200 0x1000000000000000 0xF0, .settingsWrite 0x208 0x10010000FFFF0000 0xFF,
    .settingsWrite 0x210 0x00400040FFFF0000 0xFF, .settingsWrite 0x218 0x0000000000000080 0x03,
    .settingsWrite 0x220 0x2000400020000000 0xFF, .settingsWrite 0x228 0x2000C00020008000 0xFF,
    .settingsWrite 0x258 0x0040000000400000 0xFF] s

theorem test_witness_GlobalApplyResult :
    let bad := after (.settingsWrite 0x010 0x0000000600000000 0x10) State.reset
    let ring := play [.settingsWrite 0x010 0x0000000130000000 0x1F] State.reset
    globalReason (pendingGlobal State.reset.snoop.image) = 0 ∧ globalReason (pendingGlobal bad.snoop.image) ≠ 0 ∧
      globalReason (pendingGlobal ring.snoop.image) = 0 ∧ State.reset.inReset = false ∧ (1 : BitVec 4) ≠ 0 ∧
      State.reset.inj.serving = false ∧
      State.reset.snoop.cfg.ringBase = (pendingGlobal State.reset.snoop.image).ringBase ∧
      State.reset.snoop.cfg.ringBase ≠ (pendingGlobal ring.snoop.image).ringBase ∧
      (after (.globalApply 0 1) State.reset).inj.serving = true ∧
      (after (.globalApply 0 1) ring).snoop.cfg.ringBase = 0x30000000 ∧
      (after (.globalApply 0 1) bad).snoop.reject = 12 ∧
      (after (.globalApply 0 1) (after (.settingsWrite 0x030 0 0x03) State.reset)).snoop.reject = 13 := by decide +kernel

/-- A global apply that takes LEFT's bypass, with a ramp interval that has passed, and one that has not; one that releases
it; one that turns the lamp's polarity; and one that lowers FAULT_PIN_LEVEL to an active condition's. -/
theorem test_globalApply :
    let byp := play [.settingsWrite 0x038 0x012C000100000000 0xF0] ramping
    let on := after (.globalApply 0 1) (at' 17000 byp)
    let off := play [.settingsWrite 0x038 0 0x10, .globalApply 0 1] on
    let pol := play [.settingsWrite 0x010 0x0100000000000000 0x80, .globalApply 0 1] ramping
    let frozen := play [.settingsWrite 0x010 0x0002000000000000 0x40, .globalApply 0 1]
      (raiseCond .cameraFrozen .left 1 ramping)
    ramping.inj.serving = true ∧ (on.backlight.left.cur, on.backlight.right.cur, on.backlight.rampTimer) =
        (300, 10, some 17000) ∧
      ((after (.globalApply 0 1) byp).backlight.left.cur, (after (.globalApply 0 1) byp).backlight.right.cur) = (300, 0) ∧
      (off.backlight.left.cur, off.snoop.cfg.bypL) = (300, false) ∧ pol.lamp.measure = some 1000 ∧
      (raiseCond .cameraFrozen .left 1 ramping).faultAsserted = false ∧ frozen.faultAsserted = true ∧
      frozen.faults.edges = [true] := by decide +kernel

theorem test_witness_SideApplyResult :
    let s := setUp State.reset
    let c := pendingSide .left s.snoop.image
    sideReason c s.right (blockRange s.anchor) = 0 ∧ State.reset.inReset = false ∧ State.reset.left.cap.fip = none ∧
      sideReason (pendingSide .left []) State.reset.right (blockRange 0) ≠ 0 ∧ State.reset.left.configured = false ∧
      State.reset.left.head.health = .off ∧ (after (.apply .left 0 1) s).left.configured = true ∧
      (after (.apply .left 0 1) State.reset).left.reject ≠ 0 ∧ framed.left.cap.fip.isSome = true ∧
      (after (.apply .left 0 1) (setUp framed)).left.deferred = true ∧
      (after (.apply .left 0 1) (setUp run)).left.cfg.cap.width = 64 := by decide +kernel

/-- A deferred apply released with lawful fields, and with fields that have been broken since. -/
theorem test_release :
    let wait := fun s : State => updSide .left (fun x => { x with deferred := true }) s
    let s := wait (setUp run)
    s.left.deferred = true ∧ s.left.cap.fip = none ∧ s.inReset = false ∧
      sideReason (pendingSide .left s.snoop.image) s.right (blockRange s.anchor) = 0 ∧
      sideReason (pendingSide .left (wait run).snoop.image) run.right (blockRange run.anchor) ≠ 0 ∧
      (releaseDeferred .left s).left.cfg.cap.width = 64 ∧ (releaseDeferred .left s).left.deferred = false ∧
      (releaseDeferred .left (wait run)).left.reject ≠ 0 ∧ (releaseDeferred .left (wait run)).left.cfg = smallCfg ∧
      releaseDeferred .left run = run := by decide +kernel

/-- A ring of 16 records with three written, none read. -/
def ringed : State :=
  { run with
    inj := { run.inj with w := 3, attn := true }
    snoop := { run.snoop with cfg := { run.snoop.cfg with ringBase := 0x30000000, ringSize := 1 } } }

theorem test_witness_RingReadResult :
    ringed.inReset = false ∧ (3 : BitVec 2) ≠ 0 ∧ recordInFlight ringed.inj = false ∧
      ((3 : Half) - 2).toNat ≤ ringCount 1 ∧ ¬(((3 : Half) - 4).toNat ≤ ringCount 1) ∧
      (after (.ringRead 3 3) ringed).inj.attn = false ∧ (after (.ringRead 2 3) ringed).inj.r = 2 ∧
      (after (.ringRead 4 3) ringed).inj.r = 0 := by decide +kernel

/-! ### The injector -/

/-- The same with one report pending. -/
def reporting : State := { ringed with faults := { ringed.faults with queue := [report .lineOrder 2] } }

/-- The same with a lost report. -/
def losing : State := { ringed with faults := { ringed.faults with lost := 1 } }

/-- The global section flagged and nothing to report. -/
def flagged : State := { ringed with inj := { ringed.inj with flagGlobal := true } }

theorem test_witness_InjectorIssues :
    ringed.inReset = false ∧ ringed.inj.serving = true ∧ ringed.inj.inflight = none ∧
      (ringed.inj.w - ringed.inj.r).toNat < ringCount ringed.snoop.cfg.ringSize ∧ 0 < losing.faults.lost ∧
      reporting.faults.lost = 0 ∧ reporting.faults.queue = [report .lineOrder 2] ∧
      firstFlagged flagged.inj = some .global ∧ firstFlagged ringed.inj = none ∧
      ((after .ringRecordIssue losing).inj.inflight.map InjBurst.kind) = some (.ringRecord true 1 3 false) ∧
      ((after .ringRecordIssue reporting).inj.inflight.map InjBurst.addr) = some 0x30000060 ∧
      ((after .sectionIssue flagged).inj.inflight.map InjBurst.kind) = some (.page .global) := by decide +kernel

/-- No grant comes first in the states of the issues, of the bursts and of the beats below. -/
theorem test_noGrantFirst :
    noGrantFirst losing ∧ noGrantFirst reporting ∧ noGrantFirst flagged ∧ noGrantFirst run ∧ noGrantFirst framed ∧
      noGrantFirst closing ∧ noGrantFirst (after (.writeBurstTaken line0) run) ∧
      noGrantFirst (after (.writeBurstTaken (incr 5 0x10000010 2)) run) ∧
      noGrantFirst (play [.writeBurstTaken (incr 5 0x40000000 2), .downstreamWriteGrant] run) ∧
      ¬noGrantAtOnce (after (.writeBurstTaken (incr 5 0x40000000 2)) run) := by
  simp only [noGrantFirst, Sys2Proof.Laws.noGrantAtOnce_iff, ← Sys2Proof.Laws.passWaits_iff]
  decide +kernel

theorem test_witness_InjectedResponses :
    let rec1 := play [.ringRecordIssue, .downstreamWriteGrant] reporting
    let lossy := play [.ringRecordIssue, .downstreamWriteGrant] losing
    let page := play [.sectionIssue, .downstreamWriteGrant] flagged
    (rec1.inj.inflight.map fun b => (b.kind, b.granted)) = some (.ringRecord false 0 2 false, true) ∧
      (lossy.inj.inflight.map fun b => (b.kind, b.granted)) = some (.ringRecord true 1 3 false, true) ∧
      (page.inj.inflight.map fun b => (b.kind, b.granted)) = some (.page .global, true) ∧ rec1.inReset = false ∧
      (after (.ringRecordResponse .okay) rec1).inj.w = 4 ∧ (after (.ringRecordResponse .slverr) rec1).faults.lost = 1 ∧
      (after (.sectionResponse .okay) page).inj.inflight = none ∧ page.path.tail = some .injector ∧
      (after (.sectionResponse .okay) page).path.tail = none ∧
      isActive .reportPath .global (after (.sectionResponse .decerr) page) = true := by decide +kernel

/-! ### The memory path -/

theorem test_witness_BurstGeometry :
    let b := incr 1 0x0FF0 4
    b.kind = .incr ∧ (⟨0, 0x2006, 4, .two, .fixed, 0⟩ : Burst).kind = .fixed ∧
      (⟨0, 0x1038, 3, .eight, .wrap, 0⟩ : Burst).kind = .wrap ∧ (⟨1, 1⟩ : Range).lo ≤ (⟨1, 1⟩ : Range).hi ∧
      0x1FF0 / 8 * 8 + 4 * 8 > (0x1FF0 / 4096 + 1) * 4096 ∧ ¬(0x1FE0 / 8 * 8 + 4 * 8 > (0x1FE0 / 4096 + 1) * 4096) ∧
      ((redirected b 0x1FF0).map fun d => (d.addr.toNat, d.lenM1.toNat)) = [(0x1FF0, 1), (0x2000, 1)] ∧
      ((redirected b 0x1FE0).map fun d => (d.addr.toNat, d.lenM1.toNat)) = [(0x1FE0, 3)] := by decide +kernel

/-- A redirected burst that is cut at 2^32 goes on at address 0 (log 37). -/
theorem test_split_at_top :
    (redirected (incr 5 0x10000000 3) 0xFFFFFFF8).map (fun d => (d.addr.toNat, d.lenM1.toNat)) =
      [(0xFFFFFFF8, 0), (0, 1)] := by decide +kernel

theorem test_witness_WindowDecoding :
    (12 ≤ 16 ∧ 16 ≤ 28 ∧ (0xFFFF0000 : Addr).toNat = 2 ^ 32 - 2 ^ 16) ∧
      (0xFFFFF000 : Addr).toNat = 2 ^ 32 - 2 ^ 12 ∧ (0xF0000000 : Addr).toNat = 2 ^ 32 - 2 ^ 28 ∧
      run.left.configured = true ∧ run.right.configured = false ∧
      (window run.left.cfg.cap.capCode run.left.cfg.cap.capMask).lo ≤ (byteRange line1).1 ∧
      decodeBurst line1 run = .capture .left 8 ∧ decodeBurst (incr 5 0x10010000 1) run = .display .left 0 ∧
      decodeBurst (incr 5 0x1000FFF8 2) run = .split ∧ decodeBurst (incr 5 0x40000000 1) run = .plain := by
  decide +kernel

theorem test_witness_WriteBurstTaken :
    run.inReset = false ∧ writeOpen run ∧ ¬writeOpen (after (.writeBurstTaken line0) run) ∧
      decodeBurst (incr 5 0x40000000 1) run = .plain ∧ decodeBurst (incr 5 0x1000FFF8 2) run = .split ∧
      decodeBurst (incr 5 0x10010000 1) run = .display .left 0 ∧ decodeBurst (incr 5 0x10000010 1) run = .capture .left 16 ∧
      run.left.cfg.cap.area ≤ 16 ∧ decodeBurst line1 run = .capture .left 8 ∧ run.left.inService = true ∧
      8 < run.left.cfg.cap.area ∧ run.left.cap.fip = none ∧ ¬startsLine run.left.cfg.cap 8 0 ∧
      (health .off run).left.inService = false := by
  unfold writeOpen startsLine
  decide +kernel

theorem test_witness_CaptureWriteTaken :
    run.inReset = false ∧ writeOpen run ∧ writeOpen framed ∧ writeOpen closing ∧
      decodeBurst line0 run = .capture .left 0 ∧ 0 < run.left.cfg.cap.area ∧ startsLine run.left.cfg.cap 0 0 ∧
      run.left.cap.fip = none ∧ run.left.cap.bufs.get 0 .filling = .free ∧
      (∃ f, framed.left.cap.fip = some f ∧ f.closing = false ∧ f.highest < 1) ∧ startsLine framed.left.cfg.cap 8 1 ∧
      (∀ l, ¬startsLine framed.left.cfg.cap 2 l) ∧ (∃ f, closing.left.cap.fip = some f ∧ f.closing = true ∧ 1 ≤ f.highest) ∧
      (updDisp .left (fun p => { p with outstanding := 1 }) run).left.disp.outstanding = 1 := by
  refine ⟨by decide +kernel, by unfold writeOpen; decide +kernel, by unfold writeOpen; decide +kernel,
    by unfold writeOpen; decide +kernel, by decide +kernel, by decide +kernel, by unfold startsLine; decide +kernel,
    by decide +kernel, by decide +kernel, ⟨_, rfl, by decide +kernel⟩, by unfold startsLine; decide +kernel,
    fun l h => ?_, ⟨_, rfl, by decide +kernel⟩, by decide +kernel⟩
  have : framed.left.cfg.cap.pitch = 8 := by decide +kernel
  simp [startsLine, this] at h

/-- What a line-0 write does in each of those states: a frame starts, is truncated, or the write is held. -/
theorem test_line0 :
    ((after (.writeBurstTaken line0) run).left.cap.fip.map Fip.outstanding) = some 1 ∧
      ((after (.writeBurstTaken line0) framed).faultRec .lineShortfall .left).count = 1 ∧
      (after (.writeBurstTaken line0) closing).path.heldWrite = some (.left, line0) ∧
      (after (.writeBurstTaken line1) framed).left.cap.fip.map Fip.highest = some 1 ∧
      ((after (.writeBurstTaken line1) closing).faultRec .lineOrder .left).count = 1 := by decide +kernel

theorem test_witness_HeldReleases :
    let h := after (.writeBurstTaken line0) closing
    let d := after (.readBurstTaken (incr 2 0x10010000 1)) shown
    h.inReset = false ∧ h.path.heldWrite = some (.left, line0) ∧ run.path.heldWrite = none ∧
      decodeBurst line0 h = .capture .left 0 ∧ h.left.inService = true ∧ run.path.heldRead = none ∧
      d.path.heldRead = some (.left, incr 2 0x10010000 1) ∧ 0 < d.left.disp.outstanding ∧
      (play [.downstreamWriteResponse 5 .okay, .heldLine0WriteTaken] h).path.heldWrite = none ∧
      (play [.downstreamReadData 2 7 .okay] d).left.disp.outstanding = 0 ∧
      (play [.downstreamReadData 2 7 .okay, .heldFrameStartTaken] d).left.disp.outstanding = 1 := by decide +kernel

theorem test_witness_WriteDataBeatTaken :
    let p := after (.writeBurstTaken (incr 5 0x40000000 2)) run
    let g := after .downstreamWriteGrant p
    let a := after (.writeBurstTaken (incr 5 0x10000010 2)) run
    let c := after (.writeBurstTaken line0) run
    run.path.cur = none ∧ (p.path.cur.map fun c => (c.route, c.granted, c.taken)) = some (.pass, false, 0) ∧
      (g.path.cur.map fun c => (c.route, c.granted)) = some (.pass, true) ∧
      (a.path.cur.map fun c => (c.route, c.burst.len)) = some (.absorbed, 2) ∧
      (c.path.cur.map fun c => (c.route, c.discarded)) = some (.capture .left 0x20000000 0, false) ∧
      (after (.writeDataBeatTaken 1 0xFF) p).down.length = 2 ∧ (after (.writeDataBeatTaken 1 0xFF) g).down.length = 2 ∧
      (play [.writeDataBeatTaken 1 0xFF, .writeDataBeatTaken 1 0xFF] a).up = [.writeResp 5 .okay] ∧
      ((after (.writeDataBeatTaken 0 0xFD) c).faultRec .partialPixel .left).count = 1 := by decide +kernel

/-- A beat in the settings block is handed to the snoop. -/
theorem test_observed :
    let g := play [.writeBurstTaken (incr 5 ((blockBase 0) + 0x220) 1), .downstreamWriteGrant] run
    (blockRange 0).lo ≤ beatAddr (incr 5 ((blockBase 0) + 0x220) 1) 0 / 8 * 8 ∧
      Image.get (after (.writeDataBeatTaken 0x20000040 0x0F) g).snoop.image 0x223 = 0x20 := by decide +kernel

theorem test_witness_ReadBurstTaken :
    run.inReset = false ∧ readOpen run ∧ ¬readOpen (after (.readBurstTaken (incr 2 0x10010000 1)) shown) ∧
      decodeBurst (incr 2 0x40000000 1) run = .plain ∧ decodeBurst (incr 2 0x1000FFF8 2) run = .split ∧
      decodeBurst line1 framed = .capture .left 8 ∧ framed.left.cap.fip.isSome = true ∧
      8 + ((byteRange line1).2 - (byteRange line1).1) < framed.left.cfg.cap.area ∧
      decodeBurst (incr 2 0x10010008 1) shown = .display .left 8 ∧
      isShown (shown.left.cap.bufs.get 0 .free) = true ∧ run.left.cfg.cap.fallback ≠ 0 ∧
      decodeBurst (incr 2 0x10010010 1) shown = .display .left 16 ∧ shown.left.cfg.cap.area ≤ 16 ∧
      (after (.readBurstTaken line1) framed).down.getLast? = some (.readAddr ⟨5, 0x20000008, 0, .eight, .incr, 0⟩) ∧
      (after (.readBurstTaken line1) run).up = [.readData 5 ⟨0, .okay, true⟩] ∧
      (after (.readBurstTaken (incr 2 0x10010008 1)) run).down = [.readAddr ⟨2, 0x20003008, 0, .eight, .incr, 0⟩] ∧
      (after (.readBurstTaken (incr 2 0x10010008 1)) shown).left.disp.outstanding = 2 := by
  unfold readOpen
  decide +kernel

/-- The part with nothing SHOWN and no fallback image. -/
def blank : State :=
  updSide .left (fun x => { x with cfg := { x.cfg with cap := { x.cfg.cap with fallback := 0 } } }) run

theorem test_witness_DisplayFrameStart :
    let b := incr 2 0x10010000 1
    let repeated := after (.downstreamReadData 2 7 .okay) shown
    completed.inReset = false ∧ readOpen completed ∧ decodeBurst b completed = .display .left 0 ∧
      bufferLaws completed.left = true ∧ completed.left.disp.outstanding = 0 ∧
      (byteRange b).2 - (byteRange b).1 < completed.left.cfg.cap.area ∧
      isReady (completed.left.cap.bufs.get 0 .free) = true ∧ 0 < shown.left.disp.outstanding ∧
      bufferLaws repeated.left = true ∧ repeated.left.disp.outstanding = 0 ∧
      isShown (repeated.left.cap.bufs.get 0 .free) = true ∧ completed.left.inService = true ∧
      (after (.readBurstTaken b) repeated).left.disp.repeats = 1 ∧
      isActive .viewStale .left (after (.readBurstTaken b)
        (updDisp .left (fun p => { p with repeats := 2 }) repeated)) = true ∧
      (after (.readBurstTaken b) (at' 52000 completed)).left.head.cause = 6 ∧
      ((after (.readBurstTaken b) (at' 52000 (updDisp .left (fun p => { p with repeats := 2 }) repeated))).faults.queue.map
        fun r => (r.kind, r.detail)) = [(.viewStale, 3), (.viewLate, 51000), (.sideDegraded, 5)] ∧
      (after (.readBurstTaken b) run).left.disp.outstanding = 0 ∧ run.left.cfg.cap.fallback = 0x20003000 ∧
      (after (.readBurstTaken b) run).down = [.readAddr ⟨2, 0x20003000, 0, .eight, .incr, 0⟩] ∧
      (after (.readBurstTaken b) blank).up = [.readData 2 ⟨0, .okay, true⟩] ∧
      (after (.readBurstTaken b) blank).down = [] := by
  unfold readOpen
  decide +kernel

/-- One beat of a passed-through burst of one. -/
def onlyBeat : Instr := .writeDataBeatTaken 0 0xFF

/-- A passed-through write of one beat. -/
def passed (id : BitVec 8) : Instr := .writeBurstTaken (incr id 0x40000000 1)

/-- P1 has been taken whole and is still being sent; J1 was issued while it held the channels, and P2 is taken (R180, step
1). -/
def loaded : State := play [passed 1, .downstreamWriteGrant, .ringRecordIssue, onlyBeat, passed 2] reporting

/-- The burst of the channels ends, the next one is granted, and the interconnect delivers another. -/
def nextWrite (id : BitVec 8) (s : State) : State := play [.downstreamWriteGrant, onlyBeat, passed id] s

/-- Who holds the downstream write channels, the wait count, and whether each of the two kinds of burst waits. -/
def writeSide (s : State) : Option Sender × Nat × Bool × Bool :=
  (s.path.tail, s.path.waitCount, passWaits s.path, injectedWaits s.inj)

/-- The worked sequence of R180: J1 waits through P2 to P5, with the wait counts of its table; after J1, P6 goes first; J2
is issued while P6 holds the channels, and P7 is granted before it. -/
theorem test_worked_sequence :
    let p5 := nextWrite 6 (nextWrite 5 (nextWrite 4 (nextWrite 3 loaded)))
    writeSide loaded = (some (.upstream 1), 0, true, true) ∧
      writeSide (nextWrite 3 loaded) = (some (.upstream 2), 1, true, true) ∧
      writeSide (nextWrite 4 (nextWrite 3 loaded)) = (some (.upstream 3), 2, true, true) ∧
      writeSide (nextWrite 5 (nextWrite 4 (nextWrite 3 loaded))) = (some (.upstream 4), 3, true, true) ∧
      writeSide p5 = (some (.upstream 5), 4, true, true) := by decide +kernel

/-- The sequence from J1's grant on: J1 goes before P6, which then starts a new count for J2. -/
theorem test_worked_sequence_from_J1 :
    let j1 := after .downstreamWriteGrant (nextWrite 6 (nextWrite 5 (nextWrite 4 (nextWrite 3 loaded))))
    let p6 := after .downstreamWriteGrant j1
    let j2 := play [.ringRecordResponse .okay, .sectionIssue] p6
    let p7 := play [onlyBeat, passed 7, .downstreamWriteGrant] j2
    writeSide j1 = (some .injector, 0, true, false) ∧ writeSide p6 = (none, 0, false, false) ∧
      (p6.path.cur.map fun c => (c.burst.id, c.granted)) = some (6, true) ∧
      writeSide j2 = (none, 0, false, true) ∧ writeSide p7 = (none, 1, false, true) ∧
      (p7.path.cur.map fun c => (c.burst.id, c.granted)) = some (7, true) := by decide +kernel

/-- P2's beat shows that P2 has been granted, behind J1 where J1 has waited through four; a further address shows nothing
while P2 waits, but shows a waiting capture write's grant; and the answer of P1 frees the channels it held. -/
theorem test_grant_shown :
    let four : State := { loaded with path := { loaded.path with waitCount := 4 } }
    let c := play [passed 1, .downstreamWriteGrant, onlyBeat, .writeBurstTaken line0, onlyBeat] run
    after onlyBeat loaded = play [.downstreamWriteGrant, onlyBeat] loaded ∧
      after onlyBeat four = play [.downstreamWriteGrant, .downstreamWriteGrant, onlyBeat] four ∧
      after (passed 3) loaded = loaded ∧ c.path.tail = some (.upstream 1) ∧ passWaits c.path = true ∧
      after onlyBeat c = c ∧ after (passed 3) c = play [.downstreamWriteGrant, passed 3] c ∧
      (after (.downstreamWriteResponse 1 .okay) loaded).path.tail = none ∧
      (after (.downstreamWriteResponse 2 .okay) loaded).path.tail = some (.upstream 1) ∧
      (refPeriod loaded).path.tail = none := by decide +kernel

theorem test_witness_WriteGrant :
    let p := after (.writeBurstTaken (incr 5 0x40000000 1)) run
    let c := play [.writeBurstTaken line0, .writeDataBeatTaken 0 0xFF] run
    let i := after .ringRecordIssue reporting
    let both : State := { loaded with path := { loaded.path with waitCount := 3 } }
    p.inReset = false ∧ (p.path.cur.map fun c => (c.granted, c.route)) = some (false, .pass) ∧ p.inj.inflight = none ∧
      (c.path.cur.map fun c => (c.granted, c.taken, c.discarded)) = some (false, 1, false) ∧ i.path.cur = none ∧
      (i.inj.inflight.map InjBurst.granted) = some false ∧ run.path.cur = none ∧ run.inj.inflight = none ∧
      ((after .downstreamWriteGrant both).path.waitCount, (play [.downstreamWriteGrant, .writeDataBeatTaken 0 0xFF,
        .downstreamWriteGrant] both).path.waitCount) = (4, 0) ∧ grantAtOnce p = true ∧ grantAtOnce loaded = false ∧
      (after .downstreamWriteGrant c).down.length = 2 ∧ (after .downstreamWriteGrant i).down.length = 5 ∧
      (after .downstreamWriteGrant p).down.length = 1 := by decide +kernel

/-- A grant that is due comes before a beat and before an issue, which then runs. -/
theorem test_grant_at_once :
    let p := after (.writeBurstTaken (incr 5 0x40000000 1))
      { reporting with faults := { reporting.faults with lost := 1 } }
    let g := after .downstreamWriteGrant p
    after .ringRecordIssue g ≠ g ∧ after .ringRecordIssue p = after .ringRecordIssue g ∧
      (after .ringRecordIssue p).down.length = 1 ∧ (after .ringRecordIssue p).path.waitCount = 0 ∧
      (after (.writeDataBeatTaken 7 0xFF) p).down.length = 2 := by decide +kernel

/-- LEFT's buffer 0 ends 8 bytes below a 4 KiB boundary, and a write of two beats has been sent there, in two parts. -/
def cutWrite : State :=
  play [.writeBurstTaken (incr 5 0x10000000 2), .writeDataBeatTaken 0 0xFF, .writeDataBeatTaken 0 0xFF,
      .downstreamWriteGrant]
    (updSide .left (fun x =>
      { x with
        cfg :=
          { x.cfg with
            cap := { x.cfg.cap with bufBase := ⟨[0x20000FF8, 0x20001000, 0x20002000], rfl⟩ } } }) run)

/-- A split write answers OKAY where both parts do, EXOKAY too; and its first error otherwise. -/
theorem test_cut_answer :
    (cutWrite.path.writes.map fun e => (e.parts, e.cut)) = [([0x20000FF8, 0x20001000], true)] ∧
      (play [.downstreamWriteResponse 5 .okay, .downstreamWriteResponse 5 .exokay] cutWrite).up = [.writeResp 5 .okay] ∧
      (play [.downstreamWriteResponse 5 .slverr, .downstreamWriteResponse 5 .decerr] cutWrite).up =
        [.writeResp 5 .slverr] := by decide +kernel

theorem test_witness_WriteResponse :
    (closing.path.writes.map fun e => (e.id, e.owner, e.parts)) = [(5, .capture .left true, [0x20000008])] ∧
      closing.inReset = false ∧ run.path.writes = [] ∧
      (after (.downstreamWriteResponse 5 .slverr) closing).left.cap.fip = none ∧
      ((after (.downstreamWriteResponse 5 .slverr) closing).faultRec .downstreamError .global).count = 1 ∧
      (after (.downstreamWriteResponse 5 .okay) closing).up.getLast? = some (.writeResp 5 .okay) ∧
      (after (.downstreamWriteResponse 6 .okay) closing).path.writes = closing.path.writes := by decide +kernel

theorem test_witness_ReadData :
    (shown.path.reads.map fun e => (e.id, e.owner, e.got, e.total)) = [(2, .display .left true, 0, 1)] ∧
      shown.inReset = false ∧ run.path.reads = [] ∧
      (after (.downstreamReadData 2 9 .okay) shown).up.getLast? = some (.readData 2 ⟨9, .okay, true⟩) ∧
      ((after (.downstreamReadData 2 9 .decerr) shown).faultRec .downstreamError .global).count = 1 := by decide +kernel

/-! ### Frames and what follows them -/

theorem test_witness_FrameCompletion :
    let now := closing.left.cap.fip.getD ⟨0, 0, 0, false, 0, false, 0⟩
    let done : Fip := { now with outstanding := 0 }
    let put := fun (f : Fip) => updCap .left (fun c => { c with fip := some f }) closing
    let sig := (closing.left.coll.acc.getD (Stats.fresh .day)).signature
    let same := fun (c : Capture) => { c with identical := 7, prevSig := some sig }
    now.closing = true ∧ now.outstanding ≠ 0 ∧ done.writeError = false ∧ done.lines = closing.left.cfg.cap.height ∧
      bufferLaws (put done).left = true ∧ done.buf < 3 ∧ (put done).left.inService = true ∧
      closing.left.cfg.cap.shortTolerance < closing.left.cfg.cap.height - 1 ∧
      (tryComplete .left (put done)).left.cap.accepted = 1 ∧
      (tryComplete .left (put { done with writeError := true })).left.cap.accepted = 0 ∧
      ((tryComplete .left (put { done with lines := 1 })).faultRec .lineShortfall .left).count = 1 ∧
      (tryComplete .left (updCap .left same (put done))).left.head.cause = 2 := by
  decide +kernel

/-- The two forks of a freeze: without automatic recovery the side stays FAILED with CAMERA_FROZEN active; with it the side
recovers at once with the second attempt, and its exposure and head restart. -/
theorem test_freeze :
    let now := closing.left.cap.fip.getD ⟨0, 0, 0, false, 0, false, 0⟩
    let sig := (closing.left.coll.acc.getD (Stats.fresh .day)).signature
    let frozen := fun (auto : Bool) => tryComplete .left (updSide .left (fun x =>
      { x with
        cap := { x.cap with fip := some { now with outstanding := 0 }, identical := 7, prevSig := some sig }
        head := { x.head with attempts := 1 }
        cfg := { x.cfg with head := { x.cfg.head with autoRecover := auto } } }) closing)
    let seen := fun s : State =>
      (s.left.head.health, s.left.head.attempts, isActive .cameraFrozen .left s, isActive .sideFailed .left s,
        (s.faultRec .cameraFrozen .left).count)
    seen (frozen false) = (.failed, 1, true, true, 1) ∧ seen (frozen true) = (.recovering, 2, false, false, 1) := by
  decide +kernel

/-- A good frame returns a DEGRADED side to RUNNING at DEGRADE_CLEAR, not with VIEW_STALE active; the run count zeroes the
attempts at RECOVER_CLEAR; and a short frame within the tolerance is accepted and degrades. -/
theorem test_completion_health :
    let now := closing.left.cap.fip.getD ⟨0, 0, 0, false, 0, false, 0⟩
    let put := fun (f : Fip) => updCap .left (fun c => { c with fip := some { f with outstanding := 0 } }) closing
    let worn := updHead .left (fun h =>
      { h with health := .degraded, goodFrames := 65535, cause := 5, attempts := 2, runCount := 65535 }) (put now)
    let loose := updSide .left (fun x =>
      { x with cfg := { x.cfg with cap := { x.cfg.cap with shortTolerance := 1 } } }) (put { now with lines := 1 })
    (tryComplete .left worn).left.head.health = .running ∧ (tryComplete .left worn).left.head.cause = 0 ∧
      (tryComplete .left worn).left.head.attempts = 0 ∧
      (tryComplete .left (raiseCond .viewStale .left 3 worn)).left.head.health = .degraded ∧
      isActive .viewStale .left worn = false ∧ (tryComplete .left loose).left.cap.accepted = 1 ∧
      (tryComplete .left loose).left.head.cause = 4 ∧
      ((tryComplete .left loose).faults.queue.map fun r => (r.kind, r.frame)) =
        [(.sideDegraded, 1), (.lineShortfall, 0)] := by decide +kernel

theorem test_witness_PixelDevelopment :
    let v := smallCfg.dev
    let g := smallCfg.cap
    (v.knee1 ≤ v.knee2 ∧ v.knee2 ≤ v.knee3) ∧ (0 < v.knee1 ∧ v.knee1 < v.knee2 ∧ v.knee2 < v.knee3 ∧ v.knee3 ≤ 4095) ∧
      curveOk defaultCurve = true ∧ (2 ^ 14 ≤ 20096 ∧ 20096 < 2 ^ 15) ∧
      (10 < g.area ∧ 10 / g.pitch < g.height ∧ 10 % g.pitch / 2 < g.width) ∧ g.area ≤ 16 ∧
      ¬(6 < ({ g with width := 2 } : CaptureCfg).area ∧ 6 % g.pitch / 2 < 2) ∧
      (v.roiY0 ≤ 1 ∧ 1 < v.roiY1 ∧ v.roiX0 ≤ 1 ∧ 1 < v.roiX1) ∧
      ((developContainer g v ⟨defaultCurve, Table.const 128 256⟩ (.both ⟨10, 0xB8, true⟩ ⟨11, 0x0B, true⟩)
        (Stats.fresh .day)).1.map OffByte.val) = [0xD7, 0x02] := by decide +kernel

/-- A burst of two beats from offset 8: four whole containers of the last line, the last of them closing the frame, and a
beat beyond the frame that loses its strobes; one with the last container half strobed is partial and closes too. -/
theorem test_develop :
    let b := incr 5 0x10000008 2
    let p : Snapshot := ⟨defaultCurve, Table.const 128 256⟩
    let whole : List Beat := [⟨0x0BB80BB80BB80BB8, 0xFF⟩, ⟨5, 0xFF⟩]
    let half : List Beat := [⟨0x0BB80BB80BB80BB8, 0x40⟩, ⟨5, 0xFF⟩]
    let z := develop smallCfg p b 8 whole (Stats.fresh .day)
    let y := develop smallCfg p b 8 half (Stats.fresh .day)
    b.kind = .incr ∧ whole.length = b.len ∧ half.length = b.len ∧
      z.beats = [⟨0x02D702D702D702D7, 0xFF⟩, ⟨5, 0⟩] ∧ (z.closing, z.half, z.stats.total, z.stats.partials) =
        (true, none, 4, 0) ∧
      y.beats = [⟨0x0BB80BB80BB80BB8, 0x40⟩, ⟨5, 0⟩] ∧
      (y.closing, y.half, y.stats.total, y.stats.partials) = (true, some 14, 0, 1) ∧
      (develop smallCfg p line0 0 [⟨0, 0xFF⟩] (Stats.fresh .day)).closing = false := by decide +kernel

theorem test_witness_ToneCurve :
    let t := smallCfg.tone
    t.host = false ∧ 0 < ({ Stats.fresh .day with total := 1000 } : Stats).total ∧ curveOk defaultCurve = true ∧
      t.blackFloor ≤ 1023 ∧ 1 ≤ t.alpha ∧ t.alpha ≤ 16 ∧ (Stats.fresh .day).total = 0 ∧
      ({ t with host := true } : ToneCfg).host = true := by decide +kernel

theorem test_witness_SceneClassification :
    let r : Stats := { Stats.fresh .day with total := 1, hist := (Table.const 20 0).set 10 1 }
    let c := smallCfg.scene
    r.total ≠ 0 ∧ (2 ^ 9 ≤ 1000 ∧ 1000 < 2 ^ 10) ∧ (2 ^ 15 ≤ 65535 ∧ 65535 < 2 ^ 16) ∧
      meanOctave r + 256 - exposureOctave 1000 < c.duskEnter ∧
      (sceneUpdate c false 1000 r ⟨.day, none, 0, 0⟩) = ⟨.day, some .dusk, 1, 257⟩ ∧
      (sceneUpdate c false 1000 r ⟨.day, some .dusk, 29, 0⟩).state = .dusk ∧
      (sceneUpdate c false 1 r ⟨.dusk, none, 0, 0⟩).candidate = some .day ∧
      (sceneUpdate c false 65535 r ⟨.dusk, none, 0, 0⟩).candidate = some .night ∧
      (sceneUpdate c false 1 r ⟨.night, none, 0, 0⟩).candidate = some .dusk ∧
      (sceneUpdate c false 65535 r ⟨.night, some .dusk, 3, 0⟩).candidate = none := by decide +kernel

theorem test_witness_ExposureStep :
    let r : Stats := { Stats.fresh .day with total := 1, hist := (Table.const 20 0).set 10 1 }
    let s := updSide .left (fun x => { x with expo := { x.expo with confirmed := 1000 } }) run
    let c := smallCfg.expo
    let bright : Stats := { r with hist := (Table.const 20 0).set 11 1 }
    s.left.inService = true ∧ c.manual = false ∧ s.left.expo.confirmed ≠ 0 ∧ s.left.expo.request = false ∧
      ((max 192 (min 320 (256 + ((c.target16 : Int) - meanOctave bright) * c.aeGain))) = ((224 : Nat) : Int)) ∧
      875 = max c.eMin (min c.eMax ((1000 * 224 + 128) / 256)) ∧
      c.deadband < ((c.target16 : Int) - meanOctave bright).natAbs ∧
      ((c.target16 : Int) - meanOctave r).natAbs ≤ c.deadband ∧ run.left.expo.confirmed = 0 ∧
      ((exposureCompletion .left bright s).link.inFlight.map LinkEntry.data) = some 875 ∧
      (exposureCompletion .left r s).link.inFlight = none ∧
      ((exposureCompletion .left r run).link.inFlight.map LinkEntry.data) = some 1000 ∧
      (exposureCompletion .right r run).right.expo.aeHeld = 1 := by decide +kernel

theorem test_witness_GlareTiles :
    let g := smallCfg.glare
    let t : Table Tile 128 :=
      (((Table.const 128 ⟨.clear, 0, 256⟩).set 1 ⟨.onset, 1, 256⟩).set 2 ⟨.dimmed, 0, 224⟩).set 3 ⟨.release, 4, 224⟩
    let r : Stats := { Stats.fresh Scene.night with hot := (((Table.const 128 0).set 0 64).set 1 64).set 2 32 }
    r.sceneAtStart = .night ∧ (Stats.fresh .day).sceneAtStart ≠ .night ∧ g.enterCount ≤ r.hot.get 0 0 ∧
      r.hot.get 4 0 < g.enterCount ∧ g.exitCount ≤ r.hot.get 2 0 ∧ r.hot.get 3 0 < g.exitCount ∧
      (((glareUpdate g t r).list.take 5).map fun x => (x.state, x.hold, x.gain)) =
        [(.onset, 1, 256), (.dimmed, 0, 224), (.dimmed, 0, 192), (.release, 5, 240), (.clear, 0, 256)] ∧
      (((glareUpdate g t (Stats.fresh .day)).list.take 4).map fun x => (x.state, x.hold, x.gain)) =
        [(.clear, 0, 256), (.clear, 0, 256), (.release, 0, 224), (.release, 5, 240)] := by decide +kernel

end Sys2Proof.Tests
end

/-! ## PROOFS: the tone curve (R44 to R51) -/

namespace Sys2Proof.Proofs.ToneUnit

open Sys2Proof Sys2Proof.Machine Sys2Proof.Safety Sys2Proof.Laws

/-! ### Tables and sums as lists -/

theorem sumOf_eq_sum (l : List Nat) : sumOf l = l.sum := by
  induction l with
  | nil => rfl
  | cons x rest ih => simp [sumOf, ih]

/-- A table's list is what its places read, in order. -/
theorem list_eq_map_get {α : Type} {n : Nat} (t : Table α n) (d : α) :
    t.list = (List.range n).map fun e => t.get e d := by
  refine List.ext_getElem (by simp [t.len]) fun e he _ => ?_
  simp [Table.get, List.getD, he]

theorem take_map_range {α : Type} (f : Nat → α) {k n : Nat} (h : k ≤ n) :
    ((List.range n).map f).take k = (List.range k).map f := by
  rw [← List.map_take, List.take_range, min_eq_left h]

/-! ### The target curve (R47, R48) -/

theorem clipExcess_table {n : Nat} (limit : Nat) (h : Table Nat n) :
    clipExcess limit h.list = ((List.range n).map fun e => h.get e 0 - limit).sum := by
  rw [clipExcess, sumOf_eq_sum, list_eq_map_get h 0, List.map_map]
  rfl

theorem clippedBins_table {n : Nat} (limit : Nat) (h : Table Nat n) :
    clippedBins limit h.list =
      (List.range n).map fun e =>
        min (h.get e 0) limit + ((List.range n).map fun e => h.get e 0 - limit).sum / 20 := by
  rw [← clipExcess_table, clippedBins]
  conv_lhs => arg 2; rw [list_eq_map_get h 0]
  rw [List.map_map]
  rfl

@[simp] theorem length_clippedBins (limit : Nat) (h : List Nat) : (clippedBins limit h).length = h.length := by
  simp [clippedBins]

@[simp] theorem length_cumulate (acc : Nat) (l : List Nat) : (cumulate acc l).length = l.length := by
  induction l generalizing acc with
  | nil => rfl
  | cons x rest ih => simp [cumulate, ih]

/-- The cumulative count at a place is the sum of the bins up to it. -/
theorem cumulate_getD (acc : Nat) (l : List Nat) {k : Nat} (hk : k < l.length) :
    (cumulate acc l).getD k 0 = acc + (l.take (k + 1)).sum := by
  induction l generalizing acc k with
  | nil => simp at hk
  | cons x rest ih =>
    cases k with
    | zero => simp [cumulate]
    | succ k =>
      have hk' : k < rest.length := by simpa using hk
      have hrest := ih (acc + x) hk'
      simp only [cumulate, List.getD_cons_succ, hrest, List.take_succ_cons, List.sum_cons]
      omega

theorem targetCurve_succ (t : ToneCfg) (r : Stats) {k : Nat} (hk : k < 20) :
    (targetCurve t r).getD (k + 1) 0 =
      targetNode t.blackFloor ((clippedBins (clipLimit r.total t.clip) r.hist.list).take (k + 1)).sum
        (clippedBins (clipLimit r.total t.clip) r.hist.list).sum := by
  have hlen : k < (clippedBins (clipLimit r.total t.clip) r.hist.list).length := by simpa [r.hist.len] using hk
  have hcum := cumulate_getD 0 _ hlen
  have hlen' : k < (cumulate 0 (clippedBins (clipLimit r.total t.clip) r.hist.list)).length := by simpa using hlen
  rw [List.getD_eq_getElem _ _ hlen', Nat.zero_add] at hcum
  rw [targetCurve, List.getD_cons_succ, List.getD_eq_getElem _ _ (by simpa using hlen'), List.getElem_map, hcum,
    sumOf_eq_sum]

/-- Rounding a part of `m` gives no more than `m`. -/
theorem roundHalfUp_mul_le (m : Nat) {c total : Nat} (h : c ≤ total) : roundHalfUp (m * c) total ≤ m := by
  rcases Nat.eq_zero_or_pos total with rfl | hpos
  · simp [roundHalfUp]
  · have hmul : m * c ≤ m * total := Nat.mul_le_mul_left m h
    refine Nat.lt_succ_iff.mp ((Nat.div_lt_iff_lt_mul (by omega)).mpr ?_)
    calc 2 * (m * c) + total < 2 * (m * total) + 2 * total := by omega
      _ = (m + 1) * (2 * total) := by ring

theorem targetNode_le {floor c total : Nat} (hf : floor ≤ 1023) (hc : c ≤ total) :
    targetNode floor c total ≤ 1023 := by
  have hround : roundHalfUp ((1023 - floor) * c) total ≤ 1023 - floor := roundHalfUp_mul_le _ hc
  calc targetNode floor c total = floor + roundHalfUp ((1023 - floor) * c) total := rfl
    _ ≤ 1023 := by omega

/-- Every target node lies in 0 to 1023. -/
theorem targetCurve_le {t : ToneCfg} (hf : t.blackFloor ≤ 1023) (r : Stats) {e : Nat} (he : e < 21) :
    (targetCurve t r).getD e 0 ≤ 1023 := by
  cases e with
  | zero => exact hf
  | succ k =>
    rw [targetCurve_succ t r (by omega)]
    exact targetNode_le hf (List.Sublist.sum_le_sum (List.take_sublist _ _) (by simp))

/-! ### The blend (R49) -/

/-- The blend with its least movement of 1 split by the direction. -/
theorem blendNode_eq (alpha old target : Nat) :
    blendNode alpha old target =
      ((old : Int) +
        if (((target : Int) - old) * alpha).tdiv 16 = 0 ∧ 0 < (target : Int) - old then 1
        else if (((target : Int) - old) * alpha).tdiv 16 = 0 ∧ (target : Int) - old < 0 then -1
        else (((target : Int) - old) * alpha).tdiv 16).toNat := by
  unfold blendNode
  by_cases hq : (((target : Int) - old) * alpha).tdiv 16 = 0
  · rcases lt_trichotomy (target : Int) old with hd | hd | hd
    · have hneg : ¬ (0 : Int) < (target : Int) - old := by omega
      have hne : (target : Int) - old ≠ 0 := by omega
      have hlt : (target : Int) - old < 0 := by omega
      simp only [hq, hneg, hne, hlt, ne_eq, not_false_eq_true, and_self, and_false, if_true, if_false]
    · simp [hd]
    · have hpos : (0 : Int) < (target : Int) - old := by omega
      simp only [hq, hpos, hpos.ne', ne_eq, not_false_eq_true, and_self, if_true]
  · simp only [hq, false_and, if_false]

/-- With ALPHA at most 16 a step upward does not pass its target. -/
theorem tdiv_step_le {d : Int} {alpha : Nat} (ha : alpha ≤ 16) : (d * alpha).tdiv 16 ≤ max d 0 := by
  rcases le_or_gt 0 d with hd | hd
  · have hprod : d * alpha ≤ d * 16 := mul_le_mul_of_nonneg_left (by exact_mod_cast ha) hd
    rw [Int.tdiv_eq_ediv_of_nonneg (by positivity)]
    omega
  · have hprod : d * alpha ≤ 0 := mul_nonpos_of_nonpos_of_nonneg hd.le (by positivity)
    have hq : (d * alpha).tdiv 16 = -((-(d * alpha)) / 16) := by
      rw [← Int.tdiv_eq_ediv_of_nonneg (by omega), Int.neg_tdiv, neg_neg]
    omega

/-- A blend lies at or below the larger of the old node and the target. -/
theorem blendNode_le {alpha old target top : Nat} (ha : alpha ≤ 16) (ho : old ≤ top) (ht : target ≤ top) :
    blendNode alpha old target ≤ top := by
  have hstep := tdiv_step_le (d := (target : Int) - old) ha
  rw [blendNode_eq]
  split_ifs <;> omega

/-! ### The monotone pass (R50) and the law L5 -/

@[simp] theorem length_monotoneFrom (lo : Nat) (l : List Nat) : (monotoneFrom lo l).length = l.length := by
  induction l generalizing lo with
  | nil => rfl
  | cons x rest ih => simp [monotoneFrom, ih]

theorem monotoneFrom_getD_zero (lo : Nat) {l : List Nat} (h : 0 < l.length) :
    (monotoneFrom lo l).getD 0 0 = max (l.getD 0 0) lo := by
  cases l with
  | nil => simp at h
  | cons x rest => rfl

/-- Each node of the pass is the larger of its own and its lower neighbour's. -/
theorem monotoneFrom_getD_succ (lo : Nat) (l : List Nat) {k : Nat} (hk : k + 1 < l.length) :
    (monotoneFrom lo l).getD (k + 1) 0 = max (l.getD (k + 1) 0) ((monotoneFrom lo l).getD k 0) := by
  induction l generalizing lo k with
  | nil => simp at hk
  | cons x rest ih =>
    have hk' : k < rest.length := by simpa using hk
    cases k with
    | zero => simpa [monotoneFrom] using monotoneFrom_getD_zero (max x lo) hk'
    | succ k => simpa [monotoneFrom] using ih (max x lo) hk'

/-- The pass makes a curve rise, and lifts no node above a bound of them all. -/
theorem risingFrom_monotoneFrom {lo : Nat} {l : List Nat} (hlo : lo ≤ 1023) (hl : ∀ x ∈ l, x ≤ 1023) :
    risingFrom lo (monotoneFrom lo l) = true := by
  induction l generalizing lo with
  | nil => rfl
  | cons x rest ih =>
    have hx : x ≤ 1023 := hl x List.mem_cons_self
    have htop : max x lo ≤ 1023 := max_le hx hlo
    simp [monotoneFrom, risingFrom, hx, hlo, ih htop fun y hy => hl y (List.mem_cons_of_mem x hy)]

/-- The pass leaves a rising curve as it is. -/
theorem monotoneFrom_of_rising {lo : Nat} {l : List Nat} (h : risingFrom lo l = true) : monotoneFrom lo l = l := by
  induction l generalizing lo with
  | nil => rfl
  | cons x rest ih =>
    simp only [risingFrom, Bool.and_eq_true, decide_eq_true_eq] at h
    obtain ⟨⟨hle, -⟩, hrest⟩ := h
    simp [monotoneFrom, max_eq_left hle, ih hrest]

theorem le_of_risingFrom {lo : Nat} {l : List Nat} (h : risingFrom lo l = true) : ∀ x ∈ l, x ≤ 1023 := by
  induction l generalizing lo with
  | nil => simp
  | cons x rest ih =>
    simp only [risingFrom, Bool.and_eq_true, decide_eq_true_eq] at h
    obtain ⟨⟨-, htop⟩, hrest⟩ := h
    exact List.forall_mem_cons.mpr ⟨htop, ih hrest⟩

theorem monotone_list (t : Table Nat 21) : (monotone t).list = monotoneFrom 0 t.list := by
  have hlen : (monotoneFrom 0 t.list).length = 21 := by simp [t.len]
  exact (list_eq_map_get ⟨monotoneFrom 0 t.list, hlen⟩ 0).symm

theorem monotone_get_zero (t : Table Nat 21) : (monotone t).get 0 0 = t.get 0 0 := by
  simpa [Table.get, monotone_list] using monotoneFrom_getD_zero 0 (l := t.list) (by simp [t.len])

theorem monotone_get_succ (t : Table Nat 21) {k : Nat} (hk : k < 20) :
    (monotone t).get (k + 1) 0 = max (t.get (k + 1) 0) ((monotone t).get k 0) := by
  simpa only [Table.get, monotone_list] using monotoneFrom_getD_succ 0 t.list (by rw [t.len]; omega)

theorem monotone_of_curveOk {t : Table Nat 21} (h : curveOk t = true) : monotone t = t :=
  table_ext (by rw [monotone_list, monotoneFrom_of_rising h])

theorem curveOk_monotone {t : Table Nat 21} (h : ∀ x ∈ t.list, x ≤ 1023) : curveOk (monotone t) = true := by
  rw [curveOk, monotone_list]
  exact risingFrom_monotoneFrom (Nat.zero_le _) h

theorem get_le_of_curveOk {t : Table Nat 21} (h : curveOk t = true) {e : Nat} (he : e < 21) : t.get e 0 ≤ 1023 :=
  le_of_risingFrom h _ (get_mem t 0 he)

/-! ### The curve after an accepted completion (R45 to R50) -/

theorem toneUpdate_kept {t : ToneCfg} {cur : Table Nat 21} {r : Stats} (h : t.host = true ∨ r.total = 0) :
    toneUpdate t cur r = cur := by
  rcases h with h | h <;> simp [toneUpdate, h]

/-- The nodes blended toward their targets, before the monotone pass. -/
def blended (t : ToneCfg) (cur : Table Nat 21) (r : Stats) : Table Nat 21 :=
  Table.ofFn 21 fun e => blendNode t.alpha (cur.get e 0) ((targetCurve t r).getD e 0)

theorem toneUpdate_auto {t : ToneCfg} {r : Stats} (hh : t.host = false) (hr : 0 < r.total) (cur : Table Nat 21) :
    toneUpdate t cur r = monotone (blended t cur r) := by
  simp [toneUpdate, blended, hh, hr.ne']

theorem blended_get (t : ToneCfg) (cur : Table Nat 21) (r : Stats) {e : Nat} (he : e < 21) :
    (blended t cur r).get e 0 = blendNode t.alpha (cur.get e 0) ((targetCurve t r).getD e 0) :=
  get_ofFn _ _ he

theorem blended_le {t : ToneCfg} {cur : Table Nat 21} (hc : curveOk cur = true) (hf : t.blackFloor ≤ 1023)
    (ha : t.alpha ≤ 16) (r : Stats) : ∀ x ∈ (blended t cur r).list, x ≤ 1023 := by
  have hall : (blended t cur r).list.all (fun x => decide (x ≤ 1023)) = true :=
    ofFn_all _ _ fun e he =>
      decide_eq_true (blendNode_le ha (get_le_of_curveOk hc he) (targetCurve_le hf r he))
  simpa using hall

/-- L5 is kept by an accepted completion. -/
theorem curveOk_toneUpdate {t : ToneCfg} {cur : Table Nat 21} (hc : curveOk cur = true) (hf : t.blackFloor ≤ 1023)
    (ha : t.alpha ≤ 16) (r : Stats) : curveOk (toneUpdate t cur r) = true := by
  by_cases hkept : t.host = true ∨ r.total = 0
  · rwa [toneUpdate_kept hkept]
  · obtain ⟨hh, hr⟩ := not_or.mp hkept
    rw [toneUpdate_auto (Bool.eq_false_iff.mpr hh) (Nat.pos_of_ne_zero hr)]
    exact curveOk_monotone (blended_le hc hf ha r)

/-- Settles O57: the target's closed form from the list operations of R47 and R48, the blend node by node, and the
monotone pass by induction along the curve. -/
theorem toneCurve : Obligations.ToneCurve := by
  unfold Obligations.ToneCurve
  intro t cur r new limit excess clipped count target blend
  have hbins : clippedBins (clipLimit r.total t.clip) r.hist.list = (List.range 20).map clipped :=
    clippedBins_table _ _
  have htarget : ∀ e < 21, (targetCurve t r).getD e 0 = target e := by
    intro e he
    cases e with
    | zero => rfl
    | succ k => rw [targetCurve_succ t r (by omega), hbins, take_map_range _ (by omega)]; rfl
  have hblend : ∀ e < 21, (blended t cur r).get e 0 = blend e := by
    intro e he
    rw [blended_get t cur r he, htarget e he, blendNode_eq]
  refine ⟨toneUpdate_kept, fun hh hr => ?_, fun hc hf _ ha => curveOk_toneUpdate hc hf ha r,
    fun n => ⟨monotone_get_zero n, fun _ hk => monotone_get_succ n hk, monotone_of_curveOk⟩⟩
  have hnew : new = monotone (blended t cur r) := toneUpdate_auto hh hr cur
  rw [hnew]
  refine ⟨?_, fun k hk => ?_⟩
  · rw [monotone_get_zero, hblend 0 (by omega)]
  · rw [monotone_get_succ _ hk, hblend (k + 1) (by omega)]

end Sys2Proof.Proofs.ToneUnit

/-! ## PROOFS: the exposure unit at an accepted completion (R53 to R57) -/

namespace Sys2Proof.Proofs.ExposureUnit

open Sys2Proof Sys2Proof.Machine Sys2Proof.Laws

/-! ### Changes of the exposure unit in one normal form: the unit set to a value -/

theorem updExpo_eq_set (d : SideId) (f : Exposure → Exposure) (s : State) :
    updExpo d f s = updExpo d (fun _ => f (s.side d).expo) s := by cases d <;> rfl

theorem updExpo_set (d : SideId) (f : Exposure → Exposure) (e : Exposure) (s : State) :
    updExpo d f (updExpo d (fun _ => e) s) = updExpo d (fun _ => f e) s :=
  updSide_updSide d _ _ s

/-- The entry an exposure request queues (R53). -/
def requestEntry (d : SideId) (v : Nat) (s : State) : LinkEntry :=
  { kind := .exposure, side := d, read := false, reg := (s.side d).cfg.expo.expoReg, data := BitVec.ofNat 16 v,
    attempts := 0 }

/-- Requesting on a set unit takes EXPO_REG from the state before and makes the request present. -/
theorem queueExposure_set (d : SideId) (v : Nat) (e : Exposure) (s : State) :
    queueExposure d v (updExpo d (fun _ => e) s) =
      enqueueEntry (requestEntry d v s) (updExpo d (fun _ => { e with request := true }) s) := by
  simp only [queueExposure, updExpo_set, side_updExpo, requestEntry]

/-! ### The arithmetic of R57 -/

theorem expoRatio_eq {c : ExpoCfg} {m16 ratio : Nat}
    (h : (ratio : Int) = max 192 (min 320 (256 + ((c.target16 : Int) - m16) * c.aeGain))) :
    expoRatio c m16 = ratio := by
  rw [expoRatio, expoError, ← h, Int.toNat_natCast]

theorem newExposure_eq {c : ExpoCfg} {m16 ratio : Nat} (h : expoRatio c m16 = ratio) (e : Nat) :
    newExposure c m16 e = max c.eMin (min c.eMax ((e * ratio + 128) / 256)) := by
  rw [newExposure, h]; rfl

theorem expoWanted_iff (c : ExpoCfg) (m16 e : Nat) :
    expoWanted c m16 e = true ↔
      c.deadband < ((c.target16 : Int) - m16).natAbs ∧ newExposure c m16 e ≠ e := by
  rw [expoWanted, Bool.and_eq_true, decide_eq_true_eq, decide_eq_true_eq]; rfl

/-! ### What the unit does when it acts (R56, R57), the unit set to `e` -/

theorem exposureActs_settling (d : SideId) (total : Nat) {e : Exposure} (h : 0 < e.settle) (s : State) :
    exposureActs d total (updExpo d (fun _ => e) s) = updExpo d (fun _ => { e with settle := e.settle - 1 }) s := by
  simp [exposureActs, h, updExpo_set]

theorem exposureActs_requests (d : SideId) {total : Nat} {e : Exposure} (hs : e.settle = 0) (s : State)
    (ht : total ≠ 0) (hw : expoWanted (s.side d).cfg.expo e.m16 e.confirmed = true) :
    exposureActs d total (updExpo d (fun _ => e) s) =
      queueExposure d (newExposure (s.side d).cfg.expo e.m16 e.confirmed) (updExpo d (fun _ => e) s) := by
  simp [exposureActs, exposureStep, hs, ht, hw]

theorem exposureActs_quiet (d : SideId) {total : Nat} {e : Exposure} (hs : e.settle = 0) (s : State)
    (h : ¬(total ≠ 0 ∧ expoWanted (s.side d).cfg.expo e.m16 e.confirmed = true)) :
    exposureActs d total (updExpo d (fun _ => e) s) = updExpo d (fun _ => e) s := by
  simp only [exposureActs, exposureStep, side_updExpo, hs, lt_irrefl, if_false, if_neg h]

/-! ### An accepted completion (R54, R55) -/

/-- The unit with the record's mean octave taken. -/
def measured (r : Stats) (e : Exposure) : Exposure := { e with m16 := meanOctave r }

/-- The unit with the mean octave taken and the completion counted as held. -/
def heldOnce (r : Stats) (e : Exposure) : Exposure :=
  { measured r e with aeHeld := min 4294967295 (e.aeHeld + 1) }

/-- A completion's three outcomes, with every state of the unit in normal form. -/
theorem exposureCompletion_eq (d : SideId) (r : Stats) (s : State) :
    exposureCompletion d r s =
      if (s.side d).inService && !(s.side d).cfg.expo.manual && decide ((s.side d).expo.confirmed ≠ 0) &&
          !(s.side d).expo.request then
        exposureActs d r.total (updExpo d (fun _ => measured r (s.side d).expo) s)
      else if (s.side d).inService && !(s.side d).cfg.expo.manual && !(s.side d).expo.request then
        queueExposure d (s.side d).cfg.expo.eInit (updExpo d (fun _ => heldOnce r (s.side d).expo) s)
      else updExpo d (fun _ => heldOnce r (s.side d).expo) s := by
  rw [exposureCompletion, updExpo_eq_set]
  simp only [updExpo_set, side_updExpo]
  rfl

section
variable {d : SideId} {s : State} (r : Stats)

theorem exposureCompletion_acts (hin : (s.side d).inService = true) (hauto : (s.side d).cfg.expo.manual = false)
    (hconf : (s.side d).expo.confirmed ≠ 0) (hreq : (s.side d).expo.request = false) :
    exposureCompletion d r s = exposureActs d r.total (updExpo d (fun _ => measured r (s.side d).expo) s) := by
  simp [exposureCompletion_eq, hin, hauto, hconf, hreq]

theorem exposureCompletion_reseeds (hin : (s.side d).inService = true) (hauto : (s.side d).cfg.expo.manual = false)
    (hconf : (s.side d).expo.confirmed = 0) (hreq : (s.side d).expo.request = false) :
    exposureCompletion d r s =
      queueExposure d (s.side d).cfg.expo.eInit (updExpo d (fun _ => heldOnce r (s.side d).expo) s) := by
  simp [exposureCompletion_eq, hin, hauto, hconf, hreq]

theorem exposureCompletion_held
    (h : (s.side d).inService = false ∨ (s.side d).cfg.expo.manual = true ∨ (s.side d).expo.request = true) :
    exposureCompletion d r s = updExpo d (fun _ => heldOnce r (s.side d).expo) s := by
  rcases h with h | h | h <;> simp [exposureCompletion_eq, h]

end

/-- Settles O59: the outcome of the completion by the tests of R55 and R56, and within the exposure step by R57. -/
theorem exposureStep : Obligations.ExposureStep := by
  unfold Obligations.ExposureStep
  intro d r s x c e t took measuredNow heldNow ask err ratio new hratio hnew
  have hstep : newExposure c (meanOctave r) e.confirmed = new := by
    rw [newExposure_eq (expoRatio_eq hratio), hnew]
  have hwanted : expoWanted c (meanOctave r) e.confirmed = true ↔ c.deadband < err.natAbs ∧ new ≠ e.confirmed := by
    rw [expoWanted_iff, hstep]
  refine ⟨fun hin hauto hconf hreq => ?_, fun hin hauto hconf hreq => ?_, fun h => exposureCompletion_held r h⟩
  · have hacts : t = exposureActs d r.total (took measuredNow) := exposureCompletion_acts r hin hauto hconf hreq
    refine ⟨fun hset => ?settles, fun hset ht hdead hchange => ?requests, fun hset hquiet => ?quiet⟩
    case settles => exact hacts.trans (exposureActs_settling d r.total (e := measuredNow) hset s)
    case requests =>
      calc t = queueExposure d (newExposure c (meanOctave r) e.confirmed) (took measuredNow) :=
            hacts.trans (exposureActs_requests d (e := measuredNow) hset s ht (hwanted.mpr ⟨hdead, hchange⟩))
        _ = ask new measuredNow := by rw [hstep]; exact queueExposure_set d new measuredNow s
    case quiet =>
      refine hacts.trans (exposureActs_quiet d (e := measuredNow) hset s fun ⟨ht, hw⟩ => ?_)
      obtain ⟨hdead, hchange⟩ := hwanted.mp hw
      rcases hquiet with h | h | h
      · exact ht h
      · omega
      · exact hchange h
  · calc t = queueExposure d c.eInit (took heldNow) := exposureCompletion_reseeds r hin hauto hconf hreq
      _ = ask c.eInit heldNow := queueExposure_set d c.eInit heldNow s

end Sys2Proof.Proofs.ExposureUnit

/-! ## PROOFS: the glare tiles (R66 to R70) -/

namespace Sys2Proof.Proofs.GlareMap

open Sys2Proof Sys2Proof.Machine Sys2Proof.Laws

/-! ### The tables of R67 to R69, a cell each -/

/-- The hold a hot night update gives a tile in CLEAR or ONSET (R67). -/
def onsetHold (x : Tile) : Nat := if x.state = .clear then 1 else satAdd 15 x.hold 1

theorem onsetStep_dims {g : GlareCfg} {hold : Nat} (h : g.onsetFrames ≤ hold) :
    onsetStep g hold = ⟨.dimmed, 0, stepDown g 256⟩ := if_pos h

theorem onsetStep_waits {g : GlareCfg} {hold : Nat} (h : hold < g.onsetFrames) :
    onsetStep g hold = ⟨.onset, hold, 256⟩ := if_neg (Nat.not_le.mpr h)

theorem releaseStep_clears {a : Nat} (h : a = 256) (hold : Nat) : releaseStep a hold = Tile.clear := if_pos h

theorem releaseStep_stays {a : Nat} (h : a ≠ 256) (hold : Nat) : releaseStep a hold = ⟨.release, hold, a⟩ := if_neg h

section
variable {g : GlareCfg} {n : Nat} {x : Tile}

theorem nightTile_undimmed_hot (hx : x.state = .clear ∨ x.state = .onset) (hn : g.enterCount ≤ n) :
    nightTile g n x = onsetStep g (onsetHold x) := by
  rcases hx with hx | hx <;> simp [nightTile, onsetHold, hx, hn]

theorem nightTile_undimmed_cool (hx : x.state = .clear ∨ x.state = .onset) (hn : n < g.enterCount) :
    nightTile g n x = Tile.clear := by
  rcases hx with hx | hx <;> simp [nightTile, hx, Nat.not_le.mpr hn]

theorem nightTile_dimming_hot (hx : x.state = .dimmed ∨ x.state = .release) (hn : g.exitCount ≤ n) :
    nightTile g n x = ⟨.dimmed, 0, stepDown g x.gain⟩ := by
  rcases hx with hx | hx <;> simp [nightTile, hx, hn]

theorem nightTile_dimmed_cool (hx : x.state = .dimmed) (hn : n < g.exitCount) :
    nightTile g n x = ⟨.release, 0, x.gain⟩ := by
  simp [nightTile, hx, Nat.not_le.mpr hn]

theorem nightTile_release_cool (hx : x.state = .release) (hn : n < g.exitCount) :
    nightTile g n x =
      releaseStep (if g.releaseHold < satAdd 15 x.hold 1 then stepUp g x.gain else x.gain) (satAdd 15 x.hold 1) := by
  simp [nightTile, hx, Nat.not_le.mpr hn]

theorem dayTile_undimmed (hx : x.state = .clear ∨ x.state = .onset) : dayTile g x = Tile.clear := by
  rcases hx with hx | hx <;> simp [dayTile, hx]

theorem dayTile_dimmed (hx : x.state = .dimmed) : dayTile g x = ⟨.release, 0, x.gain⟩ := by
  simp [dayTile, hx]

theorem dayTile_release (hx : x.state = .release) :
    dayTile g x = releaseStep (stepUp g x.gain) (satAdd 15 x.hold 1) := by
  simp [dayTile, hx]

end

/-! ### A tile of the table after an update (R66) and after the lift (R70) -/

theorem glareUpdate_get_night (g : GlareCfg) (t : Table Tile 128) {r : Stats} (hr : r.sceneAtStart = .night) {i : Nat}
    (hi : i < 128) (d : Tile) :
    (glareUpdate g t r).get i d = nightTile g (r.hot.get i 0) (t.get i Tile.clear) := by
  rw [glareUpdate, if_pos hr, get_ofFn _ _ hi]

theorem glareUpdate_get_day (g : GlareCfg) (t : Table Tile 128) {r : Stats} (hr : r.sceneAtStart ≠ .night) {i : Nat}
    (hi : i < 128) (d : Tile) :
    (glareUpdate g t r).get i d = dayTile g (t.get i Tile.clear) := by
  rw [glareUpdate, if_neg hr, get_map _ _ Tile.clear hi]

theorem liftTiles_get (old new : Nat) (t : Table Tile 128) {i : Nat} (hi : i < 128) (d : Tile) :
    (liftTiles old new t).get i d =
      if old < new then { t.get i d with gain := max new (t.get i d).gain } else t.get i d := by
  rw [liftTiles]
  split_ifs
  · exact get_map _ t d hi d
  · rfl

/-- Settles O60: each tile's move is the cell of R67, R68 or R69 for its state and its hotness. -/
theorem glareTiles : Obligations.GlareTiles := by
  unfold Obligations.GlareTiles
  intro g t r i hi x n y clear down up
  refine ⟨fun hnight => ?night, fun hday => ?day, fun old new => liftTiles_get old new t hi clear⟩
  case night =>
    have hy : y = nightTile g n x := glareUpdate_get_night g t hnight hi _
    rw [hy]
    refine ⟨nightTile_undimmed_cool, fun hx hn => ?undimmed, nightTile_dimming_hot, nightTile_dimmed_cool,
      fun hx hn => ?release⟩
    case undimmed =>
      rw [nightTile_undimmed_hot hx hn]
      exact ⟨onsetStep_dims, onsetStep_waits⟩
    case release =>
      rw [nightTile_release_cool hx hn]
      exact ⟨fun ha => releaseStep_clears ha _, fun ha => releaseStep_stays ha _⟩
  case day =>
    have hy : y = dayTile g x := glareUpdate_get_day g t hday hi _
    rw [hy]
    refine ⟨dayTile_undimmed, dayTile_dimmed, fun hx => ?_⟩
    rw [dayTile_release hx]
    exact ⟨fun ha => releaseStep_clears ha _, fun ha => releaseStep_stays ha _⟩

end Sys2Proof.Proofs.GlareMap

/-! ## PROOFS: the scene monitor at an accepted completion (R54, R74, R75, R77, R78) -/

namespace Sys2Proof.Proofs.SceneMonitor

open Sys2Proof Sys2Proof.Machine Sys2Proof.Laws

/-! ### The mean octave (R54) -/

theorem octaveSum_eq_sum (l : List Nat) (e : Nat) :
    octaveSum l e = ((List.range l.length).map fun k => (e + k) * l.getD k 0).sum := by
  induction l generalizing e with
  | nil => rfl
  | cons h rest ih =>
    simp [octaveSum, ih, List.range_succ_eq_map, Function.comp_def, Nat.add_assoc, Nat.add_comm 1]

theorem octaveSum_table {n : Nat} (h : Table Nat n) :
    octaveSum h.list 0 = ((List.range n).map fun k => k * h.get k 0).sum := by
  simp [octaveSum_eq_sum, h.len, Table.get]

theorem meanOctave_empty {r : Stats} (h : r.total = 0) : meanOctave r = 0 := if_pos h

theorem meanOctave_of_pos {r : Stats} (h : 0 < r.total) :
    meanOctave r = min 304 (16 * ((List.range 20).map fun k => k * r.hist.get k 0).sum / r.total) := by
  rw [meanOctave, if_neg h.ne', octaveSum_table]

theorem meanOctave_le (r : Stats) : meanOctave r ≤ 304 := by
  rw [meanOctave]
  split_ifs <;> omega

/-! ### The exposure octave (R74) -/

theorem exposureOctave_eq {k e : Nat} (hlo : 2 ^ k ≤ e) (hhi : e < 2 ^ (k + 1)) :
    exposureOctave e = 16 * k + 16 * (e - 2 ^ k) / 2 ^ k := by
  have hpos : 0 < 2 ^ k := Nat.two_pow_pos k
  rw [exposureOctave, (Nat.log2_eq_iff (by omega)).mpr ⟨hlo, hhi⟩]

/-- The interpolation stays inside the octave. -/
theorem exposureOctave_lt (e : Nat) : exposureOctave e < 16 * (e.log2 + 1) := by
  have htop : e < 2 ^ e.log2 * 2 := Nat.lt_log2_self
  have hpart : 16 * (e - 2 ^ e.log2) / 2 ^ e.log2 < 16 :=
    (Nat.div_lt_iff_lt_mul (Nat.two_pow_pos _)).mpr (by omega)
  rw [exposureOctave]
  omega

/-- It rises within an octave by the interpolation, and from one octave to a higher one by the bound of the lower. -/
theorem exposureOctave_mono : Monotone exposureOctave := by
  intro a b hab
  have hlog : a.log2 ≤ b.log2 := by
    simpa only [Nat.log2_eq_log_two] using Nat.log_mono_right hab
  rcases hlog.eq_or_lt with heq | hlt
  · rw [exposureOctave, exposureOctave, heq]
    gcongr
  · calc exposureOctave a ≤ 16 * (a.log2 + 1) := (exposureOctave_lt a).le
      _ ≤ 16 * b.log2 := by omega
      _ ≤ exposureOctave b := Nat.le_add_right _ _

theorem exposureOctave_le {e : Nat} (h : e ≤ 65535) : exposureOctave e ≤ 255 :=
  calc exposureOctave e ≤ exposureOctave 65535 := exposureOctave_mono h
    _ = 255 := by decide

/-! ### The verdict and the run it builds (R77, R78) -/

/-- A verdict that keeps to the rows of R77 is the monitor's. -/
theorem eq_verdict {c : SceneCfg} {lampOn : Bool} {st : Scene} {k : Nat} {v : Option Scene}
    (hday : st = .day → v = if k < effective c lampOn c.duskEnter then some .dusk else none)
    (hdusk : st = .dusk → v =
      if effective c lampOn c.duskExit < k then some .day
      else if k < effective c lampOn c.nightEnter then some .night else none)
    (hnight : st = .night → v = if effective c lampOn c.nightExit < k then some .dusk else none) :
    v = verdict c lampOn st k := by
  cases st with
  | day => exact hday rfl
  | dusk => exact hdusk rfl
  | night => exact hnight rfl

/-- The persistence count with a verdict for `x` taken (R78). -/
def runCount (m : SceneMon) (x : Scene) : Nat := if m.candidate = some x then m.persist + 1 else 1

theorem takeVerdict_none (c : SceneCfg) (m : SceneMon) :
    takeVerdict c none m = { m with candidate := none, persist := 0 } := rfl

theorem takeVerdict_changes {c : SceneCfg} {m : SceneMon} {x : Scene} (h : c.persist ≤ runCount m x) :
    takeVerdict c (some x) m = { m with state := x, candidate := none, persist := 0 } := if_pos h

theorem takeVerdict_counts {c : SceneCfg} {m : SceneMon} {x : Scene} (h : runCount m x < c.persist) :
    takeVerdict c (some x) m = { m with candidate := some x, persist := runCount m x } := if_neg (Nat.not_le.mpr h)

theorem takeVerdict_key (c : SceneCfg) (v : Option Scene) (m : SceneMon) : (takeVerdict c v m).key = m.key := by
  cases v with
  | none => rfl
  | some x =>
    rcases Nat.lt_or_ge (runCount m x) c.persist with h | h
    · rw [takeVerdict_counts h]
    · rw [takeVerdict_changes h]

/-! ### An accepted completion (R75) -/

theorem sceneUpdate_keyless (c : SceneCfg) (lampOn : Bool) {e : Nat} {r : Stats} (h : r.total = 0 ∨ e = 0)
    (m : SceneMon) : sceneUpdate c lampOn e r m = m := if_pos h

theorem sceneUpdate_keyed (c : SceneCfg) (lampOn : Bool) {e : Nat} {r : Stats} (hr : 0 < r.total) (he : 1 ≤ e)
    (m : SceneMon) :
    sceneUpdate c lampOn e r m =
      takeVerdict c (verdict c lampOn m.state (sceneKey r e)) { m with key := sceneKey r e } :=
  if_neg (by omega)

/-- Settles O58: the octaves by their closed forms and bounds, and the monitor by its verdict, which R77 fixes. -/
theorem sceneClassification : Obligations.SceneClassification := by
  unfold Obligations.SceneClassification
  intro c lampOn e r m key eff new
  refine ⟨meanOctave_empty, meanOctave_of_pos, fun _ => exposureOctave_eq, fun _ he => ?bounds,
    fun h => sceneUpdate_keyless c lampOn h m, fun hr he => ?keyed⟩
  case bounds =>
    have hx : exposureOctave e ≤ 255 := exposureOctave_le he
    have hm : meanOctave r ≤ 304 := meanOctave_le r
    exact ⟨hx, by omega, by omega, fun _ _ h => exposureOctave_mono h⟩
  case keyed =>
    have hnew : new = takeVerdict c (verdict c lampOn m.state key) { m with key := key } :=
      sceneUpdate_keyed c lampOn hr he m
    refine ⟨by rw [hnew, takeVerdict_key], fun v hday hdusk hnight => ?_⟩
    rw [← eq_verdict hday hdusk hnight] at hnew
    refine ⟨?silent, ?speaks⟩
    case silent =>
      rintro rfl
      rw [hnew, takeVerdict_none]
      exact ⟨rfl, rfl, rfl⟩
    case speaks =>
      rintro x rfl
      refine ⟨fun hreached => ?_, fun hshort => ?_⟩
      · rw [hnew, takeVerdict_changes (m := { m with key := key }) hreached]
        exact ⟨rfl, rfl, rfl⟩
      · rw [hnew, takeVerdict_counts (m := { m with key := key }) hshort]
        exact ⟨rfl, rfl, rfl⟩

end Sys2Proof.Proofs.SceneMonitor

/-! ## PROOFS: the judgement of a response (R137) -/

namespace Sys2Proof.Proofs.ResponseJudgement

open Sys2Proof Sys2Proof.Machine Sys2Proof.Laws

/-! ### Tests 1 and 2 of R137 as a predicate of the four characters -/

/-- Tests 1 and 2: a character is flawed, or the check character is not the exclusive OR of the first three. -/
def Garbled (c1 c2 c3 c4 : RxChar) : Prop :=
  rxBad c1 = true ∨ rxBad c2 = true ∨ rxBad c3 = true ∨ rxBad c4 = true ∨
    c4.data ≠ xorBytes [c1.data, c2.data, c3.data]

theorem xorBytes_three (a b c : Byte) : xorBytes [a, b, c] = a ^^^ b ^^^ c := by
  calc a ^^^ (b ^^^ (c ^^^ 0#8)) = a ^^^ (b ^^^ c) := by rw [BitVec.xor_zero]
    _ = a ^^^ b ^^^ c := (BitVec.xor_assoc a b c).symm

theorem garbled_iff (c1 c2 c3 c4 : RxChar) :
    Garbled c1 c2 c3 c4 ↔
      (c1.stop = false ∨ c1.mark = true) ∨ (c2.stop = false ∨ c2.mark = true) ∨
      (c3.stop = false ∨ c3.mark = true) ∨ (c4.stop = false ∨ c4.mark = true) ∨
      c4.data ≠ c1.data ^^^ c2.data ^^^ c3.data := by
  simp only [Garbled, rxBad_iff, xorBytes_three]

/-! ### The judgement, an equation for each outcome -/

section
variable {e : LinkEntry} {c1 c2 c3 c4 : RxChar}

theorem judge_garbled (h : Garbled c1 c2 c3 c4) : judge e c1 c2 c3 c4 = .badCheck := by
  rcases h with h1 | h2 | h3 | h4 | hcheck
  · simp [judge, h1]
  · simp [judge, h2]
  · simp [judge, h3]
  · simp [judge, h4]
  · simp [judge, hcheck]

/-- Past tests 1 and 2 the status and the echo decide. -/
theorem judge_sound (h : ¬Garbled c1 c2 c3 c4) :
    judge e c1 c2 c3 c4 =
      if c1.data = 0x5A then .refused
      else if c1.data ≠ 0xA5 then .badCheck
      else if e.read = false ∧ halfOf c2.data c3.data ≠ e.data then .badCheck
      else .done (halfOf c2.data c3.data) := by
  simp only [Garbled, not_or, Bool.not_eq_true, ne_eq, not_not] at h
  obtain ⟨h1, h2, h3, h4, hcheck⟩ := h
  simp [judge, h1, h2, h3, h4, hcheck]

theorem judge_status_refused (h : ¬Garbled c1 c2 c3 c4) (hs : c1.data = 0x5A) :
    judge e c1 c2 c3 c4 = .refused := by
  rw [judge_sound h, if_pos hs]

theorem judge_status_unknown (h : ¬Garbled c1 c2 c3 c4) (hdone : c1.data ≠ 0xA5) (hrefused : c1.data ≠ 0x5A) :
    judge e c1 c2 c3 c4 = .badCheck := by
  rw [judge_sound h, if_neg hrefused, if_pos hdone]

/-- A status of 0xA5 leaves the echo of a write to be tested. -/
theorem judge_status_done (h : ¬Garbled c1 c2 c3 c4) (hs : c1.data = 0xA5) :
    judge e c1 c2 c3 c4 =
      if e.read = false ∧ halfOf c2.data c3.data ≠ e.data then .badCheck
      else .done (halfOf c2.data c3.data) := by
  have hrefused : c1.data ≠ 0x5A := by rw [hs]; decide
  rw [judge_sound h, if_neg hrefused, if_neg (not_not.mpr hs)]

end

/-- Settles O30, test by test: a garbled response, then the status, then the echo of a write. -/
theorem responseJudged : Obligations.ResponseJudged := by
  unfold Obligations.ResponseJudged
  intro e c1 c2 c3 c4 flawed data garbled
  have hgarbled : Garbled c1 c2 c3 c4 ↔ garbled := garbled_iff c1 c2 c3 c4
  rw [← hgarbled]
  refine ⟨judge_garbled, judge_status_refused, judge_status_unknown, fun h hs hwrite hecho => ?echo,
    fun h hs hok => ?done⟩
  case echo =>
    rw [judge_status_done h hs]
    exact if_pos ⟨hwrite, hecho⟩
  case done =>
    rw [judge_status_done h hs]
    refine if_neg fun ⟨hwrite, hecho⟩ => ?_
    rcases hok with hread | heq
    · exact absurd hread (by rw [hwrite]; decide)
    · exact hecho heq

end Sys2Proof.Proofs.ResponseJudgement

/-! ## PROOFS: the output pins (R168, R126, R129, R134) -/

namespace Sys2Proof.Proofs.OutputPins

open Sys2Proof Sys2Proof.Machine Sys2Proof.Laws

/-! ### FAULT_N (R168) -/

/-- A condition kind at a scope it has a record of: REPORT_PATH is of GLOBAL, the others are of a side (R151, R153). -/
def IsCondition (k : FaultKind) (sc : Scope) : Prop :=
  k ∈ [FaultKind.cameraFrozen, .viewStale, .displayIdle, .sideFailed, .sideDegraded, .reportPath] ∧
    (k = .reportPath ↔ sc = .global)

/-- The conditions of the two sides, and REPORT_PATH: eleven records of the table (R153). -/
def conditionRecords : List (FaultKind × Scope) :=
  ([FaultKind.cameraFrozen, .viewStale, .displayIdle, .sideFailed, .sideDegraded].flatMap fun k =>
    [(k, .left), (k, .right)]) ++ [(.reportPath, .global)]

theorem isCondition_of_mem : ∀ r ∈ conditionRecords, IsCondition r.1 r.2 := by
  unfold IsCondition
  decide

theorem isConditionCode_code {k : FaultKind} {sc : Scope} (h : IsCondition k sc) : isConditionCode k.code = true := by
  have hcode : ∀ k ∈ [FaultKind.cameraFrozen, .viewStale, .displayIdle, .sideFailed, .sideDegraded, .reportPath],
      isConditionCode k.code = true := by decide
  exact hcode k h.1

/-- The kind code of a record is found again from its place in the table. -/
theorem codeOfIndex_recIndex (k : FaultKind) (sc : Scope) : codeOfIndex (recIndex k sc) = k.code := by
  cases k <;> cases sc <;> rfl

/-- A place of the table with a condition's code is the record of one of the conditions. -/
theorem exists_condition_at {i : Nat} (hi : i < 40) (hcode : isConditionCode (codeOfIndex i) = true) :
    ∃ k sc, IsCondition k sc ∧ recIndex k sc = i := by
  have hfound : ∀ i < 40, isConditionCode (codeOfIndex i) = true → ∃ r ∈ conditionRecords, recIndex r.1 r.2 = i := by
    decide
  obtain ⟨r, hr, hplace⟩ := hfound i hi hcode
  exact ⟨r.1, r.2, isCondition_of_mem r hr, hplace⟩

/-- Cause 4 of R168, by kind and scope and not by place in the table. -/
theorem levelledCondition_iff (s : State) :
    levelledCondition s = true ↔
      ∃ k sc, IsCondition k sc ∧ isActive k sc s = true ∧ s.snoop.cfg.faultPinLevel ≤ kindLevel s k := by
  simp only [levelledCondition, List.any_eq_true, List.mem_range, Bool.and_eq_true, decide_eq_true_eq]
  constructor
  · rintro ⟨i, hi, ⟨hcode, hflag⟩, hlevel⟩
    obtain ⟨k, sc, hk, rfl⟩ := exists_condition_at hi hcode
    rw [codeOfIndex_recIndex] at hlevel
    exact ⟨k, sc, hk, hflag, hlevel⟩
  · rintro ⟨k, sc, hk, hflag, hlevel⟩
    refine ⟨recIndex k sc, recIndex_lt k sc, ⟨?_, hflag⟩, ?_⟩ <;> rw [codeOfIndex_recIndex]
    · exact isConditionCode_code hk
    · exact hlevel

theorem exists_side_failed_iff (s : State) :
    (∃ d, (s.side d).head.health = .failed) ↔ s.left.head.health = .failed ∨ s.right.head.health = .failed := by
  constructor
  · rintro ⟨d, h⟩
    cases d
    · exact .inl h
    · exact .inr h
  · rintro (h | h)
    · exact ⟨.left, h⟩
    · exact ⟨.right, h⟩

/-- The four causes of R168. -/
theorem faultAsserted_iff (s : State) :
    s.faultAsserted = true ↔
      s.inReset = true ∨ (∃ d, (s.side d).head.health = .failed) ∨ isActive .reportPath .global s = true ∨
        ∃ k sc, IsCondition k sc ∧ isActive k sc s = true ∧ s.snoop.cfg.faultPinLevel ≤ kindLevel s k := by
  rw [exists_side_failed_iff, ← levelledCondition_iff]
  simp only [State.faultAsserted, State.pathFailing, Bool.or_eq_true, beq_iff_eq, or_assoc]

/-! ### The enable pins (R126, R129) -/

theorem pinLevel_in_reset {s : State} (d : SideId) (k : Nat) (h : s.inReset = true) : pinLevel s d k = false := by
  simp [pinLevel, h]

theorem pinLevel_bypassed {s : State} {d : SideId} {k : Nat} (h : s.inReset = false)
    (hbyp : (s.side d).cfg.head.bypEn.getLsbD k = true) :
    pinLevel s d k = (s.side d).cfg.head.bypVal.getLsbD k := by
  simp [pinLevel, h, hbyp]

theorem pinLevel_sequenced {s : State} {d : SideId} {k : Nat} (h : s.inReset = false)
    (hbyp : (s.side d).cfg.head.bypEn.getLsbD k = false) : pinLevel s d k = decide (k < (s.side d).seq.step) := by
  simp [pinLevel, seqLevel, h, hbyp]

/-! ### CTL (R134, R149) -/

section
variable (first : Bool) (b : Byte)

@[simp] theorem charBit_start : charBit first b 0 = false := rfl

theorem charBit_data {i : Nat} (h : i < 8) : charBit first b (1 + i) = b.getLsbD i := by
  have hle : 1 + i ≤ 8 := by omega
  simp [charBit, hle]

@[simp] theorem charBit_mark : charBit first b 9 = first := rfl

@[simp] theorem charBit_stop : charBit first b 10 = true := rfl

end

/-- A request is being sent and is not cut: CTL carries its characters. -/
def Transmitting (s : State) : Prop :=
  s.inReset = false ∧ s.link.line = .sending ∧ ∀ e, s.link.cutAt = some e → s.refSince s.link.txStart < e

/-- Outside the six characters of a request, and after its cut, CTL is released. -/
theorem ctlLow_released {s : State}
    (h : s.inReset = true ∨ s.link.line ≠ .sending ∨ 6 * charRef s.link.divisor ≤ s.refSince s.link.txStart ∨
      ∃ e, s.link.cutAt = some e ∧ e ≤ s.refSince s.link.txStart) : ctlLow s = false := by
  rcases h with hreset | hline | hend | ⟨e, hcut, hle⟩
  · simp [ctlLow, hreset]
  · simp [ctlLow, hline]
  · have hpos : 0 < charRef s.link.divisor := by unfold charRef bitRef; omega
    have hpast : ¬s.refSince s.link.txStart / charRef s.link.divisor < 6 :=
      not_lt.mpr ((Nat.le_div_iff_mul_le hpos).mpr hend)
    simp [ctlLow, hpast]
  · simp [ctlLow, hcut, hle]

/-- While a request is sent CTL is low for the 0 bits of the character the time falls in. -/
theorem ctlLow_transmitting {s : State} (h : Transmitting s) {n : Nat} (hn : n < 6)
    (hchar : s.refSince s.link.txStart / charRef s.link.divisor = n) :
    ctlLow s = !charBit (n == 0) (s.link.request.getD n 0)
      (s.refSince s.link.txStart % charRef s.link.divisor / bitRef s.link.divisor) := by
  obtain ⟨hreset, hline, hcut⟩ := h
  cases he : s.link.cutAt with
  | none => simp [ctlLow, hreset, hline, he, hchar, hn]
  | some e => simp [ctlLow, hreset, hline, he, hchar, hn, hcut e he]

/-- Bit time `j` of character `n`, of 11 bit times to a character. -/
theorem char_and_bit_of_time {bit n j t : Nat} (hj : j < 11) (hlo : 11 * bit * n + j * bit ≤ t)
    (hhi : t < 11 * bit * n + (j + 1) * bit) : t / (11 * bit) = n ∧ t % (11 * bit) / bit = j := by
  have hfit : (j + 1) * bit ≤ 11 * bit := Nat.mul_le_mul_right bit hj
  obtain ⟨r, rfl⟩ := Nat.exists_eq_add_of_le hlo
  have hr : j * bit + r < (j + 1) * bit := by omega
  have hin : j * bit + r < 11 * bit := by omega
  rw [Nat.add_assoc]
  constructor
  · rw [Nat.mul_add_div (by omega), Nat.div_eq_of_lt hin, Nat.add_zero]
  · rw [Nat.mul_add_mod, Nat.mod_eq_of_lt hin]
    exact Nat.div_eq_of_lt_le (Nat.le_add_right _ _) hr

/-- CTL in bit time `j` of character `n` of a request. -/
theorem ctlLow_in_bit {s : State} (h : Transmitting s) {n j : Nat} (hn : n < 6) (hj : j < 11)
    (hlo : 11 * bitRef s.link.divisor * n + j * bitRef s.link.divisor ≤ s.refSince s.link.txStart)
    (hhi : s.refSince s.link.txStart < 11 * bitRef s.link.divisor * n + (j + 1) * bitRef s.link.divisor) :
    ctlLow s = !charBit (n == 0) (s.link.request.getD n 0) j := by
  obtain ⟨hchar, hbit⟩ : s.refSince s.link.txStart / charRef s.link.divisor = n ∧
      s.refSince s.link.txStart % charRef s.link.divisor / bitRef s.link.divisor = j :=
    char_and_bit_of_time hj hlo hhi
  rw [ctlLow_transmitting h hn hchar, hbit]

/-- Settles O16, pin by pin; CTL by the bit time of the character being sent. -/
theorem outputPins : Obligations.OutputPins := by
  unfold Obligations.OutputPins
  refine ⟨fun s => ?fault, fun s d k _ => ?enable, fun s => ?ctl⟩
  case fault =>
    simpa only [IsCondition, kindLevel, and_assoc] using faultAsserted_iff s
  case enable => exact ⟨pinLevel_in_reset d k, pinLevel_bypassed, pinLevel_sequenced⟩
  case ctl =>
    intro link bit t
    refine ⟨fun h => ctlLow_released ?released, fun n hn h => ?sent⟩
    case released =>
      have hend : 66 * bit = 6 * charRef s.link.divisor := by
        change 66 * bit = 6 * (11 * bit)
        omega
      rwa [hend] at h
    case sent =>
      intro began
      refine ⟨fun hlo hhi => ?start, fun i hi hlo hhi => ?data, fun hlo hhi => ?mark, fun hlo hhi => ?stop⟩
      case start =>
        rw [ctlLow_in_bit h hn (j := 0) (by decide) (by rwa [Nat.zero_mul]) (by rwa [Nat.zero_add, Nat.one_mul]),
          charBit_start, Bool.not_false]
      case data =>
        rw [ctlLow_in_bit h hn (j := 1 + i) (by omega) hlo (by rwa [Nat.add_right_comm 1 i 1]), charBit_data _ _ hi]
      case mark =>
        rw [ctlLow_in_bit h hn (j := 9) (by decide) hlo hhi, charBit_mark]
        cases n <;> rfl
      case stop =>
        rw [ctlLow_in_bit h hn (j := 10) (by decide) hlo hhi, charBit_stop, Bool.not_true]

end Sys2Proof.Proofs.OutputPins

/-! ## PROOFS: what every step keeps -/

namespace Sys2Proof.Proofs.Kept

open Sys2Proof Sys2Proof.Machine Sys2Proof.Safety Sys2Proof.Laws

/-! ### The laws by name, and what holds of them amid a command -/

/-- What is owed amid a command: the sides whose table is still to be torn down, the sides known to be configured, the
sides whose link entries are still to be cancelled, the entry whose outcome is being handed on, and the room kept for an
address that is being taken. -/
structure Ghost where
  exempt : List SideId
  sure : List SideId
  cancelling : List SideId
  handing : Option LinkEntry
  writeRoom : Nat
  readRoom : Nat

/-- Between commands nothing is owed. -/
def Ghost.none : Ghost := ⟨[], [], [], Option.none, 0, 0⟩

/-- Kind and side of a link entry. -/
abbrev Brief := EntryKind × SideId

def brief (e : LinkEntry) : Brief := (e.kind, e.side)

def ofSlotB (n : Fin 6) (p : Brief) : Bool :=
  match p.1 with
  | .probe => false
  | .exposure => false
  | .mailbox k _ => k == n

def probeOf (d : SideId) (p : Brief) : Bool := p.2 == d && p.1.code == 1

def expoOf (d : SideId) (p : Brief) : Bool := p.2 == d && p.1.code == 2

/-- The entries of the queue, and the one whose outcome is being handed on. -/
def entriesOf (h : Option LinkEntry) (k : Link) : List Brief := (linkEntries k ++ h.toList).map brief

/-- What the link's laws read of a side. -/
structure Owner where
  health : Health
  request : Bool
  configured : Bool

def ownerOf (x : Side) : Owner := ⟨x.head.health, x.expo.request, x.configured⟩

def ownersOf (s : State) (d : SideId) : Owner := ownerOf (s.side d)

/-- The link queue's laws with what is owed amid a command: sides that are being cancelled may be in any state. -/
structure LinkOk (m : Ghost) (es : List Brief) (o : SideId → Owner) : Prop where
  slots : ∀ n, es.countP (ofSlotB n) ≤ 1
  probes : ∀ d, es.countP (probeOf d) ≤ 1
  exposures : ∀ d, es.countP (expoOf d) = if (o d).request then 1 else 0
  off : ∀ d, (o d).configured = false → (o d).health = .off
  sure : ∀ d ∈ m.sure, (o d).configured = true
  served : ∀ d ∉ m.cancelling, ∀ p ∈ es, p.2 = d → (o d).health.linkServed = true
  probing : ∀ d ∉ m.cancelling, 0 < es.countP (probeOf d) → (o d).health = .probing
  exposing : ∀ d ∉ m.cancelling, (o d).health = .probing → es.countP (expoOf d) = 0

/-- The laws that every step keeps. -/
inductive LawId where
  | faults
  | image
  | ring
  | path
  | display (d : SideId)
  | picture (d : SideId)
  | buffers (d : SideId)
  | link

/-- The buffer table's laws without the one that ties it to the side's health. -/
def tableShape (x : Side) : Prop :=
  x.cap.bufs.list.countP isReady ≤ 1 ∧ x.cap.bufs.list.countP isShown ≤ 1 ∧
    match x.cap.fip with
    | none => x.cap.bufs.list.countP isFilling = 0
    | some f => x.cap.bufs.list.countP isFilling = 1 ∧ x.cap.bufs.get f.buf .free = .filling

/-- The buffer table's laws of a side: outside RUNNING and DEGRADED every buffer is FREE, but where teardown is owed. -/
structure BuffersOk (m : Ghost) (d : SideId) (x : Side) : Prop where
  shape : tableShape x
  lines : lineLaws x = true
  free : d ∈ m.exempt ∨ x.inService = true ∨ x.cap.bufs = freeBufs ∧ x.cap.fip = none

/-- The room that a held address keeps (R171). -/
def held {α : Type} (o : Option α) : Nat := if o.isSome then 1 else 0

@[simp] theorem held_none {α : Type} : held (none : Option α) = 0 := rfl

@[simp] theorem held_some {α : Type} (a : α) : held (some a) = 1 := rfl

theorem held_le {α : Type} (o : Option α) : held o ≤ 1 := by cases o <;> simp

/-- What each law says amid a command. -/
def law : LawId → Ghost → State → Prop
  | .faults, _, s => queueLaws s.faults = true ∧ tableLaws s.faults = true
  | .image, _, s => Image.wf s.snoop.image = true
  | .ring, _, s => ringLaws s = true
  | .path, m, s =>
      s.path.writes.length + held s.path.heldWrite + m.writeRoom ≤ 32 ∧
        s.path.reads.length + held s.path.heldRead + m.readRoom ≤ 32 ∧ s.path.waitCount ≤ 4
  | .display d, _, s => (s.side d).disp.outstanding = s.path.reads.countP (countsFor d)
  | .picture d, _, s => toneLaws (s.side d) = true ∧ tileLaws (s.side d) = true
  | .buffers d, m, s => BuffersOk m d (s.side d)
  | .link, m, s => LinkOk m (entriesOf m.handing s.link) (ownersOf s)

/-- Every law that holds of `s` with `m` owed holds of `t` with `m'` owed. -/
def Keeps (m : Ghost) (s : State) (m' : Ghost) (t : State) : Prop := ∀ L, law L m s → law L m' t

theorem Keeps.refl (m : Ghost) (s : State) : Keeps m s m s := fun _ h => h

theorem Keeps.trans {m m' m'' : Ghost} {s t u : State} (h : Keeps m s m' t) (h' : Keeps m' t m'' u) : Keeps m s m'' u :=
  fun L hL => h' L (h L hL)

/-- The last change of a command first. -/
theorem Keeps.after {m m' m'' : Ghost} {s t u : State} (h' : Keeps m' t m'' u) (h : Keeps m s m' t) :
    Keeps m s m'' u := h.trans h'

theorem keeps_ite {m m' : Ghost} {s t u : State} {c : Prop} [Decidable c] (ht : c → Keeps m s m' t)
    (hu : ¬c → Keeps m s m' u) : Keeps m s m' (if c then t else u) := by
  split
  next h => exact ht h
  next h => exact hu h

/-! ### What each law reads -/

def ringView (s : State) : Half × Half × Bool × Nat :=
  (s.inj.w, s.inj.r, currentRecord s.inj, s.snoop.cfg.ringSize)

def pathView (p : Path) : Nat × Nat × Bool × Bool × Nat :=
  (p.writes.length, p.reads.length, p.heldWrite.isSome, p.heldRead.isSome, p.waitCount)

def faultView (f : FaultUnit) : Table FaultRec 40 × List Report × Nat := (f.table, f.queue, f.lost)

/-- What the picture laws read of a side. -/
def pictureView (x : Side) : Table Nat 21 × Snapshot × ToneCfg × Table Tile 128 × Nat :=
  (x.tone, x.coll.snap, x.cfg.tone, x.tiles, x.cfg.glare.aMin)

/-- What the buffer laws read of a side. -/
def bufferView (x : Side) : Table Buf 3 × Option (Nat × Nat × Nat) × Nat × Bool :=
  (x.cap.bufs, x.cap.fip.map (fun f => (f.buf, f.lines, f.highest)), x.cfg.cap.height, x.inService)

/-- The two states read alike to a law. -/
def sameTo (s t : State) : LawId → Prop
  | .faults => faultView t.faults = faultView s.faults
  | .image => t.snoop.image = s.snoop.image
  | .ring => ringView t = ringView s
  | .path => pathView t.path = pathView s.path
  | .display d => (t.side d).disp.outstanding = (s.side d).disp.outstanding ∧ t.path.reads = s.path.reads
  | .picture d => pictureView (t.side d) = pictureView (s.side d)
  | .buffers d => bufferView (t.side d) = bufferView (s.side d)
  | .link =>
      (linkEntries t.link).map brief = (linkEntries s.link).map brief ∧ ∀ d, ownersOf t d = ownersOf s d

theorem tableShape_congr {x y : Side} (h : bufferView y = bufferView x) : tableShape y ↔ tableShape x := by
  simp only [bufferView, Prod.mk.injEq] at h
  obtain ⟨hb, hf, -, -⟩ := h
  rw [tableShape, tableShape, hb]
  rcases hx : x.cap.fip with _ | f <;> rcases hy : y.cap.fip with _ | g <;> simp_all

theorem lineLaws_congr {x y : Side} (h : bufferView y = bufferView x) : lineLaws y = lineLaws x := by
  simp only [bufferView, Prod.mk.injEq] at h
  obtain ⟨-, hf, hh, -⟩ := h
  rw [lineLaws, lineLaws, hh]
  rcases hx : x.cap.fip with _ | f <;> rcases hy : y.cap.fip with _ | g <;> simp_all

theorem toneLaws_congr {x y : Side} (h : pictureView y = pictureView x) : toneLaws y = toneLaws x := by
  simp only [pictureView, Prod.mk.injEq] at h
  simp [toneLaws, h]

theorem tileLaws_congr {x y : Side} (h : pictureView y = pictureView x) : tileLaws y = tileLaws x := by
  simp only [pictureView, Prod.mk.injEq] at h
  simp [tileLaws, h]

/-- A law that reads two states alike holds of both or of neither. -/
theorem law_of_same {L : LawId} {m : Ghost} {s t : State} (h : sameTo s t L) : law L m s → law L m t := by
  cases L with
  | faults =>
    simp only [sameTo, faultView, Prod.mk.injEq] at h
    simp [law, queueLaws, tableLaws, h]
  | image => simp only [law, show t.snoop.image = s.snoop.image from h, imp_self]
  | ring =>
    simp only [sameTo, ringView, Prod.mk.injEq] at h
    simp [law, ringLaws, h]
  | path =>
    simp only [sameTo, pathView, Prod.mk.injEq] at h
    simp [law, held, h]
  | display d => simp only [law, h.1, h.2, imp_self]
  | picture d => simp only [law, toneLaws_congr h, tileLaws_congr h, imp_self]
  | buffers d =>
    have hv := h
    simp only [sameTo, bufferView, Prod.mk.injEq] at hv
    obtain ⟨hb, hf, -, hs⟩ := hv
    have hn : (t.side d).cap.fip = none ↔ (s.side d).cap.fip = none := by
      rw [← Option.map_eq_none_iff (f := fun f : Fip => (f.buf, f.lines, f.highest)), hf, Option.map_eq_none_iff]
    rintro ⟨hshape, hlines, hfree⟩
    exact ⟨(tableShape_congr h).mpr hshape, (lineLaws_congr h).trans hlines, by rwa [hb, hs, hn]⟩
  | link =>
    have he : entriesOf m.handing t.link = entriesOf m.handing s.link := by simp [entriesOf, h.1]
    have ho : ownersOf t = ownersOf s := funext h.2
    simp only [law, he, ho, imp_self]

/-- A change that no law sees. -/
theorem keeps_same (m : Ghost) {s t : State} (h : ∀ L, sameTo s t L) : Keeps m s m t := fun L => law_of_same (h L)

/-- A change that one law alone sees. -/
theorem keeps_but {m m' : Ghost} {s t : State} (L₀ : LawId) (h : ∀ L, L ≠ L₀ → sameTo s t L)
    (hm : ∀ L, L ≠ L₀ → law L m t → law L m' t) (h₀ : law L₀ m s → law L₀ m' t) : Keeps m s m' t := by
  intro L hL
  by_cases e : L = L₀
  · subst e; exact h₀ hL
  · exact hm L e (law_of_same (h L e) hL)

/-- A change that one law alone sees, with the same owed after it. -/
theorem keeps_but' {m : Ghost} {s t : State} (L₀ : LawId) (h : ∀ L, L ≠ L₀ → sameTo s t L)
    (h₀ : law L₀ m s → law L₀ m t) : Keeps m s m t :=
  keeps_but L₀ h (fun _ _ h => h) h₀

/-! ### Changes of a side -/

theorem side_updSide_eq (d e : SideId) (f : Side → Side) (s : State) :
    (updSide d f s).side e = if e = d then f (s.side d) else s.side e := by
  rcases eq_or_other d e with rfl | rfl <;> simp

/-- A change of a side that no law sees. -/
structure QuietSide (x y : Side) : Prop where
  picture : pictureView y = pictureView x
  buffers : bufferView y = bufferView x
  owner : ownerOf y = ownerOf x
  outstanding : y.disp.outstanding = x.disp.outstanding

theorem keeps_updSide {m : Ghost} {d : SideId} {f : Side → Side} {s : State} (h : QuietSide (s.side d) (f (s.side d))) :
    Keeps m s m (updSide d f s) := by
  refine keeps_same m fun L => ?_
  cases L with
  | display e =>
    simp only [sameTo, side_updSide_eq, updSide_frame, and_true]
    split
    next he => rw [he]; exact h.outstanding
    · rfl
  | picture e =>
    simp only [sameTo, side_updSide_eq]
    split
    next he => rw [he]; exact h.picture
    · rfl
  | buffers e =>
    simp only [sameTo, side_updSide_eq]
    split
    next he => rw [he]; exact h.buffers
    · rfl
  | link =>
    refine ⟨by simp, fun e => ?_⟩
    simp only [ownersOf, side_updSide_eq]
    split
    next he => rw [he]; exact h.owner
    · rfl
  | _ => simp [sameTo, ringView]

end Sys2Proof.Proofs.Kept

namespace Sys2Proof.Proofs.Kept

open Sys2Proof Sys2Proof.Machine Sys2Proof.Safety Sys2Proof.Laws

/-! ### Changes that no law sees -/

/-- The two states read alike to every law but the memory path's. -/
def SameBesides (s t : State) : Prop :=
  t.left = s.left ∧ t.right = s.right ∧ (linkEntries t.link).map brief = (linkEntries s.link).map brief ∧
    faultView t.faults = faultView s.faults ∧ t.snoop.image = s.snoop.image ∧ ringView t = ringView s ∧
    t.path.reads = s.path.reads

theorem SameBesides.side {s t : State} (h : SameBesides s t) (d : SideId) : t.side d = s.side d := by
  obtain ⟨hl, hr, -⟩ := h
  cases d with
  | left => exact hl
  | right => exact hr

/-- A change that the memory path's law alone sees. -/
theorem keeps_path {m : Ghost} {s t : State} (h : SameBesides s t) (hp : law .path m s → law .path m t) :
    Keeps m s m t := by
  have hs := h.side
  obtain ⟨-, -, hl, hf, hi, hr, hrd⟩ := h
  refine keeps_but' .path (fun L hL => ?_) hp
  cases L with
  | faults => exact hf
  | image => exact hi
  | ring => exact hr
  | path => exact absurd rfl hL
  | display d => exact ⟨by rw [hs], hrd⟩
  | picture d => simp only [sameTo, hs]
  | buffers d => simp only [sameTo, hs]
  | link => exact ⟨hl, fun d => by rw [ownersOf, hs, ownersOf]⟩

/-- A change of the shared state that no law sees. -/
theorem keeps_quiet {m : Ghost} {s t : State} (h : SameBesides s t) (hp : pathView t.path = pathView s.path) :
    Keeps m s m t :=
  keeps_path h (law_of_same (L := .path) hp)

section
variable {m : Ghost} {s : State}

theorem keeps_followPin (pre : State) : Keeps m s m (followPin pre s) :=
  keeps_quiet (by simp [SameBesides, faultView, ringView, currentRecord]) (by simp)

theorem keeps_flagPage (p : PageId) : Keeps m s m (flagPage p s) :=
  keeps_quiet (by simp [SameBesides, faultView, ringView, currentRecord]) (by simp)

theorem keeps_unflagPage (p : PageId) : Keeps m s m (unflagPage p s) :=
  keeps_quiet (by simp [SameBesides, faultView, ringView, currentRecord]) (by simp)

theorem keeps_publish (pre : State) : Keeps m s m (publish pre s) :=
  keeps_quiet (by simp [SameBesides, faultView, ringView, currentRecord]) (by simp)

theorem keeps_sendDown (ms : List DownMsg) : Keeps m s m (sendDown ms s) :=
  keeps_quiet (by simp [SameBesides, faultView, ringView, currentRecord]) (by simp)

theorem keeps_sendUp (ms : List UpMsg) : Keeps m s m (sendUp ms s) :=
  keeps_quiet (by simp [SameBesides, faultView, ringView, currentRecord]) (by simp)

theorem keeps_endTail : Keeps m s m (endTail s) := keeps_quiet ⟨rfl, rfl, rfl, rfl, rfl, rfl, rfl⟩ rfl

theorem keeps_updMonitor (d : SideId) (f : Monitor → Monitor) : Keeps m s m (updMonitor d f s) :=
  keeps_quiet (by simp [SameBesides, faultView, ringView, currentRecord]) (by simp)

theorem keeps_reformTarget (d : SideId) : Keeps m s m (reformTarget d s) := by
  rw [reformTarget]
  split
  · exact Keeps.refl m s
  · exact (keeps_updMonitor d _).trans (keeps_flagPage _)

theorem keeps_reformCab : Keeps m s m (reformCab s) := by
  rw [reformCab]
  split
  · exact Keeps.refl m s
  · have hcab : Keeps m s m { s with cab := cabOf s } := keeps_quiet ⟨rfl, rfl, rfl, rfl, rfl, rfl, rfl⟩ rfl
    exact ((hcab.trans (keeps_flagPage _)).trans (keeps_reformTarget _)).trans (keeps_reformTarget _)

theorem keeps_takeBypass (d : SideId) : Keeps m s m (takeBypass d s) :=
  keeps_quiet (by simp [SameBesides, faultView, ringView, currentRecord]) (by simp)

theorem keeps_startBacklight : Keeps m s m (startBacklight s) :=
  keeps_quiet (by simp [SameBesides, faultView, ringView, currentRecord]) (by simp)

theorem keeps_backlight (b : Backlight) : Keeps m s m { s with backlight := b } := keeps_quiet ⟨rfl, rfl, rfl, rfl, rfl, rfl, rfl⟩ rfl

theorem keeps_rampTickOp : Keeps m s m (rampTickOp s) := by
  simp only [rampTickOp]
  split
  · exact (keeps_backlight _).trans (keeps_flagPage _)
  · exact keeps_backlight _

theorem keeps_backlightApply : Keeps m s m (backlightApply s) := by
  have hall : Keeps m s m (takeBypass .right (takeBypass .left (reformTarget .right (reformTarget .left s)))) :=
    (((keeps_reformTarget _).trans (keeps_reformTarget _)).trans (keeps_takeBypass _)).trans (keeps_takeBypass _)
  simp only [backlightApply]
  split
  · exact hall.trans keeps_rampTickOp
  · exact hall

theorem keeps_lamp (l : Lamp) : Keeps m s m { s with lamp := l } := keeps_quiet ⟨rfl, rfl, rfl, rfl, rfl, rfl, rfl⟩ rfl

theorem keeps_lampCompare : Keeps m s m (lampCompare s) :=
  keeps_quiet (by simp [SameBesides, faultView, ringView, currentRecord]) (by simp)

theorem keeps_lampRestart : Keeps m s m (lampRestart s) :=
  keeps_quiet (by simp [SameBesides, faultView, ringView, currentRecord]) (by simp)

/-! ### The fault unit -/

/-- A change of the fault unit that keeps its laws. -/
theorem keeps_faults {t : State} (hs : ∀ d, t.side d = s.side d) (hl : t.link = s.link) (hi : t.inj = s.inj)
    (hp : t.path = s.path) (hn : t.snoop = s.snoop)
    (hq : queueLaws s.faults = true → queueLaws t.faults = true)
    (ht : tableLaws s.faults = true → tableLaws t.faults = true) : Keeps m s m t := by
  refine keeps_but' .faults (fun L hL => ?_) (fun h => ⟨hq h.1, ht h.2⟩)
  cases L with
  | faults => exact absurd rfl hL
  | _ => simp [sameTo, ringView, ownersOf, hs, hl, hi, hp, hn]

theorem keeps_raiseEvent (k : FaultKind) (sc : Scope) (det : BitVec 32) : Keeps m s m (raiseEvent k sc det s) :=
  keeps_faults (by simp) (by simp) (by simp) (by simp) (by simp) (queueLaws_raiseEvent k sc det)
    (tableLaws_raiseEvent k sc det)

theorem keeps_raiseCond (k : FaultKind) (sc : Scope) (det : BitVec 32) : Keeps m s m (raiseCond k sc det s) :=
  keeps_faults (by simp) (by simp) (by simp) (by simp) (by simp) (queueLaws_raiseCond k sc det)
    (tableLaws_raiseCond k sc det)

theorem keeps_clearCond (k : FaultKind) (sc : Scope) : Keeps m s m (clearCond k sc s) :=
  keeps_faults (by simp) (by simp) (by simp) (by simp) (by simp) (queueLaws_clearCond k sc) (tableLaws_clearCond k sc)

theorem keeps_clearHealth (d : SideId) : Keeps m s m (clearHealth d s) :=
  ((keeps_clearCond _ _).trans (keeps_clearCond _ _)).trans (keeps_clearCond _ _)

theorem keeps_addLost (n : Nat) : Keeps m s m (addLost n s) := by
  refine keeps_faults (by simp) (by simp) (by simp) (by simp) (by simp) id fun h => ?_
  rw [tableLaws_iff] at h ⊢
  exact ⟨h.1, Nat.min_le_left _ _⟩

theorem recordOk_ackRec (arg : BitVec 16) (i : Nat) {r : FaultRec} (h : recordOk r = true) :
    recordOk (ackRec arg i r) = true := by
  simp only [recordOk, Bool.and_eq_true, decide_eq_true_eq] at h
  rw [ackRec]
  generalize arg.getLsbD 8 = cleared
  split
  · cases cleared <;> simp [recordOk, h]
  · simp [recordOk, h]

theorem keeps_ackTable (arg : BitVec 16) :
    Keeps m s m { s with faults := { s.faults with table := ackTable arg s.faults.table } } := by
  refine keeps_faults (fun d => by cases d <;> rfl) rfl rfl rfl rfl id fun h => ?_
  rw [tableLaws_iff] at h ⊢
  exact ⟨ofFn_all _ _ fun i _ => recordOk_ackRec arg i (get_all _ _ _ _ h.1 recordOk_empty), h.2⟩

/-! ### Write bursts -/

theorem length_drainWrites (ws : List WEntry) (blocked : List (BitVec 8)) :
    (drainWrites ws blocked).2.length ≤ ws.length := by
  induction ws generalizing blocked with
  | nil => simp [drainWrites]
  | cons e rest ih =>
    have h1 := ih blocked
    have h2 := ih (e.id :: blocked)
    rw [drainWrites]
    split
    · split <;> simp <;> omega
    · simpa using h2

@[simp] theorem length_modifyLast {α : Type} (f : α → α) (l : List α) : (modifyLast f l).length = l.length := by
  induction l with
  | nil => rfl
  | cons x rest ih =>
    cases rest with
    | nil => rfl
    | cons y rest => simpa [modifyLast] using ih

theorem keeps_releaseWrites : Keeps m s m (releaseWrites s) := by
  refine keeps_path ⟨rfl, rfl, rfl, rfl, rfl, rfl, rfl⟩ fun h => ?_
  have hlen := length_drainWrites s.path.writes []
  simp only [law, releaseWrites, sendUp_frame, updPath_path] at h ⊢
  omega

/-- A change of the memory path that leaves the number of write bursts, the read bursts, the held addresses and the wait
count. -/
theorem keeps_updPath {f : Path → Path} (hp : pathView (f s.path) = pathView s.path)
    (hr : (f s.path).reads = s.path.reads) : Keeps m s m (updPath f s) :=
  keeps_quiet ⟨rfl, rfl, rfl, rfl, rfl, rfl, hr⟩ hp

theorem keeps_updCurEntry (f : WEntry → WEntry) : Keeps m s m (updCurEntry f s) :=
  keeps_updPath (by simp [pathView]) rfl

theorem keeps_answerCur : Keeps m s m (answerCur s) :=
  ((keeps_updCurEntry _).trans (keeps_updPath rfl rfl)).trans keeps_releaseWrites

theorem keeps_orphanWrites (d : SideId) : Keeps m s m (orphanWrites d s) := keeps_updPath (by simp [pathView]) rfl

theorem keeps_discardCur (d : SideId) : Keeps m s m (discardCur d s) := by
  rw [discardCur]
  split
  · split
    · split
      · split
        · exact keeps_updPath rfl rfl
        · exact keeps_answerCur
      · exact Keeps.refl m s
    · exact Keeps.refl m s
    · exact Keeps.refl m s
  · exact Keeps.refl m s

/-! ### The write arbiter -/

theorem keeps_updInj {f : Injector → Injector} (h : ringView (updInj f s) = ringView s) : Keeps m s m (updInj f s) :=
  keeps_quiet ⟨rfl, rfl, rfl, rfl, rfl, h, rfl⟩ rfl

theorem keeps_grantPass : Keeps m s m (grantPass s) := by
  rw [grantPass]
  split
  · split
    · exact Keeps.trans (keeps_updPath rfl rfl) (keeps_sendDown _)
    · exact Keeps.refl m s
    · exact ((keeps_updCurEntry _).trans (keeps_updPath rfl rfl)).trans (keeps_sendDown _)
  · exact Keeps.refl m s

theorem keeps_grantInjected : Keeps m s m (grantInjected s) := by
  rw [grantInjected]
  split
  next b hb =>
    have hinj : Keeps m s m (updInj (fun i => { i with inflight := some { b with granted := true } }) s) :=
      keeps_updInj (by simp [ringView, currentRecord, hb])
    refine .after (keeps_sendDown _) (hinj.trans (keeps_path ⟨rfl, rfl, rfl, rfl, rfl, rfl, rfl⟩ ?_))
    rintro ⟨hwrites, hreads, -⟩
    exact ⟨hwrites, hreads, Nat.zero_le _⟩
  · exact Keeps.refl m s

theorem keeps_grantOp : Keeps m s m (grantOp s) := by
  rw [grantOp]
  split
  · split
    · split
      next hwait =>
        have hcount : Keeps m s m (updPath (fun p => { p with waitCount := p.waitCount + 1 }) s) :=
          keeps_path ⟨rfl, rfl, rfl, rfl, rfl, rfl, rfl⟩ fun ⟨hwrites, hreads, _⟩ => ⟨hwrites, hreads, hwait⟩
        exact hcount.trans keeps_grantPass
      · exact keeps_grantInjected
    · exact keeps_grantPass
  · exact keeps_grantInjected

theorem keeps_grantNow : Keeps m s m (grantNow s) := by
  rw [grantNow]
  split
  · exact keeps_grantOp
  · exact Keeps.refl m s

theorem keeps_passGranted : Keeps m s m (passGranted s) := by
  simp only [passGranted]
  split
  · split
    · exact keeps_grantOp.trans keeps_grantOp
    · exact keeps_grantOp
  · exact Keeps.refl m s

theorem keeps_settleGrants (ready : Path → Bool) : Keeps m s m (settleGrants ready s) := by
  simp only [settleGrants]
  split
  · exact keeps_grantNow.trans keeps_passGranted
  · exact keeps_grantNow

theorem keeps_grantWaiting : Keeps m s m (grantWaiting s) := by
  rw [grantWaiting]
  split
  · exact keeps_grantOp
  · exact Keeps.refl m s

end

end Sys2Proof.Proofs.Kept

namespace Sys2Proof.Proofs.Kept

open Sys2Proof Sys2Proof.Machine Sys2Proof.Safety Sys2Proof.Laws

/-! ### What is owed -/

section
variable {m : Ghost} {s : State} {d : SideId}

/-- Teardown is paid. -/
theorem keeps_torn (hb : (s.side d).cap.bufs = freeBufs) (hf : (s.side d).cap.fip = none) :
    Keeps { m with exempt := d :: m.exempt } s m s := by
  intro L hL
  cases L with
  | buffers e =>
    refine ⟨hL.shape, hL.lines, ?_⟩
    rcases hL.free with h | h
    · rcases List.mem_cons.mp h with rfl | h
      · exact .inr (.inr ⟨hb, hf⟩)
      · exact .inl h
    · exact .inr h
  | link => exact ⟨hL.slots, hL.probes, hL.exposures, hL.off, hL.sure, hL.served, hL.probing, hL.exposing⟩
  | _ => exact hL

theorem keeps_exempt : Keeps m s { m with exempt := d :: m.exempt } s := by
  intro L hL
  cases L with
  | buffers e => exact ⟨hL.shape, hL.lines, hL.free.imp_left (List.mem_cons_of_mem d)⟩
  | link => exact ⟨hL.slots, hL.probes, hL.exposures, hL.off, hL.sure, hL.served, hL.probing, hL.exposing⟩
  | _ => exact hL

theorem keeps_cancelling : Keeps m s { m with cancelling := d :: m.cancelling } s := by
  intro L hL
  cases L with
  | buffers e => exact ⟨hL.shape, hL.lines, hL.free⟩
  | link =>
    have hnot : ∀ {e}, e ∉ d :: m.cancelling → e ∉ m.cancelling := fun h h' => h (List.mem_cons_of_mem d h')
    exact ⟨hL.slots, hL.probes, hL.exposures, hL.off, hL.sure, fun e he => hL.served e (hnot he),
      fun e he => hL.probing e (hnot he), fun e he => hL.exposing e (hnot he)⟩
  | _ => exact hL

/-- A side that is not OFF is configured. -/
theorem keeps_sure (h : (s.side d).head.health ≠ .off) : Keeps m s { m with sure := d :: m.sure } s := by
  intro L hL
  cases L with
  | buffers e => exact ⟨hL.shape, hL.lines, hL.free⟩
  | link =>
    refine ⟨hL.slots, hL.probes, hL.exposures, hL.off, fun e he => ?_, hL.served, hL.probing, hL.exposing⟩
    rcases List.mem_cons.mp he with rfl | he
    · exact Bool.not_eq_false _ ▸ fun hc => h (hL.off e hc)
    · exact hL.sure e he
  | _ => exact hL

theorem keeps_forget : Keeps { m with sure := d :: m.sure } s m s := by
  intro L hL
  cases L with
  | buffers e => exact ⟨hL.shape, hL.lines, hL.free⟩
  | link =>
    exact ⟨hL.slots, hL.probes, hL.exposures, hL.off, fun e he => hL.sure e (List.mem_cons_of_mem d he), hL.served,
      hL.probing, hL.exposing⟩
  | _ => exact hL

/-! ### Changes of a side -/

theorem ownersOf_updSide (f : Side → Side) :
    ownersOf (updSide d f s) = Function.update (ownersOf s) d (ownerOf (f (s.side d))) := by
  funext e
  by_cases he : e = d
  · subst he; simp [ownersOf]
  · simp [ownersOf, side_updSide_eq, he]

/-- A change of one side, law by law. -/
theorem keeps_side {f : Side → Side} (ho : (f (s.side d)).disp.outstanding = (s.side d).disp.outstanding)
    (hp : toneLaws (s.side d) = true → tileLaws (s.side d) = true →
      toneLaws (f (s.side d)) = true ∧ tileLaws (f (s.side d)) = true)
    (hb : BuffersOk m d (s.side d) → BuffersOk m d (f (s.side d)))
    (hl : ∀ es o, o d = ownerOf (s.side d) → LinkOk m es o → LinkOk m es (Function.update o d (ownerOf (f (s.side d))))) :
    Keeps m s m (updSide d f s) := by
  intro L hL
  cases L with
  | display e =>
    refine law_of_same ?_ hL
    simp only [sameTo, side_updSide_eq, updSide_frame, and_true]
    split
    next he => rw [he]; exact ho
    · rfl
  | picture e =>
    simp only [law, side_updSide_eq]
    split
    next he => subst he; exact hp hL.1 hL.2
    · exact hL
  | buffers e =>
    simp only [law, side_updSide_eq]
    split
    next he => subst he; exact hb hL
    · exact hL
  | link =>
    simp only [law, ownersOf_updSide, updSide_frame]
    exact hl _ _ rfl hL
  | _ => exact law_of_same (by simp [sameTo, ringView]) hL

theorem LinkOk.same_owner {es : List Brief} {o : SideId → Owner} {a : Owner} (h : LinkOk m es o) (ha : a = o d) :
    LinkOk m es (Function.update o d a) := by
  rwa [ha, Function.update_eq_self]

/-- A side's state changes without losing the link or entering or leaving PROBING. -/
theorem LinkOk.update {es : List Brief} {o : SideId → Owner} {a b : Owner} (h : LinkOk m es o) (ha : o d = a)
    (hreq : b.request = a.request) (hconf : a.configured = true → b.configured = true)
    (hoff : b.configured = false → a.health = .off → b.health = .off)
    (hsrv : d ∈ m.cancelling ∨ (a.health.linkServed = true → b.health.linkServed = true) ∧
      (b.health = .probing ↔ a.health = .probing)) : LinkOk m es (Function.update o d b) := by
  subst ha
  have hserved : d ∉ m.cancelling → _ := fun hd => hsrv.resolve_left hd
  refine ⟨h.slots, h.probes, fun e => ?_, fun e => ?_, fun e he => ?_, fun e he p hp hpe => ?_, fun e he => ?_,
    fun e he => ?_⟩ <;> by_cases hed : e = d
  case pos => subst hed; simpa [hreq] using h.exposures e
  case neg => simpa [hed] using h.exposures e
  case pos =>
    subst hed
    simp only [Function.update_self]
    exact fun hc => hoff hc (h.off e (Bool.eq_false_iff.mpr fun ht => by simp [hconf ht] at hc))
  case neg => simpa [hed] using h.off e
  case pos => subst hed; simpa using hconf (h.sure e he)
  case neg => simpa [hed] using h.sure e he
  case pos => subst hed; simpa using (hserved he).1 (h.served e he p hp hpe)
  case neg => simpa [hed] using h.served e he p hp hpe
  case pos => subst hed; simpa [(hserved he).2] using h.probing e he
  case neg => simpa [hed] using h.probing e he
  case pos => subst hed; simpa [(hserved he).2] using h.exposing e he
  case neg => simpa [hed] using h.exposing e he

theorem toneTile_same {x y : Side} (h : pictureView y = pictureView x) :
    toneLaws x = true → tileLaws x = true → toneLaws y = true ∧ tileLaws y = true := by
  rw [toneLaws_congr h, tileLaws_congr h]
  exact And.intro

/-- A side changes its health state, with all its counts. -/
theorem keeps_health {f : Head → Head}
    (hin : d ∈ m.exempt ∨
      ((s.side d).head.health.inService = true → (f (s.side d).head).health.inService = true) ∨
      (s.side d).cap.bufs = freeBufs ∧ (s.side d).cap.fip = none)
    (hoff : (s.side d).configured = false → (s.side d).head.health = .off → (f (s.side d).head).health = .off)
    (hsrv : d ∈ m.cancelling ∨
      ((s.side d).head.health.linkServed = true → (f (s.side d).head).health.linkServed = true) ∧
      ((f (s.side d).head).health = .probing ↔ (s.side d).head.health = .probing)) :
    Keeps m s m (updHead d f s) := by
  refine keeps_side rfl (toneTile_same rfl) (fun h => ⟨h.shape, h.lines, ?_⟩) fun es o ho h =>
    h.update ho rfl id hoff hsrv
  rcases hin with hx | hx | hx
  · exact .inl hx
  · exact h.free.imp_right (Or.imp_left hx)
  · exact .inr (.inr hx)

/-- A condition lifts to a side's health unchanged. -/
theorem keeps_head {f : Head → Head} (h : (f (s.side d).head).health = (s.side d).head.health) :
    Keeps m s m (updHead d f s) :=
  keeps_updSide ⟨rfl, by simp [bufferView, Side.inService, h], by simp [ownerOf, h], rfl⟩

theorem keeps_updCap {f : Capture → Capture} (hb : (f (s.side d).cap).bufs = (s.side d).cap.bufs)
    (hf : (f (s.side d).cap).fip.map (fun g => (g.buf, g.lines, g.highest)) =
      (s.side d).cap.fip.map (fun g => (g.buf, g.lines, g.highest))) : Keeps m s m (updCap d f s) :=
  keeps_updSide ⟨rfl, by simp only [bufferView, hb, hf]; rfl, rfl, rfl⟩

theorem keeps_updColl {f : Collector → Collector} (h : (f (s.side d).coll).snap = (s.side d).coll.snap) :
    Keeps m s m (updColl d f s) :=
  keeps_updSide ⟨by simp only [pictureView, h], rfl, rfl, rfl⟩

theorem keeps_updDisp {f : Display → Display}
    (h : (f (s.side d).disp).outstanding = (s.side d).disp.outstanding) : Keeps m s m (updDisp d f s) :=
  keeps_updSide ⟨rfl, rfl, rfl, h⟩

theorem keeps_updSeq {f : Sequencer → Sequencer} : Keeps m s m (updSeq d f s) := keeps_updSide ⟨rfl, rfl, rfl, rfl⟩

/-! ### The buffer table -/

theorem tableShape_free {x : Side} (hb : x.cap.bufs = freeBufs) (hf : x.cap.fip = none) : tableShape x := by
  rw [tableShape, hb, hf]
  decide

theorem buffersOk_free {x : Side} (hb : x.cap.bufs = freeBufs) (hf : x.cap.fip = none) : BuffersOk m d x :=
  ⟨tableShape_free hb hf, by simp [lineLaws, hf], .inr (.inr ⟨hb, hf⟩)⟩

/-- Teardown pays what is owed of a side's table. -/
theorem keeps_teardown : Keeps { m with exempt := d :: m.exempt } s m (teardown d s) := by
  have hcap : Keeps { m with exempt := d :: m.exempt } s { m with exempt := d :: m.exempt }
      (updCap d (fun c => { c with bufs := freeBufs, fip := none, prevSig := none, identical := 0 }) s) :=
    keeps_side rfl (toneTile_same rfl) (fun _ => buffersOk_free rfl rfl) fun es o ho h => h.same_owner ho.symm
  exact .after (keeps_clearCond _ _) <| .after (keeps_discardCur d) <| .after (keeps_orphanWrites d) <|
    .after (keeps_updDisp rfl) <| .after (keeps_updColl rfl) <| hcap.trans (keeps_torn (by simp) (by simp))

theorem keeps_teardown_plain : Keeps m s m (teardown d s) := keeps_exempt.trans keeps_teardown

theorem keeps_stopWatchdogs : Keeps m s m (stopWatchdogs d s) :=
  .after (keeps_clearCond _ _) <| .after (keeps_updDisp rfl) (keeps_updCap rfl rfl)

theorem keeps_startWatchdogs : Keeps m s m (startWatchdogs d s) := by
  rw [startWatchdogs]
  exact .after (keeps_updDisp rfl) (keeps_updCap rfl rfl)

/-! ### The link queue -/

theorem LinkOk.perm {es es' : List Brief} {o : SideId → Owner} (h : LinkOk m es o) (hp : es'.Perm es) :
    LinkOk m es' o where
  slots n := hp.countP_eq (ofSlotB n) ▸ h.slots n
  probes d := hp.countP_eq (probeOf d) ▸ h.probes d
  exposures d := hp.countP_eq (expoOf d) ▸ h.exposures d
  off := h.off
  sure := h.sure
  served e he p hpm := h.served e he p (hp.mem_iff.mp hpm)
  probing e he := hp.countP_eq (probeOf e) ▸ h.probing e he
  exposing e he := hp.countP_eq (expoOf e) ▸ h.exposing e he

theorem brief_attempt (e : LinkEntry) (n : Nat) : brief { e with attempts := n } = brief e := rfl

theorem entries_startNext : (linkEntries (startNext s).link).map brief = (linkEntries s.link).map brief := by
  rw [startNext]
  split
  next e he => simp [beginAttempt, linkEntries, he, brief_attempt]
  next hn =>
    split
    next e rest hw => simp [beginAttempt, linkEntries, hn, hw, brief_attempt]
    next hw => simp [linkEntries, hn, hw]

theorem keeps_startNext : Keeps m s m (startNext s) := by
  refine keeps_quiet ⟨?_, ?_, entries_startNext, ?_, ?_, ?_, ?_⟩ ?_ <;> simp [ringView]

theorem perm_placeEntry (e : LinkEntry) (w : List LinkEntry) : (placeEntry e w).Perm (e :: w) := by
  rw [placeEntry]
  split
  · have hsplit : w.takeWhile LinkEntry.isPart ++ w.dropWhile LinkEntry.isPart = w := List.takeWhile_append_dropWhile
    exact List.perm_middle.trans (by rw [hsplit])
  · exact List.perm_append_singleton e w

/-- A queued entry is one more entry of the link. -/
theorem entries_enqueueEntry (h : Option LinkEntry) (e : LinkEntry) :
    (entriesOf h (enqueueEntry e s).link).Perm (brief e :: entriesOf h s.link) := by
  have hplace : (linkEntries (flagPage .global (updLink (fun k => { k with waiting := placeEntry e k.waiting }) s)).link).Perm
      (e :: linkEntries s.link) := by
    simp only [linkEntries, flagPage_frame, updLink_link]
    exact ((perm_placeEntry e s.link.waiting).append_left _).trans List.perm_middle
  have hall : ((linkEntries (enqueueEntry e s).link).map brief).Perm (brief e :: (linkEntries s.link).map brief) := by
    simp only [enqueueEntry]
    split
    · rw [entries_startNext]; exact hplace.map brief
    · exact hplace.map brief
  simp only [entriesOf, List.map_append]
  exact hall.append_right _

/-- A change of the link that leaves its entries. -/
theorem keeps_updLink {f : Link → Link} (hl : linkEntries (f s.link) = linkEntries s.link) :
    Keeps m s m (updLink f s) := 
  keeps_quiet ⟨rfl, rfl, congrArg (List.map brief) hl, rfl, rfl, rfl, rfl⟩ rfl

theorem keeps_setResult (n : Fin 6) (r : MailResult) : Keeps m s m (setResult n r s) := keeps_updLink rfl

theorem keeps_enterGuard : Keeps m s m (enterGuard s) := keeps_updLink rfl

/-- A change of the link's entries. -/
theorem keeps_entries {m' : Ghost} {t : State} (hs : ∀ d, t.side d = s.side d) (hf : t.faults = s.faults)
    (hi : ringView t = ringView s) (hp : t.path = s.path) (hn : t.snoop = s.snoop)
    (hm : m'.exempt = m.exempt ∧ m'.writeRoom = m.writeRoom ∧ m'.readRoom = m.readRoom)
    (h : LinkOk m (entriesOf m.handing s.link) (ownersOf s) → LinkOk m' (entriesOf m'.handing t.link) (ownersOf s)) :
    Keeps m s m' t := by
  have ho : ownersOf t = ownersOf s := funext fun d => by rw [ownersOf, hs, ownersOf]
  intro L hL
  cases L with
  | link => rw [law, ho]; exact h hL
  | faults => simpa only [law, hf] using hL
  | image => simpa only [law, hn] using hL
  | ring => exact law_of_same (L := .ring) (m := m) hi hL
  | path => simpa only [law, hp, hm.2.1, hm.2.2] using hL
  | display e => simpa only [law, hp, hs] using hL
  | picture e => simpa only [law, hs] using hL
  | buffers e =>
    have hx : BuffersOk m e (s.side e) := hL
    rw [law, hs]
    exact ⟨hx.shape, hx.lines, hm.1 ▸ hx.free⟩

/-- The entry in flight is finished with, and its outcome is to be handed on. -/
theorem keeps_hand {e : LinkEntry} (hm : m.handing = none) (he : s.link.inFlight = some e) :
    Keeps m s { m with handing := some e } (updLink (fun k => { k with inFlight := none }) s) := by
  refine keeps_entries (by simp) (by simp) (by simp [ringView]) (by simp) (by simp) ⟨rfl, rfl, rfl⟩ fun h => ?_
  have hp : (entriesOf (some e) { s.link with inFlight := none }).Perm (entriesOf m.handing s.link) := by
    simp [entriesOf, linkEntries, he, hm]
  have h' := h.perm hp
  exact ⟨h'.slots, h'.probes, h'.exposures, h'.off, h'.sure, h'.served, h'.probing, h'.exposing⟩

end

end Sys2Proof.Proofs.Kept

namespace Sys2Proof.Proofs.Kept

open Sys2Proof Sys2Proof.Machine Sys2Proof.Safety Sys2Proof.Laws

section
variable {m : Ghost} {s : State} {d : SideId}

/-! ### The cancellation of a side's entries (R144) -/

theorem inFlightOf_eq (d : SideId) (k : Link) : inFlightOf d k = k.inFlight.toList.filter fun e => e.side == d := by
  rw [inFlightOf]
  split
  next e he => by_cases h : e.side = d <;> simp [he, h]
  next he => simp [he]

theorem entries_cancelSide (d : SideId) (s : State) :
    linkEntries (cancelSide d s).link = (linkEntries s.link).filter fun e => e.side != d := by
  simp only [cancelSide, linkEntries, (handAll_queue _ _).1, (handAll_queue _ _).2, List.filter_append]
  split
  next h =>
    rw [inFlightOf_eq, List.isEmpty_iff, List.filter_eq_nil_iff] at h
    have hkept : s.link.inFlight.toList.filter (fun e => e.side != d) = s.link.inFlight.toList :=
      List.filter_eq_self.mpr fun e he => by simpa using h e he
    simp [hkept]
  next h =>
    rw [inFlightOf_eq, List.isEmpty_iff, List.filter_eq_nil_iff] at h
    have hnone : s.link.inFlight.toList.filter (fun e => e.side != d) = [] := by
      rcases hk : s.link.inFlight with _ | e <;> simp_all
    simp [cutLine_queue, hnone]

/-- A request is absent once one of its side's EXPOSURE entries has been handed CANCELLED (R59). -/
theorem request_handAll (d : SideId) (es : List LinkEntry) (s : State) :
    ((handAll es s).side d).expo.request = ((s.side d).expo.request && !es.any (isExposure d)) := by
  induction es generalizing s with
  | nil => simp [handAll]
  | cons e rest ih =>
    have hone : ((handCancelled e s).side d).expo.request = ((s.side d).expo.request && !isExposure d e) := by
      rw [handCancelled]
      split
      next hk => simp [isExposure, hk, EntryKind.code]
      next hk =>
        rcases eq_or_other d e.side with he | he
        · rw [he]; simp [isExposure, hk, he, EntryKind.code]
        · have hne : d = e.side.other := by rw [he]; simp
          rw [hne, side_updSide_other]
          simp [isExposure, hk, EntryKind.code]
      next hk => simp [isExposure, hk, EntryKind.code]
    rw [handAll, ih, hone, List.any_cons, Bool.not_or, Bool.and_assoc]

theorem request_cancelSide (d : SideId) (s : State) :
    ((cancelSide d s).side d).expo.request =
      ((s.side d).expo.request && !(linkEntries s.link).any (isExposure d)) := by
  have hany : ∀ l : List LinkEntry, (l.filter fun e => e.side == d).any (isExposure d) = l.any (isExposure d) := by
    intro l
    rw [List.any_filter]
    exact List.any_congr rfl fun e => by rw [isExposure, ← Bool.and_assoc, Bool.and_self]
  simp only [cancelSide, request_handAll, inFlightOf_eq, linkEntries, List.any_append, hany]
  split <;> simp

/-- The link's laws once a side's entries are gone and its request with them. -/
theorem LinkOk.cancelled {es : List Brief} {o : SideId → Owner} (h : LinkOk { m with cancelling := d :: m.cancelling } es o)
    {a : Owner} (hh : a.health = (o d).health) (hc : a.configured = (o d).configured) (hr : a.request = false) :
    LinkOk m (es.filter fun p => p.2 != d) (Function.update o d a) := by
  have hcount : ∀ (q : Brief → Bool), (es.filter fun p => p.2 != d).countP q ≤ es.countP q := fun q =>
    List.filter_sublist.countP_le
  have hgone : ∀ (q : Brief → Bool), (∀ p, q p = true → p.2 = d) → (es.filter fun p => p.2 != d).countP q = 0 := by
    intro q hq
    rw [List.countP_eq_zero]
    intro p hp hqp
    simpa [hq p hqp] using (List.mem_filter.mp hp).2
  have hkept : ∀ {e}, e ≠ d → ∀ (q : Brief → Bool), (∀ p, q p = true → p.2 = e) →
      (es.filter fun p => p.2 != d).countP q = es.countP q := by
    intro e hed q hq
    rw [List.countP_filter]
    refine List.countP_congr fun p _ => ?_
    simp only [Bool.and_eq_true, bne_iff_ne, and_iff_left_iff_imp]
    exact fun hp => (hq p hp).symm ▸ hed
  have hprobe : ∀ e p, probeOf e p = true → p.2 = e := fun e p hp => by simp_all [probeOf]
  have hexpo : ∀ e p, expoOf e p = true → p.2 = e := fun e p hp => by simp_all [expoOf]
  have hnot : ∀ {e}, e ≠ d → e ∉ m.cancelling → e ∉ d :: m.cancelling := by simp_all
  refine ⟨fun n => (hcount _).trans (h.slots n), fun e => (hcount _).trans (h.probes e), fun e => ?_, fun e => ?_,
    fun e he => ?_, fun e he p hp hpe => ?_, fun e he => ?_, fun e he => ?_⟩ <;> by_cases hed : e = d
  case pos => subst hed; simp [hgone _ (hexpo e), hr]
  case neg => simpa [hed, hkept hed _ (hexpo e)] using h.exposures e
  case pos => subst hed; simpa [hh, hc] using h.off e
  case neg => simpa [hed] using h.off e
  case pos => subst hed; simpa [hc] using h.sure e he
  case neg => simpa [hed] using h.sure e he
  case pos => subst hed; simpa [hpe] using (List.mem_filter.mp hp).2
  case neg => simpa [hed] using h.served e (hnot hed he) p (List.mem_filter.mp hp).1 hpe
  case pos => subst hed; simp [hgone _ (hprobe e)]
  case neg => simpa [hed, hkept hed _ (hprobe e)] using h.probing e (hnot hed he)
  case pos => subst hed; simp [hgone _ (hexpo e)]
  case neg => simpa [hed, hkept hed _ (hexpo e)] using h.exposing e (hnot hed he)

theorem countP_map_brief (d : SideId) (es : List LinkEntry) :
    (es.map brief).countP (expoOf d) = es.countP (isExposure d) := by
  rw [List.countP_map]
  rfl

/-- The cancellation of a side's entries pays what is owed of them. -/
theorem keeps_cancelSide (hm : m.handing = none) :
    Keeps { m with cancelling := d :: m.cancelling } s m (cancelSide d s) := by
  obtain ⟨⟨b, hb⟩, ho⟩ := side_cancelSide d s
  have hview : ∀ e, pictureView ((cancelSide d s).side e) = pictureView (s.side e) ∧
      bufferView ((cancelSide d s).side e) = bufferView (s.side e) ∧
      ((cancelSide d s).side e).disp.outstanding = (s.side e).disp.outstanding := by
    intro e
    rcases eq_or_other d e with rfl | rfl
    · rw [hb]; exact ⟨rfl, rfl, rfl⟩
    · rw [ho]; exact ⟨rfl, rfl, rfl⟩
  refine keeps_but .link (fun L hL => ?_) (fun L hL => ?_) fun h => ?_
  · cases L with
    | link => exact absurd rfl hL
    | display e => exact ⟨(hview e).2.2, by simp⟩
    | picture e => exact (hview e).1
    | buffers e => exact (hview e).2.1
    | _ => simp [sameTo, ringView]
  · cases L with
    | link => exact absurd rfl hL
    | buffers e => exact fun h => ⟨h.shape, h.lines, h.free⟩
    | _ => exact id
  · have hreq : ((cancelSide d s).side d).expo.request = false := by
      have hlaw : (entriesOf m.handing s.link).countP (expoOf d) = if (s.side d).expo.request then 1 else 0 := h.exposures d
      rw [entriesOf, hm, Option.toList_none, List.append_nil, countP_map_brief] at hlaw
      rw [request_cancelSide]
      cases hr : (s.side d).expo.request with
      | false => rfl
      | true =>
        rw [hr, if_pos rfl] at hlaw
        have hany : (linkEntries s.link).any (isExposure d) = true := by
          rw [List.any_eq_true]
          exact List.countP_pos_iff.mp (by omega)
        simp [hany]
    have hown : ownersOf (cancelSide d s) = Function.update (ownersOf s) d (ownerOf ((cancelSide d s).side d)) := by
      funext e
      rcases eq_or_other d e with rfl | rfl
      · simp [ownersOf]
      · simp [ownersOf, ho]
    have hent : entriesOf m.handing (cancelSide d s).link = (entriesOf m.handing s.link).filter fun p => p.2 != d := by
      simp only [entriesOf, hm, Option.toList_none, List.append_nil, entries_cancelSide, List.filter_map]
      rfl
    rw [law, hown, hent]
    exact h.cancelled (d := d) (by rw [hb]; rfl) (by rw [hb]; rfl) hreq

end
end Sys2Proof.Proofs.Kept

namespace Sys2Proof.Proofs.Kept

open Sys2Proof Sys2Proof.Machine Sys2Proof.Safety Sys2Proof.Laws

section
variable {m : Ghost} {s : State} {d : SideId}

/-! ### The head controller and the sequencer -/

theorem keeps_degrade (n : Nat) : Keeps m s m (degrade d n s) := by
  rw [degrade]
  split
  next h =>
    refine .after (keeps_raiseCond _ _ _) (keeps_health (.inr (.inl fun _ => rfl)) ?_ (.inr ⟨fun _ => rfl, ?_⟩)) <;>
      simp [h]
  · exact keeps_head rfl
  all_goals exact Keeps.refl m s

theorem keeps_streakDone : Keeps m s m (streakDone d s) := keeps_head rfl

theorem keeps_streakFail : Keeps m s m (streakFail d s) := by
  have hcount : Keeps m s m (updHead d (fun h => { h with streak := satAdd 255 h.streak 1 }) s) := keeps_head rfl
  simp only [streakFail]
  split
  · exact .after (keeps_degrade 7) hcount
  · exact hcount

theorem keeps_countRun : Keeps m s m (countRun d s) := keeps_updSide ⟨rfl, rfl, rfl, rfl⟩

theorem keeps_goodFrame : Keeps m s m (goodFrame d s) := by
  have hcount : Keeps m s m (updHead d (fun h => { h with goodFrames := satAdd Config.max16 h.goodFrames 1 }) s) :=
    keeps_head rfl
  simp only [goodFrame]
  split
  next h =>
    refine .after (keeps_clearCond _ _) (.after (keeps_health (.inr (.inl fun _ => rfl)) ?_ (.inr ⟨fun _ => rfl, ?_⟩)) hcount) <;>
      rw [h.1] <;> simp
  · exact hcount

theorem keeps_headFrame (o : FrameOutcome) : Keeps m s m (headFrame d o s) := by
  simp only [headFrame]
  split
  · cases o with
    | complete => exact keeps_countRun.trans keeps_goodFrame
    | acceptedShort => exact keeps_countRun.trans (keeps_degrade 4)
  · exact Keeps.refl m s

theorem keeps_reportLow : Keeps m s m (reportLow d s) := by
  rw [reportLow_eq]
  by_cases hw : (s.side d).head.awaitingLower = false
  · exact keeps_head (by simp [hw])
  by_cases hr : (s.side d).head.health = .recovering
  · exact keeps_head (by simp [hw, hr])
  by_cases hs : (s.side d).head.health = .stopping
  · refine keeps_health (.inr (.inl ?_)) ?_ (.inr ⟨?_, ?_⟩) <;>
      simp [hw, hs, Health.inService, Health.linkServed]
  · exact keeps_head (by simp [hw, hr, hs])

theorem keeps_seqRaise : Keeps m s m (seqRaise d s) := by
  rw [seqRaise]
  exact keeps_updSeq

theorem keeps_seqRelease : Keeps m s m (seqRelease d s) := by
  simp only [seqRelease]
  split
  · exact keeps_updSeq
  · exact keeps_updSeq
  · exact .after keeps_reportLow keeps_updSeq

theorem keeps_seqLower : Keeps m s m (seqLower d s) := by
  rw [seqLower]
  split
  · exact keeps_seqRelease
  · exact keeps_seqRelease
  · exact Keeps.refl m s
  · exact keeps_reportLow

theorem keeps_raiseComplete : Keeps m s m (raiseComplete d s) := by
  simp only [raiseComplete]
  split
  next h => refine keeps_health (.inr (.inl ?_)) ?_ (.inr ⟨?_, ?_⟩) <;> simp [h, Health.inService, Health.linkServed]
  · exact Keeps.refl m s

theorem keeps_raiseStep : Keeps m s m (raiseStep d s) := by
  simp only [raiseStep]
  split
  · exact keeps_updSeq
  · exact .after keeps_raiseComplete keeps_updSeq

/-! ### The entries to RECOVERING, STOPPING and FAILED (R120, R122, R123) -/

/-- What follows the discard of a frame keeps the laws, with no frame in progress on its side. -/
def ReleaseKeeps (release : State → State) (d : SideId) : Prop :=
  ∀ (m : Ghost) (s : State), m.handing = none → (s.side d).cap.fip = none → Keeps m s m (release s)

theorem releaseKeeps_id (d : SideId) : ReleaseKeeps id d := fun m s _ _ => Keeps.refl m s

theorem keeps_teardownRelease {release : State → State} (hrel : ReleaseKeeps release d) (hm : m.handing = none) :
    Keeps { m with exempt := d :: m.exempt } s m (teardownRelease release d s) := by
  rw [teardownRelease]
  split
  · exact .after (hrel m _ hm (by simp)) keeps_teardown
  · exact keeps_teardown

theorem keeps_leaveUp {release : State → State} (hrel : ReleaseKeeps release d) (hm : m.handing = none) (was : Bool) :
    Keeps { m with exempt := d :: m.exempt, cancelling := d :: m.cancelling } s m (leaveUp release was d s) := by
  have hdown : Keeps { m with exempt := d :: m.exempt, cancelling := d :: m.cancelling } s
      { m with cancelling := d :: m.cancelling } (stopWatchdogs d (teardownRelease release d (clearHealth d s))) :=
    .after keeps_stopWatchdogs <|
      .after (keeps_teardownRelease (m := { m with cancelling := d :: m.cancelling }) hrel hm) (keeps_clearHealth d)
  have hgone : Keeps { m with exempt := d :: m.exempt, cancelling := d :: m.cancelling } s m
      (updHead d (fun h => { h with stageTimer := none })
        (cancelSide d (stopWatchdogs d (teardownRelease release d (clearHealth d s))))) :=
    .after (keeps_head rfl) <| .after (keeps_cancelSide hm) hdown
  simp only [leaveUp]
  refine .after keeps_seqLower <| .after (keeps_head rfl) <| .after (keeps_reformTarget d) ?_
  split
  · exact hgone.trans keeps_reformCab
  · exact hgone

/-- A side that is known to be configured goes to a state without link service, its teardown and its cancellation owed. -/
theorem keeps_leave {f : Head → Head} (hd : d ∈ m.sure) :
    Keeps m s { m with exempt := d :: m.exempt, cancelling := d :: m.cancelling } (updHead d f s) := by
  refine Keeps.trans (Keeps.trans (keeps_exempt (d := d)) (keeps_cancelling (d := d))) ?_
  refine keeps_side rfl (toneTile_same rfl) (fun h => ⟨h.shape, h.lines, .inl List.mem_cons_self⟩) fun es o ho h =>
    h.update ho rfl id (fun hc => ?_) (.inl List.mem_cons_self)
  have hsure := h.sure d hd
  rw [ho] at hsure
  exact absurd hc (by simpa [ownerOf] using hsure)

theorem keeps_enterRecovering {release : State → State} (hrel : ReleaseKeeps release d) (hm : m.handing = none)
    (hd : d ∈ m.sure) : Keeps m s m (enterRecovering release d s) :=
  .after (keeps_leaveUp hrel hm _) <| .after (keeps_followPin s) (keeps_leave hd)

theorem keeps_enterStopping {release : State → State} (hrel : ReleaseKeeps release d) (hm : m.handing = none)
    (hd : d ∈ m.sure) : Keeps m s m (enterStopping release d s) :=
  .after (keeps_leaveUp hrel hm _) <| .after (keeps_followPin s) (keeps_leave hd)

theorem keeps_recoveryTest {release : State → State} (hrel : ReleaseKeeps release d) (hm : m.handing = none)
    (hd : d ∈ m.sure) : Keeps m s m (recoveryTest release d s) := by
  simp only [recoveryTest]
  split
  · split
    · exact .after (keeps_enterRecovering hrel hm hd) (keeps_head rfl)
    · exact keeps_raiseEvent _ _ _
  · exact Keeps.refl m s

/-- FAILED with this cause, and FAULT_N follows (R120, R168). -/
def failedNow (d : SideId) (code : Nat) (s : State) : State :=
  followPin (flagPage .faults s) (updHead d (fun h => { h with health := .failed, cause := code }) (flagPage .faults s))

/-- What an entry to FAILED does once the side is FAILED (R120, R121). -/
def afterFailed (release : State → State) (d : SideId) (code : Nat) (s : State) : State :=
  recoveryTest release d (reformTarget d (reformCab (stopWatchdogs d (teardownRelease release d
    (raiseCond .sideFailed (scopeOf d) (BitVec.ofNat 32 code) (clearCond .sideDegraded (scopeOf d) s))))))

theorem enterFailed_eq (release : State → State) (d : SideId) (code : Nat) (s : State) :
    enterFailed release d code s = afterFailed release d code (failedNow d code s) := rfl

theorem keeps_afterFailed {release : State → State} (hrel : ReleaseKeeps release d) (hm : m.handing = none)
    (code : Nat) :
    Keeps { m with exempt := d :: m.exempt, sure := d :: m.sure } s m (afterFailed release d code s) := by
  have hsure : Keeps { m with exempt := d :: m.exempt, sure := d :: m.sure } s { m with sure := d :: m.sure }
      (afterFailed release d code s) :=
    .after (keeps_recoveryTest hrel hm List.mem_cons_self) <| .after (keeps_reformTarget d) <| .after keeps_reformCab <|
      .after keeps_stopWatchdogs <| .after (keeps_teardownRelease (m := { m with sure := d :: m.sure }) hrel hm) <|
      .after (keeps_raiseCond _ _ _) (keeps_clearCond _ _)
  exact hsure.trans keeps_forget

theorem inService_ne {h : Health} (hs : h.inService = true) :
    h ≠ .off ∧ h ≠ .probing ∧ h.linkServed = true := by
  cases h <;> simp_all [Health.inService, Health.linkServed]

/-- A side in service becomes FAILED, its teardown owed. -/
theorem keeps_failedNow (code : Nat) (h : (s.side d).inService = true) :
    Keeps m s { m with exempt := d :: m.exempt, sure := d :: m.sure } (failedNow d code s) := by
  obtain ⟨hoff, hprobe, -⟩ := inService_ne h
  refine .after (keeps_followPin _) <| .after (keeps_health (.inl List.mem_cons_self) ?_ (.inr ⟨fun _ => rfl, ?_⟩)) <|
    .after (keeps_flagPage _) <| keeps_exempt.trans (keeps_sure (m := { m with exempt := d :: m.exempt }) hoff)
  · simp [hoff]
  · simp [hprobe]

theorem keeps_failRunning {release : State → State} (hrel : ReleaseKeeps release d) (hm : m.handing = none)
    (code : Nat) : Keeps m s m (failRunning release d code s) := by
  rw [failRunning]
  split
  next h => rw [enterFailed_eq]; exact (keeps_failedNow code h).trans (keeps_afterFailed hrel hm code)
  · exact Keeps.refl m s

/-! ### The watchdogs (R22, R93) -/

theorem keeps_frameExpiry {release : State → State} (hrel : ReleaseKeeps release d) (hm : m.handing = none) :
    Keeps m s m (frameExpiry release d s) := by
  simp only [frameExpiry]
  have hcount : Keeps m s m (updCap d (fun c => { c with watchdog := some s.time })
      (raiseEvent .frameMissing (scopeOf d) (BitVec.ofNat 32 (satAdd 15 (s.side d).cap.expiries 1))
        (updCap d (fun c => { c with expiries := satAdd 15 (s.side d).cap.expiries 1 }) s))) :=
    .after (keeps_updCap rfl rfl) <| .after (keeps_raiseEvent _ _ _) (keeps_updCap rfl rfl)
  split
  · exact .after (keeps_failRunning hrel hm 1) hcount
  · exact hcount

theorem keeps_displayExpiry : Keeps m s m (displayExpiry d s) :=
  .after (keeps_raiseCond _ _ _) (keeps_updDisp rfl)

/-! ### Powering up (R113, R122) -/

/-- An entry to POWERING: from a side out of service with its table FREE, without link entries, and configured where it
was OFF. What the buffers' and the link's laws need is asked for them alone. -/
theorem law_enterPowering {L : LawId} (hb : ∀ e, L = .buffers e → (s.side d).inService = true →
      (s.side d).cap.bufs = freeBufs ∧ (s.side d).cap.fip = none)
    (hc : L = .link → (s.side d).configured = true ∨ (s.side d).head.health ≠ .off)
    (hl : L = .link → (s.side d).head.health.linkServed = false) :
    law L m s → law L m (enterPowering d s) := by
  intro hL
  refine keeps_seqRaise L ?_
  cases L with
  | link =>
    have hn : (s.side d).head.health ≠ .probing := fun h => by simpa [h, Health.linkServed] using hl rfl
    simp only [law, ownersOf_updSide, updSide_frame]
    refine LinkOk.update hL rfl rfl id (fun h h' => ?_) (.inr ⟨fun h => ?_, ?_⟩)
    · rcases hc rfl with hc | hc
      · exact absurd h (by simpa [ownerOf] using hc)
      · exact absurd h' hc
    · exact absurd h (by simpa [ownersOf, ownerOf] using hl rfl)
    · simpa [ownersOf, ownerOf] using hn
  | buffers e =>
    simp only [law, side_updSide_eq]
    split
    next he =>
      subst he
      have hx : BuffersOk m e (s.side e) := hL
      refine ⟨hx.shape, hx.lines, ?_⟩
      rcases hx.free with h | h | h
      · exact .inl h
      · exact .inr (.inr (hb e rfl h))
      · exact .inr (.inr h)
    · exact hL
  | picture e =>
    simp only [law, side_updSide_eq]
    split
    next he =>
      subst he
      refine ⟨hL.1, ?_⟩
      have ht := hL.2
      simp only [tileLaws, Bool.and_eq_true] at ht ⊢
      exact ⟨⟨by decide, ht.1.2⟩, ht.2⟩
    · exact hL
  | display e =>
    refine law_of_same ?_ hL
    simp only [sameTo, side_updSide_eq, updSide_frame, and_true]
    split
    next he => rw [he]
    · rfl
  | _ => exact law_of_same (by simp [sameTo, ringView]) hL

end
end Sys2Proof.Proofs.Kept

namespace Sys2Proof.Proofs.Kept

open Sys2Proof Sys2Proof.Machine Sys2Proof.Safety Sys2Proof.Laws

section
variable {m : Ghost} {s : State} {d : SideId}

/-! ### Applies (R184, R185) -/

theorem pendingTone_ok (im : Image) (o : Nat) : toneCfgOk (pendingTone im o) = true := by
  have hnodes : (pendingTone im o).hostNodes.list.all (fun n => decide (n ≤ 1023)) = true :=
    ofFn_all _ _ fun i _ => by simp
  have hfloor : (pendingTone im o).blackFloor ≤ 1023 := by simp only [pendingTone]; omega
  have hclip : 1 ≤ (pendingTone im o).clip := Nat.le_max_left _ _
  have halpha : 1 ≤ (pendingTone im o).alpha ∧ (pendingTone im o).alpha ≤ 16 := by
    simp only [pendingTone, clampNat]; omega
  simp [toneCfgOk, hfloor, hclip, halpha, hnodes]

theorem pendingGlare_ok (im : Image) (o : Nat) : inRange 16 256 (pendingGlare im o).aMin = true := by
  have hclamp : 16 ≤ (pendingGlare im o).aMin ∧ (pendingGlare im o).aMin ≤ 256 := by
    simp only [pendingGlare, clampNat]; omega
  simp [inRange, hclamp]

theorem tileOk_lift {n : Nat} {t : Tile} (hn : n ≤ 256) (h : tileOk t = true) :
    tileOk { t with gain := max n t.gain } = true := by
  rcases t with ⟨st, hold, gain⟩
  simp only [tileOk, inRange, Bool.and_eq_true, decide_eq_true_eq] at h ⊢
  cases st <;> simp only [beq_iff_eq, Bool.and_eq_true, and_true] at h ⊢ <;> omega

/-- A side takes settings that their clamps have formed. -/
theorem picture_adoptSide {x : Side} {c : SideCfg} (hc : toneCfgOk c.tone = true)
    (hg : inRange 16 256 c.glare.aMin = true) (ht : toneLaws x = true) (hl : tileLaws x = true) :
    toneLaws (adoptSide x c) = true ∧ tileLaws (adoptSide x c) = true := by
  simp only [toneLaws, tileLaws, Bool.and_eq_true] at ht hl ⊢
  obtain ⟨⟨htone, hsnap⟩, -⟩ := ht
  obtain ⟨⟨htiles, hgains⟩, -⟩ := hl
  refine ⟨⟨⟨?_, hsnap⟩, hc⟩, ⟨?_, hgains⟩, hg⟩
  · simp only [adoptSide, toneInstall]
    split
    · have hnodes := hc
      simp only [toneCfgOk, Bool.and_eq_true] at hnodes
      exact ToneUnit.curveOk_monotone (by simpa using hnodes.2)
    · exact htone
  · simp only [adoptSide, liftTiles]
    split
    · have h256 : c.glare.aMin ≤ 256 := by simp [inRange] at hg; exact hg.2
      exact map_all _ _ _ _ htiles fun t => tileOk_lift h256
    · exact htiles

theorem keeps_adoptSide {c : SideCfg} (hc : toneCfgOk c.tone = true) (hg : inRange 16 256 c.glare.aMin = true)
    (hf : (s.side d).cap.fip = none) : Keeps m s m (updSide d (fun x => adoptSide x c) s) := by
  refine keeps_side rfl (picture_adoptSide hc hg) (fun h => ⟨h.shape, ?_, h.free⟩) fun es o ho h =>
    h.update ho rfl (fun _ => rfl) (fun hc => absurd hc (by simp [ownerOf, adoptSide])) (.inr ⟨id, Iff.rfl⟩)
  simp [lineLaws, adoptSide, hf]

theorem keeps_compareWatchdogs (hm : m.handing = none) : Keeps m s m (compareWatchdogs d s) := by
  have hframe : Keeps m s m (if frameDue d s then frameExpiry id d s else s) :=
    keeps_ite (fun _ => keeps_frameExpiry (releaseKeeps_id d) hm) fun _ => Keeps.refl m s
  exact keeps_ite (fun _ => .after keeps_displayExpiry hframe) fun _ => hframe

/-- A table that is FREE stays so when the watchdogs are compared. -/
theorem compareWatchdogs_free (hb : (s.side d).cap.bufs = freeBufs) (hf : (s.side d).cap.fip = none) :
    ((compareWatchdogs d s).side d).cap.bufs = freeBufs ∧ ((compareWatchdogs d s).side d).cap.fip = none := by
  have hfail : ∀ t : State, (t.side d).cap.bufs = freeBufs → (t.side d).cap.fip = none →
      ((failRunning id d 1 t).side d).cap.bufs = freeBufs ∧ ((failRunning id d 1 t).side d).cap.fip = none := by
    intro t htb htf
    rw [failRunning]
    split
    · obtain ⟨⟨htorn, -⟩, -⟩ := enterFailed_torn id d 1 t fun u _ _ => by simp [teardownRelease]
      obtain ⟨hbufs, hfip, -⟩ := htorn
      exact ⟨hbufs, hfip⟩
    · exact ⟨htb, htf⟩
  have hframe : ((if frameDue d s then frameExpiry id d s else s).side d).cap.bufs = freeBufs ∧
      ((if frameDue d s then frameExpiry id d s else s).side d).cap.fip = none := by
    split
    · simp only [frameExpiry]
      split
      · exact hfail _ (by simpa using hb) (by simpa using hf)
      · exact ⟨by simpa using hb, by simpa using hf⟩
    · exact ⟨hb, hf⟩
  rw [compareWatchdogs]
  generalize (if frameDue d s then frameExpiry id d s else s) = t at hframe ⊢
  split
  · simpa [displayExpiry] using hframe
  · exact hframe

theorem compareWatchdogs_idle (h : (s.side d).inService = false) : compareWatchdogs d s = s := by
  simp [compareWatchdogs, frameDue, displayDue, h]

theorem keeps_applySide {c : SideCfg} (hc : toneCfgOk c.tone = true) (hg : inRange 16 256 c.glare.aMin = true)
    (hm : m.handing = none) (hf : (s.side d).cap.fip = none) : Keeps m s m (applySide d c s) := by
  have hadopt : Keeps m s m (updSide d (fun x => adoptSide x c) s) := keeps_adoptSide hc hg hf
  have htorn : Keeps m s m (teardown d (updSide d (fun x => adoptSide x c) s)) :=
    hadopt.trans keeps_teardown_plain
  simp only [applySide]
  refine .after (keeps_flagPage _) <| .after (keeps_flagPage _) ?_
  by_cases hconf : (s.side d).configured = true
  · simp only [hconf, Bool.not_true, Bool.false_or, Bool.false_and, Bool.false_eq_true, if_false]
    refine .after (keeps_compareWatchdogs hm) ?_
    split
    · exact htorn
    · exact hadopt
  · have hoff : (s.side d).configured = false := by simpa using hconf
    simp only [hoff, Bool.not_false, Bool.true_or, Bool.true_and, if_true]
    have hall := htorn.trans (keeps_compareWatchdogs (d := d) hm)
    split
    · intro L hL
      have hfree := compareWatchdogs_free (s := teardown d (updSide d (fun x => adoptSide x c) s)) (d := d)
        (by simp) (by simp)
      have hquiet : L = .link → (s.side d).head.health = .off ∧
          compareWatchdogs d (teardown d (updSide d (fun x => adoptSide x c) s)) =
            teardown d (updSide d (fun x => adoptSide x c) s) := by
        rintro rfl
        have hh : (s.side d).head.health = .off := LinkOk.off hL d hoff
        exact ⟨hh, compareWatchdogs_idle (by simp [Side.inService, adoptSide, hh, Health.inService])⟩
      refine law_enterPowering (fun e he _ => by simpa [updHead] using hfree) (fun hl => .inl ?_) (fun hl => ?_)
        (keeps_head (f := fun h => { h with attempts := 0, cause := 0 }) rfl L (hall L hL)) <;> rw [(hquiet hl).2]
      · simp [adoptSide]
      · simp [adoptSide, (hquiet hl).1, Health.linkServed]
    · exact hall

theorem keeps_reject {x : Nat} : Keeps m s m (updSide d (fun y => { y with reject := x }) s) :=
  keeps_updSide ⟨rfl, rfl, rfl, rfl⟩

theorem keeps_refuseSide (code : Nat) : Keeps m s m (refuseSide d code s) :=
  .after (keeps_flagPage _) <| .after keeps_reject (keeps_raiseEvent _ _ _)

theorem keeps_setDeferred (v : Bool) : Keeps m s m (setDeferred d v s) := keeps_updSide ⟨rfl, rfl, rfl, rfl⟩

theorem keeps_applyNow (hm : m.handing = none) (hf : sideApplyReason d s = 0 → (s.side d).cap.fip = none) :
    Keeps m s m (applyNow d s) := by
  rw [applyNow]
  split
  next h => exact keeps_applySide (pendingTone_ok _ _) (pendingGlare_ok _ _) hm (hf h)
  · exact keeps_refuseSide _

theorem releaseKeeps_deferred (d : SideId) : ReleaseKeeps (releaseDeferred d) d := by
  intro m s hm hf
  rw [releaseDeferred]
  split
  · exact .after (keeps_applyNow hm fun _ => by simpa [setDeferred] using hf) (keeps_setDeferred false)
  · exact Keeps.refl m s

theorem keeps_sideApply (hm : m.handing = none) : Keeps m s m (sideApply d s) := by
  rw [sideApply]
  split
  · split
    · exact keeps_setDeferred true
    next h => exact keeps_applyNow hm fun _ => by simpa using h
  next h => exact .after (keeps_setDeferred false) (keeps_applyNow hm fun h' => absurd h' h)

/-- A change of the settings snoop that leaves the pending image; the ring's law reads the ring size. -/
theorem law_snoop {L : LawId} {n : Snoop} (hi : n.image = s.snoop.image)
    (hr : L = .ring → n.cfg.ringSize = s.snoop.cfg.ringSize) : law L m s → law L m { s with snoop := n } := by
  refine law_of_same ?_
  cases L with
  | image => exact hi
  | ring => simp [sameTo, ringView, hr rfl]
  | display e => exact ⟨by cases e <;> rfl, rfl⟩
  | picture e => cases e <;> rfl
  | buffers e => cases e <;> rfl
  | link => exact ⟨rfl, fun e => by cases e <;> rfl⟩
  | _ => rfl

theorem keeps_snoop {n : Snoop} (hi : n.image = s.snoop.image) (hr : n.cfg.ringSize = s.snoop.cfg.ringSize) :
    Keeps m s m { s with snoop := n } := fun _ => law_snoop hi fun _ => hr

theorem keeps_refuseGlobal (code : Nat) : Keeps m s m (refuseGlobal code s) := by
  rw [refuseGlobal]
  exact .after (keeps_flagPage _) <| .after (keeps_snoop rfl rfl) (keeps_raiseEvent _ _ _)

theorem keeps_startService : Keeps m s m (startService s) := by
  rw [startService]
  split
  · exact Keeps.refl m s
  · exact .after keeps_startBacklight (keeps_quiet ⟨rfl, rfl, rfl, rfl, rfl, rfl, rfl⟩ rfl)

/-- The pending image changes within its canonical form. -/
theorem keeps_image {im : Image} (h : Image.wf s.snoop.image = true → Image.wf im = true) :
    Keeps m s m { s with snoop := { s.snoop with image := im } } := by
  refine keeps_but' .image (fun L hL => ?_) h
  cases L with
  | image => exact absurd rfl hL
  | display e => exact ⟨by cases e <;> rfl, rfl⟩
  | picture e => cases e <;> rfl
  | buffers e => cases e <;> rfl
  | link => exact ⟨rfl, fun e => by cases e <;> rfl⟩
  | _ => rfl

theorem keeps_mergeOp (off : Nat) (b : Beat) : Keeps m s m (mergeOp off b s) :=
  keeps_image fun h => wf_mergeBeat h off b

/-- The ring changes, and the ring's law holds afterwards. -/
theorem keeps_ring {t : State} (hs : ∀ d, t.side d = s.side d) (hl : t.link = s.link) (hf : t.faults = s.faults)
    (hp : t.path = s.path) (hi : t.snoop.image = s.snoop.image) (hr : ringLaws s = true → ringLaws t = true) :
    Keeps m s m t := by
  refine keeps_but' .ring (fun L hL => ?_) hr
  cases L with
  | ring => exact absurd rfl hL
  | _ => simp [sameTo, ownersOf, hs, hl, hf, hp, hi]

theorem currentRecord_stale (i : Injector) (w r : Half) :
    currentRecord { i with w := w, r := r, attn := false, inflight := i.inflight.map staleBurst } = false := by
  rcases h : i.inflight with _ | b
  · rfl
  · rcases b with ⟨k, a, bs, g⟩
    cases k <;> simp [currentRecord, staleBurst]

/-- A reconfigured ring is empty, and no record in flight is of it. -/
theorem ringLaws_reconfigureRing (s : State) : ringLaws (reconfigureRing s) = true := by
  have hempty : ringLaws { s with inj := { s.inj with w := 0, r := 0, attn := false, inflight := s.inj.inflight.map staleBurst } } = true := by
    simp [ringLaws, currentRecord_stale]
  exact keeps_flagPage (m := Ghost.none) .global .ring (law_of_same (L := .ring) (m := Ghost.none) rfl hempty)

theorem keeps_reconfigureRing : Keeps m s m (reconfigureRing s) := by
  have hring : Keeps m s m
      { s with inj := { s.inj with w := 0, r := 0, attn := false, inflight := s.inj.inflight.map staleBurst } } :=
    keeps_ring (fun d => by cases d <;> rfl) rfl rfl rfl rfl fun _ => by simp [ringLaws, currentRecord_stale]
  rw [reconfigureRing]
  refine .after (keeps_flagPage _) (hring.trans ?_)
  exact keeps_image fun h => wf_put (wf_put h 0 (by decide)) 0 (by decide)

/-- The part serves with these global settings (R162, R184). -/
def serving (g : GlobalCfg) (s : State) : State :=
  startService (followPin s { s with snoop := { s.snoop with cfg := g, reject := 0 } })

/-- The settings with the ring reconfigured where its place or size changes (R161). -/
def withRing (g : GlobalCfg) (s : State) : State :=
  if s.snoop.cfg.ringBase != g.ringBase || s.snoop.cfg.ringSize != g.ringSize then reconfigureRing (serving g s)
  else serving g s

theorem adoptGlobal_eq (g : GlobalCfg) (s : State) :
    adoptGlobal g s = flagPage .global (if s.snoop.cfg.lampPol != g.lampPol then lampRestart (backlightApply (withRing g s))
      else backlightApply (withRing g s)) := rfl

theorem law_serving {L : LawId} {g : GlobalCfg} (hr : L = .ring → g.ringSize = s.snoop.cfg.ringSize) :
    law L m s → law L m (serving g s) :=
  fun hL => keeps_startService L (keeps_followPin s L (law_snoop rfl hr hL))

/-- A new ring size comes with the ring's reconfiguration. -/
theorem keeps_withRing (g : GlobalCfg) : Keeps m s m (withRing g s) := by
  refine keeps_ite (fun _ L hL => ?_) fun h L => law_serving fun _ => ?_
  · by_cases hring : L = .ring
    · subst hring; exact ringLaws_reconfigureRing _
    · exact keeps_reconfigureRing L (law_serving (fun h => absurd h hring) hL)
  · simp only [Bool.or_eq_true, bne_iff_ne, not_or, not_not] at h
    exact h.2.symm

theorem keeps_adoptGlobal (g : GlobalCfg) : Keeps m s m (adoptGlobal g s) := by
  have hlit : Keeps m s m (backlightApply (withRing g s)) := .after keeps_backlightApply (keeps_withRing g)
  rw [adoptGlobal_eq]
  exact .after (keeps_flagPage _) (keeps_ite (fun _ => hlit.trans keeps_lampRestart) fun _ => hlit)

theorem keeps_globalApplyOp : Keeps m s m (globalApplyOp s) :=
  keeps_ite (fun _ => keeps_adoptGlobal _) fun _ => keeps_refuseGlobal _

end
end Sys2Proof.Proofs.Kept

namespace Sys2Proof.Proofs.Kept

open Sys2Proof Sys2Proof.Machine Sys2Proof.Safety Sys2Proof.Laws

section
variable {m : Ghost} {s : State} {d : SideId}

/-! ### New entries of the link queue (R143) -/

theorem LinkOk.add_mailbox {es : List Brief} {o : SideId → Owner} (h : LinkOk m es o) {n : Fin 6} (tag : Byte)
    (hfree : es.countP (ofSlotB n) = 0) (hs : (o d).health.linkServed = true) :
    LinkOk m ((.mailbox n tag, d) :: es) o := by
  have hprobe : ∀ e, ((.mailbox n tag, d) :: es : List Brief).countP (probeOf e) = es.countP (probeOf e) := fun e =>
    List.countP_cons_of_neg (by simp [probeOf, EntryKind.code])
  have hexpo : ∀ e, ((.mailbox n tag, d) :: es : List Brief).countP (expoOf e) = es.countP (expoOf e) := fun e =>
    List.countP_cons_of_neg (by simp [expoOf, EntryKind.code])
  refine ⟨fun k => ?_, fun e => hprobe e ▸ h.probes e, fun e => hexpo e ▸ h.exposures e, h.off, h.sure,
    fun e he p hp hpe => ?_, fun e he => hprobe e ▸ h.probing e he, fun e he => hexpo e ▸ h.exposing e he⟩
  · by_cases hk : n = k
    · subst hk; simp [List.countP_cons, hfree]; split <;> simp
    · rw [List.countP_cons_of_neg (by simpa [ofSlotB] using hk)]; exact h.slots k
  · rcases List.mem_cons.mp hp with rfl | hp
    · subst hpe; exact hs
    · exact h.served e he p hp hpe

theorem LinkOk.add_exposure {es : List Brief} {o : SideId → Owner} (h : LinkOk m es o) (hr : (o d).request = false)
    (hs : (o d).health.linkServed = true) (hn : (o d).health ≠ .probing) {a : Owner}
    (ha : a = { o d with request := true }) : LinkOk m ((.exposure, d) :: es) (Function.update o d a) := by
  subst ha
  have hprobe : ∀ e, ((.exposure, d) :: es : List Brief).countP (probeOf e) = es.countP (probeOf e) := fun e =>
    List.countP_cons_of_neg (by simp [probeOf, EntryKind.code])
  have hslot : ∀ k, ((.exposure, d) :: es : List Brief).countP (ofSlotB k) = es.countP (ofSlotB k) := fun k =>
    List.countP_cons_of_neg (by simp [ofSlotB])
  have hexpo : ∀ {e}, e ≠ d → ((.exposure, d) :: es : List Brief).countP (expoOf e) = es.countP (expoOf e) := fun he =>
    List.countP_cons_of_neg (by simpa [expoOf] using fun h => absurd h.symm he)
  refine ⟨fun k => hslot k ▸ h.slots k, fun e => hprobe e ▸ h.probes e, fun e => ?_, fun e => ?_, fun e he => ?_,
    fun e he p hp hpe => ?_, fun e he => ?_, fun e he => ?_⟩ <;> by_cases hed : e = d
  case pos =>
    subst hed
    have h0 := h.exposures e
    rw [hr] at h0
    rw [List.countP_cons_of_pos (by simp [expoOf, EntryKind.code])]
    simpa using h0
  case neg => simpa [hed, hexpo hed] using h.exposures e
  case pos => subst hed; simpa using h.off e
  case neg => simpa [hed] using h.off e
  case pos => subst hed; simpa using h.sure e he
  case neg => simpa [hed] using h.sure e he
  case pos => subst hed; simpa using hs
  case neg =>
    rcases List.mem_cons.mp hp with rfl | hp
    · exact absurd hpe.symm hed
    · simpa [hed] using h.served e he p hp hpe
  case pos => subst hed; simpa [hprobe] using h.probing e he
  case neg => simpa [hed, hprobe] using h.probing e he
  case pos => subst hed; simp [hn]
  case neg => simpa [hed, hexpo hed] using h.exposing e he

/-- A side the link does not serve has no entry. -/
theorem LinkOk.no_entry {es : List Brief} {o : SideId → Owner} (h : LinkOk m es o) (hd : d ∉ m.cancelling)
    (hs : (o d).health.linkServed = false) {q : Brief → Bool} (hq : ∀ p, q p = true → p.2 = d) : es.countP q = 0 := by
  rw [List.countP_eq_zero]
  intro p hp hqp
  simp [h.served d hd p hp (hq p hqp)] at hs

theorem side_of_probeOf {p : Brief} (h : probeOf d p = true) : p.2 = d := by simp_all [probeOf]

theorem side_of_expoOf {p : Brief} (h : expoOf d p = true) : p.2 = d := by simp_all [expoOf]

theorem LinkOk.add_probe {es : List Brief} {o : SideId → Owner} (h : LinkOk m es o) (hd : d ∉ m.cancelling)
    (hs : (o d).health = .stabilizing) {a : Owner} (ha : a = { o d with health := .probing }) :
    LinkOk m ((.probe, d) :: es) (Function.update o d a) := by
  subst ha
  have hserved : (o d).health.linkServed = false := by rw [hs]; rfl
  have hnoProbe : es.countP (probeOf d) = 0 := h.no_entry hd hserved fun _ => side_of_probeOf
  have hnoExpo : es.countP (expoOf d) = 0 := h.no_entry hd hserved fun _ => side_of_expoOf
  have hexpo : ∀ e, ((.probe, d) :: es : List Brief).countP (expoOf e) = es.countP (expoOf e) := fun e =>
    List.countP_cons_of_neg (by simp [expoOf, EntryKind.code])
  have hslot : ∀ k, ((.probe, d) :: es : List Brief).countP (ofSlotB k) = es.countP (ofSlotB k) := fun k =>
    List.countP_cons_of_neg (by simp [ofSlotB])
  have hprobe : ∀ {e}, e ≠ d → ((.probe, d) :: es : List Brief).countP (probeOf e) = es.countP (probeOf e) := fun he =>
    List.countP_cons_of_neg (by simpa [probeOf] using fun h => absurd h.symm he)
  refine ⟨fun k => hslot k ▸ h.slots k, fun e => ?_, fun e => ?_, fun e => ?_, fun e he => ?_,
    fun e he p hp hpe => ?_, fun e he => ?_, fun e he => ?_⟩ <;> by_cases hed : e = d
  case pos => subst hed; rw [List.countP_cons_of_pos (by simp [probeOf, EntryKind.code]), hnoProbe]
  case neg => exact hprobe hed ▸ h.probes e
  case pos => subst hed; simpa [hexpo] using h.exposures e
  case neg => simpa [hed, hexpo] using h.exposures e
  case pos =>
    subst hed
    intro hc
    exact absurd (h.off e (by simpa using hc)) (by simp [hs])
  case neg => simpa [hed] using h.off e
  case pos => subst hed; simpa using h.sure e he
  case neg => simpa [hed] using h.sure e he
  case pos => subst hed; simp [Health.linkServed]
  case neg =>
    rcases List.mem_cons.mp hp with rfl | hp
    · exact absurd hpe.symm hed
    · simpa [hed] using h.served e he p hp hpe
  case pos => subst hed; simp
  case neg => simpa [hed, hprobe hed] using h.probing e he
  case pos => subst hed; simp [hexpo, hnoExpo]
  case neg => simpa [hed, hexpo] using h.exposing e he

/-- A queued entry is seen by the link's laws alone. -/
theorem keeps_enqueueEntry {e : LinkEntry}
    (h : LinkOk m (entriesOf m.handing s.link) (ownersOf s) → LinkOk m (brief e :: entriesOf m.handing s.link) (ownersOf s)) :
    Keeps m s m (enqueueEntry e s) :=
  keeps_entries (by simp) (by simp) (by simp [ringView, currentRecord]) (by simp) (by simp) ⟨rfl, rfl, rfl⟩ fun hk =>
    (h hk).perm (entries_enqueueEntry _ e)

/-- A change of a side that only the link's laws see. -/
theorem law_updSide {L : LawId} {f : Side → Side} (hL : L ≠ .link)
    (hp : pictureView (f (s.side d)) = pictureView (s.side d)) (hb : bufferView (f (s.side d)) = bufferView (s.side d))
    (ho : (f (s.side d)).disp.outstanding = (s.side d).disp.outstanding) : law L m s → law L m (updSide d f s) := by
  refine law_of_same ?_
  cases L with
  | link => exact absurd rfl hL
  | display e =>
    simp only [sameTo, side_updSide_eq, updSide_frame, and_true]
    split
    next he => rw [he]; exact ho
    · rfl
  | picture e =>
    simp only [sameTo, side_updSide_eq]
    split
    next he => rw [he]; exact hp
    · rfl
  | buffers e =>
    simp only [sameTo, side_updSide_eq]
    split
    next he => rw [he]; exact hb
    · rfl
  | _ => simp [sameTo, ringView]

/-- An exposure request of a side without one, in a state the link serves. -/
theorem law_queueExposure {L : LawId} (v : Nat) (hg : L = .link → (s.side d).expo.request = false ∧
      (s.side d).head.health.linkServed = true ∧ (s.side d).head.health ≠ .probing) :
    law L m s → law L m (queueExposure d v s) := by
  intro hL
  by_cases hlink : L = .link
  · subst hlink
    obtain ⟨hr, hs, hn⟩ := hg rfl
    have hx : ownersOf (queueExposure d v s) = Function.update (ownersOf s) d { ownersOf s d with request := true } := by
      have hsame : ownersOf (queueExposure d v s) =
          ownersOf (updExpo d (fun e => { e with request := true }) s) := by
        funext e; simp [ownersOf, queueExposure]
      rw [hsame, updExpo, ownersOf_updSide]
      rfl
    rw [law, hx]
    refine LinkOk.perm (LinkOk.add_exposure hL hr hs hn rfl) ?_
    have hent := entries_enqueueEntry m.handing
      { kind := .exposure, side := d, read := false, reg := (s.side d).cfg.expo.expoReg, data := BitVec.ofNat 16 v, attempts := 0 }
      (s := updExpo d (fun e => { e with request := true }) s)
    simpa [brief, queueExposure] using hent
  · have hreq : law L m (updExpo d (fun e => { e with request := true }) s) := law_updSide hlink rfl rfl rfl hL
    refine law_of_same ?_ hreq
    cases L with
    | link => exact absurd rfl hlink
    | ring => simp [sameTo, ringView, currentRecord, queueExposure]
    | _ => simp [sameTo, queueExposure]

theorem keeps_queueExposure (v : Nat) (hr : (s.side d).expo.request = false) (hs : (s.side d).inService = true) :
    Keeps m s m (queueExposure d v s) := by
  obtain ⟨-, hn, hsrv⟩ := inService_ne hs
  exact fun L => law_queueExposure v fun _ => ⟨hr, hsrv, hn⟩

theorem keeps_enterProbing (hd : d ∉ m.cancelling) (h : (s.side d).head.health = .stabilizing) :
    Keeps m s m (enterProbing d s) := by
  intro L hL
  have hother : L ≠ .link → law L m (updHead d (fun h => { h with health := .probing, stageTimer := none }) s) :=
    fun hne => law_updSide hne rfl (by simp [bufferView, Side.inService, h, Health.inService]) rfl hL
  by_cases hlink : L = .link
  · subst hlink
    have hx : ownersOf (enterProbing d s) = Function.update (ownersOf s) d { ownersOf s d with health := .probing } := by
      have hsame : ownersOf (enterProbing d s) =
          ownersOf (updHead d (fun h => { h with health := .probing, stageTimer := none }) s) := by
        funext e; simp [ownersOf, enterProbing]
      rw [hsame, updHead, ownersOf_updSide]
      rfl
    rw [law, hx]
    refine LinkOk.perm (LinkOk.add_probe hL hd h rfl) ?_
    have hent := entries_enqueueEntry m.handing
      { kind := .probe, side := d, read := true, reg := (s.side d).cfg.head.idReg, data := 0, attempts := 0 }
      (s := updHead d (fun h => { h with health := .probing, stageTimer := none }) s)
    simpa [brief, enterProbing] using hent
  · refine law_of_same ?_ (hother hlink)
    cases L with
    | link => exact absurd rfl hlink
    | ring => simp [sameTo, ringView, currentRecord, enterProbing]
    | _ => simp [sameTo, enterProbing]

theorem countP_slot_of_not_busy {n : Fin 6} {k : Link} (h : slotBusy n k = false) :
    (entriesOf none k).countP (ofSlotB n) = 0 := by
  have hof : ∀ e : LinkEntry, ofSlotB n (brief e) = e.ofSlot n := fun e => rfl
  rw [List.countP_eq_zero]
  intro p hp
  simp only [entriesOf, Option.toList_none, List.append_nil, List.mem_map, linkEntries, List.mem_append] at hp
  obtain ⟨e, he, rfl⟩ := hp
  rw [hof]
  simp only [slotBusy, Bool.or_eq_false_iff, List.any_eq_false] at h
  rcases he with he | he
  · rw [Option.mem_toList.mp he] at h
    simpa using h.1
  · exact h.2 e he

theorem keeps_submitSlot (hm : m.handing = none) (n : Fin 6) : Keeps m s m (submitSlot n s) := by
  simp only [submitSlot]
  refine keeps_ite (fun _ => Keeps.refl m s) fun _ => keeps_ite (fun _ => keeps_setResult _ _) fun hbusy =>
    keeps_ite (fun hs => ?_) fun _ => keeps_setResult _ _
  refine .after (keeps_enqueueEntry fun h => ?_) (keeps_setResult n ⟨_, .pending, 0⟩)
  refine h.add_mailbox (n := n) _ ?_ (by simpa [ownersOf, ownerOf, slotEntry] using hs)
  rw [hm]
  exact countP_slot_of_not_busy (by simpa [slotBusy, setResult] using hbusy)

end
end Sys2Proof.Proofs.Kept

namespace Sys2Proof.Proofs.Kept

open Sys2Proof Sys2Proof.Machine Sys2Proof.Safety Sys2Proof.Laws

section
variable {s : State} {d : SideId} {e : LinkEntry}

/-! ### Final outcomes (R141) -/

/-- Owed while the outcome of `e` is being handed on. -/
def handingOf (e : LinkEntry) : Ghost := { Ghost.none with handing := some e }

/-- The link's laws without the entry whose outcome is being handed on. -/
theorem LinkOk.drop {es : List Brief} {o : SideId → Owner} (h : LinkOk (handingOf e) (es ++ [brief e]) o)
    (hk : e.kind ≠ .exposure) : LinkOk Ghost.none es o := by
  have hle : ∀ q : Brief → Bool, es.countP q ≤ (es ++ [brief e]).countP q := fun q =>
    (List.sublist_append_left es [brief e]).countP_le
  have hexpo : ∀ f, (es ++ [brief e]).countP (expoOf f) = es.countP (expoOf f) := by
    intro f
    rw [List.countP_append, List.countP_singleton, if_neg, Nat.add_zero]
    rcases hc : e.kind <;> simp_all [expoOf, brief, EntryKind.code]
  exact ⟨fun n => (hle _).trans (h.slots n), fun f => (hle _).trans (h.probes f), fun f => hexpo f ▸ h.exposures f, h.off,
    h.sure, fun f hf p hp => h.served f hf p (List.mem_append_left _ hp),
    fun f hf hp => h.probing f hf (hp.trans_le (hle _)), fun f hf => hexpo f ▸ h.exposing f hf⟩

/-- An EXPOSURE's outcome takes its request away. -/
theorem LinkOk.drop_exposure {es : List Brief} {o : SideId → Owner} (h : LinkOk (handingOf e) (es ++ [brief e]) o)
    (hk : e.kind = .exposure) {a : Owner} (ha : a = { o e.side with request := false }) :
    LinkOk Ghost.none es (Function.update o e.side a) := by
  subst ha
  have hle : ∀ q : Brief → Bool, es.countP q ≤ (es ++ [brief e]).countP q := fun q =>
    (List.sublist_append_left es [brief e]).countP_le
  have hother : ∀ {f}, f ≠ e.side → (es ++ [brief e]).countP (expoOf f) = es.countP (expoOf f) := by
    intro f hf
    rw [List.countP_append, List.countP_singleton, if_neg, Nat.add_zero]
    simpa [expoOf, brief] using fun h => absurd h.symm hf
  have hself : (es ++ [brief e]).countP (expoOf e.side) = es.countP (expoOf e.side) + 1 := by
    rw [List.countP_append, List.countP_singleton, if_pos]
    simp [expoOf, brief, hk, EntryKind.code]
  have hnone : es.countP (expoOf e.side) = 0 := by
    have hx := h.exposures e.side
    rw [hself] at hx
    split at hx <;> omega
  refine ⟨fun n => (hle _).trans (h.slots n), fun f => (hle _).trans (h.probes f), fun f => ?_, fun f => ?_,
    fun f hf => ?_, fun f hf p hp hpe => ?_, fun f hf => ?_, fun f hf => ?_⟩ <;> by_cases hed : f = e.side
  case pos => subst hed; simp [hnone]
  case neg => simpa [hed] using hother hed ▸ h.exposures f
  case pos => subst hed; simpa using h.off e.side
  case neg => simpa [hed] using h.off f
  case pos => subst hed; simpa using h.sure e.side hf
  case neg => simpa [hed] using h.sure f hf
  case pos => subst hed; simpa using h.served e.side hf p (List.mem_append_left _ hp) hpe
  case neg => simpa [hed] using h.served f hf p (List.mem_append_left _ hp) hpe
  case pos => subst hed; simpa using fun hp => h.probing e.side hf (Nat.lt_of_lt_of_le hp (hle _))
  case neg => simpa [hed] using fun hp => h.probing f hf (Nat.lt_of_lt_of_le hp (hle _))
  case pos => subst hed; simp [hnone]
  case neg => simpa [hed, hother hed] using h.exposing f hf

/-- While the outcome of a PROBE is being handed on its side is in PROBING with no exposure request. -/
theorem LinkOk.of_probe {es : List Brief} {o : SideId → Owner} (h : LinkOk (handingOf e) (es ++ [brief e]) o)
    (hk : e.kind = .probe) :
    (o e.side).health = .probing ∧ (o e.side).request = false ∧ es.countP (probeOf e.side) = 0 := by
  have hmem : probeOf e.side (brief e) = true := by simp [probeOf, brief, hk, EntryKind.code]
  have hone : (es ++ [brief e]).countP (probeOf e.side) = es.countP (probeOf e.side) + 1 := by
    rw [List.countP_append, List.countP_singleton, if_pos hmem]
  have hprobing : (o e.side).health = .probing := h.probing e.side List.not_mem_nil (by omega)
  have hexpo := h.exposures e.side
  rw [h.exposing e.side List.not_mem_nil hprobing] at hexpo
  have hprobes := h.probes e.side
  exact ⟨hprobing, by by_contra hr; simp [hr] at hexpo, by omega⟩

/-- A PROBE's outcome takes its side from PROBING to a state the link serves. -/
theorem LinkOk.probed {m : Ghost} {es : List Brief} {o : SideId → Owner} (h : LinkOk (handingOf e) (es ++ [brief e]) o)
    (hk : e.kind = .probe) {a : Owner} (hr : a.request = (o e.side).request) (hc : a.configured = (o e.side).configured)
    (hs : a.health.linkServed = true) (hn : a.health ≠ .probing) (hm : m.cancelling = [] ∧ ∀ f ∈ m.sure, f = e.side) :
    LinkOk m es (Function.update o e.side a) := by
  obtain ⟨hprobing, -, hnone⟩ := h.of_probe hk
  have hconf : (o e.side).configured = true := by
    by_contra hcon
    have hoff := h.off e.side (by simpa using hcon)
    rw [hprobing] at hoff
    exact absurd hoff (by decide)
  have h' := h.drop (by rw [hk]; decide)
  refine ⟨h'.slots, h'.probes, fun f => ?_, fun f => ?_, fun f hf => ?_, fun f hf p hp hpe => ?_, fun f hf => ?_,
    fun f hf => ?_⟩ <;> by_cases hed : f = e.side
  case pos => subst hed; simpa [hr] using h'.exposures e.side
  case neg => simpa [hed] using h'.exposures f
  case pos => subst hed; simp [hc, hconf]
  case neg => simpa [hed] using h'.off f
  case pos => subst hed; simp [hc, hconf]
  case neg => exact absurd (hm.2 f hf) hed
  case pos => subst hed; simpa using hs
  case neg => simpa [hed] using h'.served f List.not_mem_nil p hp hpe
  case pos => subst hed; simp [hnone]
  case neg => simpa [hed] using h'.probing f List.not_mem_nil
  case pos => subst hed; simp [hn]
  case neg => simpa [hed] using h'.exposing f List.not_mem_nil

theorem entriesOf_handing (e : LinkEntry) (k : Link) :
    entriesOf (handingOf e).handing k = entriesOf Option.none k ++ [brief e] := by
  simp [entriesOf, handingOf]

/-- A law other than the link's does not see whose outcome is being handed on. -/
theorem law_handed {L : LawId} (hL : L ≠ .link) : law L (handingOf e) s → law L Ghost.none s := by
  cases L with
  | link => exact absurd rfl hL
  | buffers e => exact fun h => ⟨h.shape, h.lines, h.free⟩
  | _ => exact id

theorem keeps_handed (hk : ∃ n tag, e.kind = .mailbox n tag) : Keeps (handingOf e) s Ghost.none s := by
  intro L hL
  by_cases hlink : L = .link
  · subst hlink
    rw [law, entriesOf_handing] at hL
    exact hL.drop (by obtain ⟨n, tag, h⟩ := hk; simp [h])
  · exact law_handed hlink hL

theorem keeps_exposureHanded (hk : e.kind = .exposure) :
    Keeps (handingOf e) s Ghost.none (updExpo e.side (fun x => { x with request := false }) s) := by
  intro L hL
  by_cases hlink : L = .link
  · subst hlink
    rw [law, entriesOf_handing] at hL
    simp only [law, updExpo, ownersOf_updSide, updSide_frame]
    exact hL.drop_exposure hk rfl
  · exact law_updSide hlink rfl rfl rfl (law_handed hlink hL)

/-- A PROBE's outcome changes its side's health. -/
theorem keeps_probed {m : Ghost} {f : Head → Head} (hk : e.kind = .probe)
    (hs : (f (s.side e.side).head).health.linkServed = true) (hn : (f (s.side e.side).head).health ≠ .probing)
    (hm : m.cancelling = [] ∧ (∀ f ∈ m.sure, f = e.side) ∧ m.handing = Option.none ∧ m.writeRoom = 0 ∧ m.readRoom = 0)
    (hin : e.side ∈ m.exempt ∨ (f (s.side e.side).head).health.inService = true) :
    Keeps (handingOf e) s m (updHead e.side f s) := by
  obtain ⟨hcan, hsure, hhand, hw, hr⟩ := hm
  intro L hL
  cases L with
  | link =>
    rw [law, entriesOf_handing] at hL
    simp only [law, hhand, updHead, ownersOf_updSide, updSide_frame]
    exact hL.probed hk rfl rfl hs hn ⟨hcan, hsure⟩
  | buffers g =>
    have hx : BuffersOk (handingOf e) g (s.side g) := hL
    simp only [law, updHead, side_updSide_eq]
    split
    next hg => subst hg; exact ⟨hx.shape, hx.lines, hin.imp_right Or.inl⟩
    · exact ⟨hx.shape, hx.lines, .inr (hx.free.resolve_left List.not_mem_nil)⟩
  | path => simpa [law, handingOf, Ghost.none, hw, hr] using hL
  | display g =>
    refine law_of_same (m := m) ⟨?_, by simp⟩ hL
    simp only [updHead, side_updSide_eq]
    split
    next hg => rw [hg]
    · rfl
  | picture g =>
    refine law_of_same (m := m) (L := .picture g) ?_ hL
    simp only [sameTo, updHead, side_updSide_eq]
    split
    next hg => rw [hg]; rfl
    · rfl
  | _ => exact law_of_same (m := m) (by simp [sameTo, ringView]) hL

theorem keeps_enterRunning (hk : e.kind = .probe) : Keeps (handingOf e) s Ghost.none (enterRunning e.side s) := by
  have hrun : Keeps (handingOf e) s Ghost.none
      (startWatchdogs e.side (updHead e.side (fun h => { h with health := .running, cause := 0, goodFrames := 0, runCount := 0 }) s)) :=
    .after keeps_startWatchdogs (keeps_probed hk rfl nofun ⟨rfl, by simp [Ghost.none], rfl, rfl, rfl⟩ (.inr rfl))
  rw [enterRunning]
  refine .after keeps_reformCab (keeps_ite (fun _ => hrun) fun _ L hL => law_queueExposure _ ?_ (hrun L hL))
  rintro rfl
  rw [law, entriesOf_handing] at hL
  have hreq := (hL.of_probe hk).2.1
  exact ⟨by simpa [startWatchdogs, ownersOf, ownerOf] using hreq, by simp [startWatchdogs, Health.linkServed],
    by simp [startWatchdogs]⟩

theorem keeps_probeFailed (hk : e.kind = .probe) (det : BitVec 32) :
    Keeps (handingOf e) s Ghost.none (probeFailed (releaseDeferred e.side) e.side det s) := by
  rw [probeFailed, enterFailed_eq]
  refine .after (keeps_afterFailed (releaseKeeps_deferred _) rfl 3) <| .after (keeps_followPin _) <|
    .after (keeps_probed hk rfl nofun ⟨rfl, by simp [Ghost.none], rfl, rfl, rfl⟩ (.inl List.mem_cons_self)) <|
    .after (keeps_flagPage _) (keeps_raiseEvent _ _ _)

theorem keeps_outcomeProbe (hk : e.kind = .probe) (a : Attempt) :
    Keeps (handingOf e) s Ghost.none (outcomeProbe e.side a s) := by
  cases a with
  | done v => exact keeps_ite (fun _ => keeps_enterRunning hk) fun _ => keeps_probeFailed hk _
  | refused => exact keeps_probeFailed hk _
  | badCheck => exact keeps_probeFailed hk _
  | noAnswer => exact keeps_probeFailed hk _

theorem keeps_outcomeOwner (a : Attempt) : Keeps (handingOf e) s Ghost.none (outcomeOwner e a s) := by
  rw [outcomeOwner]
  split
  next hk => exact keeps_outcomeProbe hk a
  next hk => exact keeps_exposureHanded hk
  next n tag hk => exact .after (keeps_setResult _ _) (keeps_handed ⟨n, tag, hk⟩)

theorem keeps_outcomeConfirm (a : Attempt) : Keeps Ghost.none s Ghost.none (outcomeConfirm e a s) := by
  cases a with
  | done v =>
    exact keeps_ite (fun _ => Keeps.refl _ s) fun _ =>
      keeps_ite (fun _ => keeps_updSide ⟨rfl, rfl, rfl, rfl⟩) fun _ => Keeps.refl _ s
  | refused => exact Keeps.refl _ s
  | badCheck => exact Keeps.refl _ s
  | noAnswer => exact Keeps.refl _ s

theorem keeps_outcomeStreak {m : Ghost} (a : Attempt) : Keeps m s m (outcomeStreak e a s) := by
  cases a with
  | done v => exact keeps_streakDone
  | refused => exact keeps_streakFail
  | badCheck => exact keeps_streakFail
  | noAnswer => exact keeps_streakFail

theorem keeps_outcomeEvent {m : Ghost} (a : Attempt) : Keeps m s m (outcomeEvent e a s) := by
  cases a with
  | done v => exact Keeps.refl m s
  | refused => exact keeps_raiseEvent _ _ _
  | badCheck => exact keeps_raiseEvent _ _ _
  | noAnswer => exact keeps_raiseEvent _ _ _

theorem keeps_finalOutcome (a : Attempt) : Keeps (handingOf e) s Ghost.none (finalOutcome e a s) :=
  .after (keeps_outcomeConfirm a) <| .after (keeps_outcomeOwner a) <| .after (keeps_outcomeStreak a) (keeps_outcomeEvent a)

theorem keeps_endAttempt (a : Attempt) : Keeps Ghost.none s Ghost.none (endAttempt a s) := by
  rw [endAttempt]
  split
  next e he =>
    exact keeps_ite (fun _ => keeps_enterGuard) fun _ => .after (keeps_finalOutcome a) <|
      .after (keeps_hand rfl (by simpa [enterGuard] using he)) keeps_enterGuard
  · exact keeps_enterGuard

/-! ### The line (R135, R138, R139) -/

theorem keeps_startEdgeOp {m : Ghost} (low : Bool) : Keeps m s m (startEdgeOp low s) :=
  keeps_ite (fun _ => keeps_updLink rfl) fun _ => Keeps.refl m s

theorem keeps_characterOp {m : Ghost} (c : RxChar) : Keeps m s m (characterOp c s) := keeps_updLink rfl

theorem keeps_sentOp {m : Ghost} : Keeps m s m (sentOp s) := keeps_updLink rfl

theorem keeps_receive (c : RxChar) : Keeps Ghost.none s Ghost.none (responseOp.receive c s) := by
  rw [responseOp.receive]
  split
  · exact keeps_endAttempt _
  · exact Keeps.refl _ s
  · exact Keeps.refl _ s

theorem keeps_responseOp (c : RxChar) : Keeps Ghost.none s Ghost.none (responseOp c s) := by
  rw [responseOp]
  split
  · exact keeps_enterGuard
  · exact Keeps.refl _ s
  · exact Keeps.refl _ s
  · exact Keeps.refl _ s
  · exact keeps_receive c
  · exact keeps_receive c

theorem keeps_silenceOp : Keeps Ghost.none s Ghost.none (silenceOp s) :=
  keeps_ite (fun _ => keeps_enterGuard) fun _ => keeps_endAttempt _

end
end Sys2Proof.Proofs.Kept

namespace Sys2Proof.Proofs.Kept

open Sys2Proof Sys2Proof.Machine Sys2Proof.Safety Sys2Proof.Laws

section
variable {m : Ghost} {s : State} {d : SideId}

/-! ### The settings snoop (R160, R183, R188) -/

theorem ringCount_le (n : Nat) : ringCount n ≤ 256 := by
  rw [ringCount]
  split
  next h =>
    have hpow : 2 ^ n ≤ 2 ^ 5 := Nat.pow_le_pow_right (by decide) h.2
    omega
  · exact Nat.zero_le _

theorem toNat_succ_sub (w v : Half) (h : (w - v).toNat ≤ 256) : (w + 1 - v).toNat = (w - v).toNat + 1 := by
  bv_omega

theorem recordInFlight_of_current {i : Injector} (h : currentRecord i = true) : recordInFlight i = true := by
  rw [currentRecord] at h
  rw [recordInFlight]
  split
  next b hb =>
    rw [hb] at h
    cases hk : b.kind <;> simp_all
  next hb => rw [hb] at h; simp at h

/-- A taken read index leaves room for a record in flight (R160). -/
theorem keeps_ringReadOp : Keeps m s m (ringReadOp s) := by
  refine keeps_ite (fun hok => ?_) fun _ => Keeps.refl m s
  refine keeps_ring (fun d => by cases d <;> rfl) rfl rfl rfl rfl fun _ => ?_
  simp only [readIndexOk, Bool.and_eq_true, Bool.or_eq_true, Bool.not_eq_true', decide_eq_true_eq] at hok
  obtain ⟨hfit, hroom⟩ := hok
  have hle := ringCount_le s.snoop.cfg.ringSize
  simp only [ringLaws, decide_eq_true_eq]
  by_cases hcur : currentRecord s.inj = true
  · have hin := hroom.resolve_left (by simp [recordInFlight_of_current hcur])
    rw [toNat_succ_sub _ _ (hfit.trans hle)] at hin
    have hcur' : currentRecord { s.inj with r := s.snoop.image.half 0x004, attn := s.inj.attn && s.snoop.image.half 0x004 != s.inj.w } = true := hcur
    rw [hcur', if_pos rfl]
    exact hin
  · have hcur' : ¬currentRecord { s.inj with r := s.snoop.image.half 0x004, attn := s.inj.attn && s.snoop.image.half 0x004 != s.inj.w } = true := hcur
    rw [if_neg hcur']
    exact hfit

theorem keeps_powerOnOp : Keeps m s m (powerOnOp d s).2 := by
  rw [powerOnOp]
  split
  next h =>
    intro L hL
    have hcounts : law L m (updHead d (fun h => { h with attempts := 0, cause := 0 }) s) := keeps_head rfl L hL
    refine law_enterPowering (fun e _ hin => ?_) (fun _ => .inl ?_) (fun _ => ?_) hcounts
    · simp [Side.inService, h.1, Health.inService] at hin
    · simpa using h.2
    · simp [h.1, Health.linkServed]
  · exact Keeps.refl m s

theorem keeps_powerOffOp (hm : m.handing = none) : Keeps m s m (powerOffOp d s).2 := by
  rw [powerOffOp]
  split
  next h =>
    have hoff : (s.side d).head.health ≠ .off := fun ho => by simp [ho, Health.canStop] at h
    exact ((keeps_sure hoff).trans (keeps_enterStopping (releaseKeeps_deferred d) hm List.mem_cons_self)).trans keeps_forget
  · exact Keeps.refl m s

theorem keeps_recoverOp (hm : m.handing = none) : Keeps m s m (recoverOp d s).2 := by
  rw [recoverOp]
  split
  next h =>
    have hoff : (s.side d).head.health ≠ .off := fun ho => by simp [ho, Health.canRecover] at h
    exact .after keeps_forget <| .after (keeps_enterRecovering (releaseKeeps_deferred d) hm List.mem_cons_self) <|
      .after (keeps_head rfl) (keeps_sure hoff)
  · exact Keeps.refl m s

theorem keeps_sideCommand {f : SideId → State → CmdResult × State} (hf : ∀ d, Keeps m s m (f d s).2) (arg : BitVec 16) :
    Keeps m s m (sideCommand f arg s).2 := by
  rw [sideCommand]
  split
  · exact hf _
  · split
    · exact hf _
    · exact Keeps.refl m s

theorem keeps_runCode (hm : m.handing = none) (code : Nat) (arg : BitVec 16) : Keeps m s m (runCode code arg s).2 := by
  rw [runCode]
  split
  · exact keeps_sideCommand (fun _ => keeps_powerOnOp) arg
  · split
    · exact keeps_sideCommand (fun _ => keeps_powerOffOp hm) arg
    · split
      · exact keeps_sideCommand (fun _ => keeps_recoverOp hm) arg
      · split
        · exact keeps_ackTable arg
        · exact Keeps.refl m s

theorem keeps_commandOp (hm : m.handing = none) : Keeps m s m (commandOp s) := by
  rw [commandOp, publishResult]
  exact .after (keeps_flagPage _) <| .after (keeps_snoop rfl rfl) (keeps_runCode hm _ _)

theorem keeps_when {f : State → State} (hf : ∀ t, Keeps m t m (f t)) (c : Bool) : Keeps m s m (when c f s) :=
  keeps_ite (fun _ => hf s) fun _ => Keeps.refl m s

theorem keeps_slotActions (hm : m.handing = none) (os : List Nat) (ns : List (Fin 6)) :
    Keeps m s m (slotActions os ns s) := by
  induction ns generalizing s with
  | nil => exact Keeps.refl m s
  | cons n rest ih => exact .after ih (keeps_when (fun _ => keeps_submitSlot hm n) _)

theorem keeps_snoopBeat (hm : m.handing = none) (off : Nat) (b : Beat) : Keeps m s m (snoopBeat off b s) := by
  rw [snoopBeat, snoopActions]
  exact .after (keeps_slotActions hm _ _) <| .after (keeps_when (fun _ => keeps_sideApply hm) _) <|
    .after (keeps_when (fun _ => keeps_sideApply hm) _) <| .after (keeps_when (fun _ => keeps_commandOp hm) _) <|
    .after (keeps_when (fun _ => keeps_ringReadOp) _) <| .after (keeps_when (fun _ => keeps_globalApplyOp) _) <|
    keeps_mergeOp off b

/-! ### Frames (R6, R7, R8, R14, R15) -/

/-- Replacing one element of a list moves its counts by that element alone. -/
theorem countP_listSet {α : Type} {l : List α} {i : Nat} (hi : i < l.length) (b : α) (q : α → Bool) :
    (l.set i b).countP q + (if q l[i] then 1 else 0) = l.countP q + if q b then 1 else 0 := by
  have hle : (if q l[i] then 1 else 0) ≤ l.countP q := List.boole_getElem_le_countP hi
  rw [List.countP_set hi]
  omega

theorem countP_set {i : Nat} (t : Table Buf 3) (hi : i < 3) (b : Buf) (q : Buf → Bool) :
    (t.set i b).list.countP q + (if q (t.get i .free) then 1 else 0) = t.list.countP q + if q b then 1 else 0 := by
  have hlen : i < t.list.length := by rw [t.len]; exact hi
  have hget : t.get i .free = t.list[i] := by rw [Table.get, List.getD_eq_getElem _ _ hlen]
  rw [hget]
  exact countP_listSet hlen b q

theorem buf_lt {t : Table Buf 3} {i : Nat} {b : Buf} (h : t.get i .free = b) (hb : b ≠ .free) : i < 3 := by
  by_contra hi
  rw [get_out t .free (by omega)] at h
  exact hb h.symm

theorem firstFree_spec {t : Table Buf 3} {n : Nat} (h : firstFree t = some n) : n < 3 ∧ t.get n .free = .free := by
  have hn : n < 3 := List.mem_range.mp (List.mem_of_find?_eq_some h)
  have hfree := List.find?_some h
  rw [get_default t .filling .free hn] at hfree
  exact ⟨hn, by simpa using hfree⟩

theorem picture_takeSnapshot {x : Side} (ht : toneLaws x = true) (hl : tileLaws x = true) (n : Nat) (now : Time) :
    toneLaws (startSide n now x) = true ∧ tileLaws (startSide n now x) = true := by
  simp only [toneLaws, tileLaws, Bool.and_eq_true] at ht hl ⊢
  obtain ⟨⟨htone, -⟩, hcfg⟩ := ht
  obtain ⟨⟨htiles, -⟩, hmin⟩ := hl
  refine ⟨⟨⟨htone, htone⟩, hcfg⟩, ⟨htiles, ?_⟩, hmin⟩
  refine map_all _ _ _ _ htiles fun t h => ?_
  simp only [tileOk, Bool.and_eq_true] at h
  exact h.1.1

/-- A frame starts in service, in a FREE buffer, where none is in progress. -/
theorem keeps_startFrame (hf : (s.side d).cap.fip = none) (hs : (s.side d).inService = true)
    (hh : 0 < (s.side d).cfg.cap.height) : Keeps m s m (startFrame d s) := by
  rw [startFrame]
  split
  next n hn =>
    obtain ⟨hlt, hfree⟩ := firstFree_spec hn
    refine keeps_side rfl (fun ht hl => picture_takeSnapshot ht hl n s.time) (fun h => ⟨?_, ?_, .inr (.inl hs)⟩)
      fun es o ho h => h.same_owner ho.symm
    · obtain ⟨hready, hshown, hfill⟩ := h.shape
      rw [hf] at hfill
      have hr := countP_set (s.side d).cap.bufs hlt .filling isReady
      have hw := countP_set (s.side d).cap.bufs hlt .filling isShown
      have hg := countP_set (s.side d).cap.bufs hlt .filling isFilling
      simp only [hfree, isReady, isShown, isFilling, Buf.code] at hr hw hg
      refine ⟨?_, ?_, ?_, ?_⟩
      · simpa [startSide] using hr.le.trans (by simpa using hready)
      · simpa [startSide] using hw.le.trans (by simpa using hshown)
      · simpa [startSide, hfill, isFilling, Buf.code] using hg
      · simp [startSide, freshFip, hlt]
    · simp [lineLaws, startSide, freshFip, hh]
  · exact Keeps.refl m s

end
end Sys2Proof.Proofs.Kept

namespace Sys2Proof.Proofs.Kept

open Sys2Proof Sys2Proof.Machine Sys2Proof.Safety Sys2Proof.Laws

section
variable {m : Ghost} {s : State} {d : SideId}

/-- The counts of a table in which the FILLING buffer was replaced. -/
theorem countP_set_filling {t : Table Buf 3} {i : Nat} (h : t.get i .free = .filling) (b : Buf) :
    (t.set i b).list.countP isReady = t.list.countP isReady + (if isReady b then 1 else 0) ∧
      (t.set i b).list.countP isShown = t.list.countP isShown + (if isShown b then 1 else 0) ∧
      (t.set i b).list.countP isFilling + 1 = t.list.countP isFilling + if isFilling b then 1 else 0 := by
  have hi : i < 3 := buf_lt h (by decide)
  have hr := countP_set t hi b isReady
  have hs := countP_set t hi b isShown
  have hf := countP_set t hi b isFilling
  rw [h] at hr hs hf
  exact ⟨hr, hs, hf⟩

/-- A frame in progress is in service, or its side's teardown is owed. -/
theorem BuffersOk.live {x : Side} {f : Fip} (h : BuffersOk m d x) (hf : x.cap.fip = some f) :
    d ∈ m.exempt ∨ x.inService = true :=
  h.free.imp_right fun h => h.resolve_right fun ⟨_, hn⟩ => by simp [hn] at hf

theorem keeps_rejectFrame {f : Fip} (hf : (s.side d).cap.fip = some f) : Keeps m s m (rejectFrame d f s) := by
  rw [rejectFrame]
  refine .after (keeps_flagPage _) (keeps_side rfl (toneTile_same rfl) (fun h => ⟨?_, by simp [lineLaws], ?_⟩)
    fun es o ho h => h.same_owner ho.symm)
  · obtain ⟨hready, hshown, hfill⟩ := h.shape
    rw [hf] at hfill
    obtain ⟨hr, hs, hg⟩ := countP_set_filling hfill.2 .free
    rw [hfill.1] at hg
    exact ⟨hr.le.trans (by simpa [isReady, Buf.code] using hready), hs.le.trans (by simpa [isShown, Buf.code] using hshown),
      by simpa [isFilling, Buf.code] using hg⟩
  · exact (h.live hf).imp_right Or.inl

theorem readyBuf_spec {t : Table Buf 3} {k : Nat} {info : FrameInfo} (h : readyBuf t = some (k, info)) :
    k < 3 ∧ t.get k .free = .ready info := by
  obtain ⟨i, hi, hk⟩ := List.exists_of_findSome?_eq_some h
  cases hb : t.get i .free <;> simp_all

theorem readyBuf_none {t : Table Buf 3} (h : readyBuf t = none) : t.list.countP isReady = 0 := by
  rw [List.countP_eq_zero]
  intro b hb hr
  obtain ⟨i, hi, rfl⟩ := List.mem_iff_getElem.mp hb
  have hlt : i < 3 := by rw [← t.len]; exact hi
  have hnone := List.findSome?_eq_none_iff.mp h i (List.mem_range.mpr hlt)
  have hget : t.get i .free = t.list[i] := by rw [Table.get, List.getD_eq_getElem _ _ hi]
  rw [hget] at hnone
  cases hc : t.list[i] <;> simp_all [isReady, Buf.code]

/-- The table of an accepted frame has the filled buffer READY, and no other (R15). -/
theorem acceptBufs_counts {t : Table Buf 3} {n : Nat} {info : FrameInfo} (hn : t.get n .free = .filling)
    (hr : t.list.countP isReady ≤ 1) :
    (acceptBufs n info t).list.countP isReady = 1 ∧ (acceptBufs n info t).list.countP isShown = t.list.countP isShown ∧
      (acceptBufs n info t).list.countP isFilling + 1 = t.list.countP isFilling := by
  rw [acceptBufs]
  split
  next k old hk =>
    obtain ⟨hlt, hold⟩ := readyBuf_spec hk
    have hne : k ≠ n := fun h => by simp [h, hn] at hold
    have hn' : (t.set k .free).get n .free = .filling := by rw [get_set_ne _ _ _ hne, hn]
    obtain ⟨hr', hs', hf'⟩ := countP_set_filling hn' (.ready info)
    have h1 := countP_set t hlt .free isReady
    have h2 := countP_set t hlt .free isShown
    have h3 := countP_set t hlt .free isFilling
    simp only [hold, isReady, isShown, isFilling, Buf.code] at h1 h2 h3 hr' hs' hf' hr ⊢
    simp at h1 h2 h3 hr' hs' hf'
    omega
  next hk =>
    have h0 := readyBuf_none hk
    obtain ⟨hr', hs', hf'⟩ := countP_set_filling hn (.ready info)
    simp only [isReady, isShown, isFilling, Buf.code] at hr' hs' hf' h0 ⊢
    simp at hr' hs' hf'
    omega

theorem keeps_acceptCapture {f : Fip} (hf : (s.side d).cap.fip = some f) (o : FrameOutcome) (sig : BitVec 32) (now : Time) :
    Keeps m s m (updCap d (acceptCapture f o sig now) s) := by
  refine keeps_side rfl (toneTile_same rfl) (fun h => ⟨?_, by simp [lineLaws, acceptCapture], (h.live hf).imp_right Or.inl⟩)
    fun es o ho h => h.same_owner ho.symm
  obtain ⟨hready, hshown, hfill⟩ := h.shape
  rw [hf] at hfill
  obtain ⟨hr, hs, hg⟩ := acceptBufs_counts
    (info := ⟨(s.side d).cap.frameNumber + 1, now, sig, o⟩) hfill.2 hready
  refine ⟨hr.le, hs.le.trans hshown, ?_⟩
  have h1 := hfill.1
  simp only [acceptCapture]
  omega

theorem tileOk_clear : tileOk Tile.clear = true := by decide

theorem tileOk_dimmed {n : Nat} (h : 16 ≤ n ∧ n ≤ 256) : tileOk ⟨.dimmed, 0, n⟩ = true := by simp [tileOk, inRange, h]

theorem tileOk_release {n hold : Nat} (h : 16 ≤ n ∧ n ≤ 256) (hh : hold ≤ 15) : tileOk ⟨.release, hold, n⟩ = true := by
  simp [tileOk, inRange, h, hh]

theorem tileOk_bounds {t : Tile} (h : tileOk t = true) : (16 ≤ t.gain ∧ t.gain ≤ 256) ∧ t.hold ≤ 15 := by
  simp only [tileOk, inRange, Bool.and_eq_true, decide_eq_true_eq] at h
  exact h.1

theorem stepDown_bounds {g : GlareCfg} (hg : 16 ≤ g.aMin ∧ g.aMin ≤ 256) {a : Nat} (ha : 16 ≤ a ∧ a ≤ 256) :
    16 ≤ stepDown g a ∧ stepDown g a ≤ 256 := by simp only [stepDown]; omega

theorem stepUp_bounds (g : GlareCfg) {a : Nat} (ha : 16 ≤ a ∧ a ≤ 256) : 16 ≤ stepUp g a ∧ stepUp g a ≤ 256 := by
  simp only [stepUp, Config.unity]; omega

theorem tileOk_onsetStep {g : GlareCfg} (hg : 16 ≤ g.aMin ∧ g.aMin ≤ 256) {hold : Nat} (hh : hold ≤ 15) :
    tileOk (onsetStep g hold) = true := by
  rw [onsetStep]
  split
  · exact tileOk_dimmed (stepDown_bounds hg (by decide))
  · simp [tileOk, inRange, hh, Config.unity]

theorem tileOk_releaseStep {a hold : Nat} (ha : 16 ≤ a ∧ a ≤ 256) (hh : hold ≤ 15) : tileOk (releaseStep a hold) = true := by
  rw [releaseStep]
  split
  · exact tileOk_clear
  · exact tileOk_release ha hh

theorem satAdd_le (top a b : Nat) : satAdd top a b ≤ top := Nat.min_le_left _ _

theorem tileOk_nightTile {g : GlareCfg} (hg : 16 ≤ g.aMin ∧ g.aMin ≤ 256) (n : Nat) {t : Tile} (h : tileOk t = true) :
    tileOk (nightTile g n t) = true := by
  obtain ⟨hgain, -⟩ := tileOk_bounds h
  rw [nightTile]
  split
  · split
    · exact tileOk_onsetStep hg (by decide)
    · exact tileOk_clear
  · split
    · exact tileOk_onsetStep hg (satAdd_le _ _ _)
    · exact tileOk_clear
  · split
    · exact tileOk_dimmed (stepDown_bounds hg hgain)
    · exact tileOk_release hgain (Nat.zero_le _)
  · split
    · exact tileOk_dimmed (stepDown_bounds hg hgain)
    · refine tileOk_releaseStep ?_ (satAdd_le _ _ _)
      split
      · exact stepUp_bounds g hgain
      · exact hgain

theorem tileOk_dayTile (g : GlareCfg) {t : Tile} (h : tileOk t = true) : tileOk (dayTile g t) = true := by
  obtain ⟨hgain, -⟩ := tileOk_bounds h
  rw [dayTile]
  split
  · exact tileOk_clear
  · exact tileOk_clear
  · exact tileOk_release hgain (Nat.zero_le _)
  · exact tileOk_releaseStep (stepUp_bounds g hgain) (satAdd_le _ _ _)

theorem tileOk_glareUpdate {g : GlareCfg} (hg : 16 ≤ g.aMin ∧ g.aMin ≤ 256) {t : Table Tile 128} (h : t.list.all tileOk = true)
    (r : Stats) : (glareUpdate g t r).list.all tileOk = true := by
  rw [glareUpdate]
  split
  · exact ofFn_all _ _ fun i _ => tileOk_nightTile hg _ (get_all _ _ _ _ h tileOk_clear)
  · exact map_all _ _ _ _ h fun t => tileOk_dayTile g

/-- The tone unit and the glare map act within L5 and L6 (R46, R66). -/
theorem keeps_curveAndTiles (r : Stats) :
    Keeps m s m (updSide d (fun x => curveAndTiles r { x with coll := { x.coll with acc := none, last := some r } }) s) := by
  refine keeps_side rfl (fun ht hl => ?_) (fun h => ⟨h.shape, h.lines, h.free⟩) fun es o ho h => h.same_owner ho.symm
  simp only [toneLaws, tileLaws, Bool.and_eq_true] at ht hl ⊢
  obtain ⟨⟨htone, hsnap⟩, hcfg⟩ := ht
  obtain ⟨⟨htiles, hgains⟩, hmin⟩ := hl
  have hbound : 16 ≤ (s.side d).cfg.glare.aMin ∧ (s.side d).cfg.glare.aMin ≤ 256 := by simpa [inRange] using hmin
  have hbounds := hcfg
  simp only [toneCfgOk, Bool.and_eq_true, decide_eq_true_eq] at hbounds
  obtain ⟨⟨⟨⟨hfloor, -⟩, halpha⟩, -⟩, -⟩ := hbounds
  exact ⟨⟨⟨ToneUnit.curveOk_toneUpdate htone hfloor halpha r, hsnap⟩, hcfg⟩, ⟨tileOk_glareUpdate hbound htiles r, hgains⟩,
    hmin⟩

theorem keeps_updExpo {f : Exposure → Exposure} (h : (f (s.side d).expo).request = (s.side d).expo.request) :
    Keeps m s m (updExpo d f s) := keeps_updSide ⟨rfl, rfl, by simp only [ownerOf, h], rfl⟩

theorem keeps_exposureCompletion (r : Stats) : Keeps m s m (exposureCompletion d r s) := by
  have hm16 : Keeps m s m (updExpo d (fun e => { e with m16 := meanOctave r }) s) := keeps_updExpo rfl
  simp only [exposureCompletion]
  refine keeps_ite (fun h => .after ?_ hm16) fun _ => keeps_ite (fun h => ?_) fun _ => .after (keeps_updExpo rfl) hm16
  · simp only [Bool.and_eq_true, Bool.not_eq_true'] at h
    obtain ⟨⟨⟨hserv, -⟩, -⟩, hreq⟩ := h
    rw [exposureActs, exposureStep]
    exact keeps_ite (fun _ => keeps_updExpo rfl) fun _ => keeps_ite (fun _ => keeps_queueExposure _ hreq hserv) fun _ =>
      Keeps.refl m _
  · simp only [Bool.and_eq_true, Bool.not_eq_true'] at h
    obtain ⟨⟨hserv, -⟩, hreq⟩ := h
    exact .after (keeps_queueExposure _ (by simpa using hreq) (by simpa [Side.inService] using hserv)) (.after (keeps_updExpo rfl) hm16)

theorem keeps_sceneCompletion (r : Stats) : Keeps m s m (sceneCompletion d r s) := by
  have hscene : ∀ n, Keeps m s m (updSide d (fun x => { x with scene := n }) s) := fun n => keeps_updSide ⟨rfl, rfl, rfl, rfl⟩
  exact keeps_ite (fun _ => hscene _) fun _ => .after keeps_reformCab (hscene _)

theorem keeps_handOff (r : Stats) : Keeps m s m (handOff d r s) :=
  .after (keeps_sceneCompletion r) <| .after (keeps_exposureCompletion r) (keeps_curveAndTiles r)

theorem keeps_freezeCheck (hm : m.handing = none) (sig : BitVec 32) : Keeps m s m (freezeCheck d sig s) := by
  have hsig : ∀ n, Keeps m s m (updCap d (fun c => { c with prevSig := some sig, identical := n }) s) := fun n => keeps_updCap rfl rfl
  exact keeps_ite (fun _ => .after (keeps_failRunning (releaseKeeps_id d) hm 2) <| .after (keeps_raiseCond _ _ _) (hsig _))
    fun _ => hsig _

/-! A completion's effects after the buffer table's leave the capture tracker, but where the freeze check fails the side. -/

theorem cap_queueExposure (v : Nat) : ((queueExposure d v s).side d).cap = (s.side d).cap := by
  simp [queueExposure]

theorem cap_exposureCompletion (r : Stats) : ((exposureCompletion d r s).side d).cap = (s.side d).cap := by
  simp only [exposureCompletion, exposureActs, exposureStep]
  split
  · split
    · simp
    · split
      · simp [cap_queueExposure]
      · simp
  · split <;> simp [cap_queueExposure]

theorem cap_sceneCompletion (r : Stats) : ((sceneCompletion d r s).side d).cap = (s.side d).cap := by
  simp only [sceneCompletion]
  split <;> simp

theorem cap_handOff (r : Stats) : ((handOff d r s).side d).cap = (s.side d).cap := by
  simp [handOff, cap_sceneCompletion, cap_exposureCompletion, curveAndTiles]

theorem cap_degrade (n : Nat) : ((degrade d n s).side d).cap = (s.side d).cap := by
  rw [degrade]
  split <;> simp

theorem cap_countRun : ((countRun d s).side d).cap = (s.side d).cap := by simp [countRun]

theorem cap_goodFrame : ((goodFrame d s).side d).cap = (s.side d).cap := by
  simp only [goodFrame]
  split <;> simp

theorem cap_headFrame (o : FrameOutcome) : ((headFrame d o s).side d).cap = (s.side d).cap := by
  simp only [headFrame]
  split
  · cases o with
    | complete => exact cap_goodFrame.trans cap_countRun
    | acceptedShort => exact (cap_degrade 4).trans cap_countRun
  · rfl

theorem fip_failRunning (code : Nat) (hf : (s.side d).cap.fip = none) :
    ((failRunning id d code s).side d).cap.fip = none := by
  rw [failRunning]
  split
  · obtain ⟨⟨htorn, -⟩, -⟩ := enterFailed_torn id d code s fun u _ _ => by simp [teardownRelease]
    exact htorn.2.1
  · exact hf

theorem fip_freezeCheck (sig : BitVec 32) (hf : (s.side d).cap.fip = none) :
    ((freezeCheck d sig s).side d).cap.fip = none := by
  simp only [freezeCheck]
  split
  · exact fip_failRunning 2 (by simpa using hf)
  · simpa using hf

/-- An accepted frame is no longer in progress (R15). -/
theorem fip_acceptFrame (f : Fip) (o : FrameOutcome) : ((acceptFrame d f o s).side d).cap.fip = none := by
  simp only [acceptFrame, side_flagPage]
  refine fip_freezeCheck _ ?_
  simp [cap_headFrame, cap_handOff, acceptCapture]

theorem keeps_acceptFrame {f : Fip} (hm : m.handing = none) (hf : (s.side d).cap.fip = some f) (o : FrameOutcome) :
    Keeps m s m (acceptFrame d f o s) := by
  have hshort : Keeps m s m (if o = .acceptedShort then raiseEvent .lineShortfall (scopeOf d) (BitVec.ofNat 32 f.lines) s else s) :=
    keeps_ite (fun _ => keeps_raiseEvent _ _ _) fun _ => Keeps.refl m s
  have hfip : ((if o = .acceptedShort then raiseEvent .lineShortfall (scopeOf d) (BitVec.ofNat 32 f.lines) s else s).side d).cap.fip =
      some f := by split <;> simp [hf]
  exact .after (keeps_flagPage _) <| .after (keeps_freezeCheck hm _) <| .after (keeps_headFrame o) <|
    .after (keeps_updCap rfl rfl) <| .after (keeps_handOff _) <| .after (keeps_acceptCapture hfip _ _ _) hshort

theorem fip_rejectFrame (f : Fip) : ((rejectFrame d f s).side d).cap.fip = none := by simp [rejectFrame]

/-- A short frame's event, and what it leaves. -/
theorem fip_raiseEvent (k : FaultKind) (sc : Scope) (det : BitVec 32) :
    ((raiseEvent k sc det s).side d).cap.fip = (s.side d).cap.fip := by simp

theorem keeps_truncateFrame {f : Fip} (hm : m.handing = none) (hf : (s.side d).cap.fip = some f) :
    Keeps m s m (truncateFrame d f s) := by
  simp only [truncateFrame]
  refine .after (releaseKeeps_deferred d m _ hm ?_) <| .after (keeps_orphanWrites d) <|
    .after (keeps_rejectFrame (by simpa using hf)) (keeps_raiseEvent _ _ _)
  simp [orphanWrites, fip_rejectFrame]

theorem keeps_completeFrame {f : Fip} (hm : m.handing = none) (hf : (s.side d).cap.fip = some f) :
    Keeps m s m (completeFrame d f s) := by
  rw [completeFrame]
  split
  next o _ => exact .after (releaseKeeps_deferred d m _ hm (fip_acceptFrame f o)) (keeps_acceptFrame hm hf o)
  next short _ =>
    have hshort : Keeps m s m (if short then raiseEvent .lineShortfall (scopeOf d) (BitVec.ofNat 32 f.lines) s else s) :=
      keeps_ite (fun _ => keeps_raiseEvent _ _ _) fun _ => Keeps.refl m s
    refine .after (releaseKeeps_deferred d m _ hm (fip_rejectFrame f)) (.after (keeps_rejectFrame ?_) hshort)
    split <;> simp [hf]

theorem keeps_tryComplete (hm : m.handing = none) : Keeps m s m (tryComplete d s) := by
  rw [tryComplete]
  split
  next f hf => exact keeps_ite (fun _ => keeps_completeFrame hm hf) fun _ => Keeps.refl m s
  · exact Keeps.refl m s

end
end Sys2Proof.Proofs.Kept

namespace Sys2Proof.Proofs.Kept

open Sys2Proof Sys2Proof.Machine Sys2Proof.Safety Sys2Proof.Laws

section
variable {m : Ghost} {s : State} {d : SideId}

/-! ### Lines (R8) -/

/-- A change of the frame in progress that leaves its buffer and its line counts. -/
theorem keeps_updFip {g : Fip → Fip} (h : ∀ f, ((g f).buf, (g f).lines, (g f).highest) = (f.buf, f.lines, f.highest)) :
    Keeps m s m (updFip d g s) :=
  keeps_updCap rfl (by rw [Option.map_map]; exact congrArg (Option.map · _) (funext h))

/-- A line start above the highest line counts within the frame's height. -/
theorem keeps_lineStarted {line : Nat} {f : Fip} (hf : (s.side d).cap.fip = some f)
    (hl : line < (s.side d).cfg.cap.height) : Keeps m s m (lineStarted d line f s) := by
  refine keeps_ite (fun _ => keeps_raiseEvent _ _ _) fun hnew => ?_
  rw [updFip, updCap]
  refine keeps_side rfl (toneTile_same rfl) (fun h => ⟨?_, ?_, h.free.imp_right (Or.imp_right ?_)⟩) fun es o ho h =>
    h.same_owner ho.symm
  · obtain ⟨hready, hshown, hfill⟩ := h.shape
    refine ⟨hready, hshown, ?_⟩
    rw [hf] at hfill
    simpa [hf] using hfill
  · have hlines := h.lines
    simp only [lineLaws, hf, Bool.and_eq_true, decide_eq_true_eq] at hlines
    simp only [lineLaws, hf, Option.map_some, Bool.and_eq_true, decide_eq_true_eq]
    omega
  · rintro ⟨-, hn⟩
    simp [hn] at hf

/-! ### Display frames (R88 to R91) -/

theorem isReady_swapBuf (b : Buf) : isReady (swapBuf b) = false := by cases b <;> rfl

theorem isShown_swapBuf (b : Buf) : isShown (swapBuf b) = isReady b := by cases b <;> rfl

theorem isFilling_swapBuf (b : Buf) : isFilling (swapBuf b) = isFilling b := by cases b <;> rfl

theorem countP_map_swapBuf (t : Table Buf 3) :
    (t.map swapBuf).list.countP isReady = 0 ∧ (t.map swapBuf).list.countP isShown = t.list.countP isReady ∧
      (t.map swapBuf).list.countP isFilling = t.list.countP isFilling := by
  have hmap : ∀ q : Buf → Bool, (t.map swapBuf).list.countP q = t.list.countP (q ∘ swapBuf) := fun q => List.countP_map
  refine ⟨?_, ?_, ?_⟩
  · rw [hmap, List.countP_eq_zero]
    exact fun b _ => by simp [isReady_swapBuf]
  · rw [hmap]
    exact List.countP_congr fun b _ => by simp [isShown_swapBuf]
  · rw [hmap]
    exact List.countP_congr fun b _ => by simp [isFilling_swapBuf]

theorem freeBufs_swapBuf : freeBufs.map swapBuf = freeBufs := by decide

theorem keeps_swapFrames : Keeps m s m (swapFrames d s) := by
  refine .after (keeps_clearCond _ _) (keeps_side rfl (toneTile_same rfl) (fun h => ⟨?_, h.lines, ?_⟩) fun es o ho h =>
    h.same_owner ho.symm)
  · obtain ⟨hready, -, hfill⟩ := h.shape
    obtain ⟨hr, hs, hg⟩ := countP_map_swapBuf (s.side d).cap.bufs
    refine ⟨hr.le.trans (Nat.zero_le 1), hs.le.trans hready, ?_⟩
    rcases hf : (s.side d).cap.fip with _ | f
    · rw [hf] at hfill
      exact hg.trans hfill
    · rw [hf] at hfill
      refine ⟨hg.trans hfill.1, ?_⟩
      rw [get_map _ _ .free (buf_lt hfill.2 (by decide)), hfill.2]
      rfl
  · refine h.free.imp_right (Or.imp_right fun ⟨hb, hf⟩ => ⟨?_, hf⟩)
    simp only [hb, freeBufs_swapBuf]

theorem keeps_repeatFrame : Keeps m s m (repeatFrame d s) := by
  have hcount : Keeps m s m (updDisp d (fun p => { p with repeats := satAdd 255 (s.side d).disp.repeats 1 }) s) := keeps_updDisp rfl
  exact keeps_ite (fun _ => .after (keeps_degrade 5) (.after (keeps_raiseCond _ _ _) hcount)) fun _ => hcount

theorem keeps_swapOrRepeat : Keeps m s m (swapOrRepeat d s) :=
  keeps_ite (fun _ => keeps_swapFrames) fun _ => keeps_ite (fun _ => keeps_repeatFrame) fun _ => Keeps.refl m s

theorem keeps_ageCheck : Keeps m s m (ageCheck d s) := by
  rw [ageCheck]
  split
  next n f _ =>
    have hage : Keeps m s m (updDisp d (fun p => { p with lastAge := s.time - f.completed }) s) := keeps_updDisp rfl
    exact keeps_ite (fun _ => .after (keeps_degrade 6) (.after (keeps_raiseEvent _ _ _) hage)) fun _ => hage
  · exact Keeps.refl m s

theorem keeps_restartDisplay : Keeps m s m (restartDisplay d s) :=
  keeps_ite (fun _ => .after (keeps_clearCond _ _) (keeps_updDisp rfl)) fun _ => Keeps.refl m s

theorem keeps_frameStart : Keeps m s m (frameStart d s) :=
  .after keeps_restartDisplay <| .after keeps_ageCheck keeps_swapOrRepeat

/-! ### Room in the memory path (R171) -/

/-- Room kept for a write address and for a read address. -/
def withRoom (w r : Nat) : Ghost := { Ghost.none with writeRoom := w, readRoom := r }

theorem withRoom_none : withRoom 0 0 = Ghost.none := rfl

/-- Room taken or given is seen by the memory path's law alone. -/
theorem law_room {L : LawId} {w r w' r' : Nat} (hp : L ≠ .path) : law L (withRoom w r) s → law L (withRoom w' r') s := by
  cases L with
  | path => exact absurd rfl hp
  | link =>
    exact fun h => ⟨h.slots, h.probes, h.exposures, h.off, h.sure, h.served, h.probing, h.exposing⟩
  | buffers e => exact fun h => ⟨h.shape, h.lines, h.free⟩
  | _ => exact id

/-- A change of the memory path with room taken or given. -/
theorem keeps_room {w r w' r' : Nat} {f : Path → Path}
    (h : law .path (withRoom w r) s → law .path (withRoom w' r') (updPath f s))
    (hr : (f s.path).reads = s.path.reads) : Keeps (withRoom w r) s (withRoom w' r') (updPath f s) := by
  refine keeps_but .path (fun L hL => ?_) (fun L => law_room) h
  cases L with
  | path => exact absurd rfl hL
  | display e => exact ⟨rfl, hr⟩
  | _ => simp [sameTo, ringView, ownersOf]

end
end Sys2Proof.Proofs.Kept

namespace Sys2Proof.Proofs.Kept

open Sys2Proof Sys2Proof.Machine Sys2Proof.Safety Sys2Proof.Laws

section
variable {s : State} {d : SideId}

/-! ### Write addresses (R3 to R13, R171) -/

/-- The room of one write address. -/
abbrev writeGhost : Ghost := withRoom 1 0

/-- A write burst that is taken uses the room kept for it. -/
theorem keeps_takeWrite (b : Burst) (owner : WOwner) (route : WRoute) :
    Keeps writeGhost s Ghost.none (takeWrite b owner route s) := by
  refine keeps_room (w' := 0) (r' := 0) (fun h => ?_) rfl
  simp only [law, withRoom, updPath_path, List.length_append, List.length_singleton] at h ⊢
  omega

theorem keeps_holdWrite (b : Burst) :
    Keeps writeGhost s Ghost.none (updPath (fun p => { p with heldWrite := some (d, b) }) s) := by
  refine keeps_room (w' := 0) (r' := 0) (fun h => ?_) rfl
  have hle := held_le s.path.heldWrite
  simp only [law, withRoom, updPath_path, held_some] at h ⊢
  omega

theorem keeps_takeAbsorbed (b : Burst) : Keeps writeGhost s Ghost.none (takeAbsorbed b s) := keeps_takeWrite b _ _

theorem keeps_takePass (b : Burst) : Keeps writeGhost s Ghost.none (takePass b s) := keeps_takeWrite b _ _

theorem keeps_takeIntoFrame (off : Nat) (b : Burst) : Keeps writeGhost s Ghost.none (takeIntoFrame d off b s) := by
  rw [takeIntoFrame]
  split
  · rw [takeMaterial]
    exact .after (keeps_takeWrite b _ _) (keeps_updFip fun _ => rfl)
  · exact keeps_takeAbsorbed b

theorem keeps_takeOrphan (off : Nat) (b : Burst) : Keeps writeGhost s Ghost.none (takeOrphan d off b s) :=
  .after (keeps_takeAbsorbed b) (keeps_raiseEvent _ _ _)

theorem lineStart_lt {c : CaptureCfg} {off l : Nat} (h : lineStart c off = some l) : l < c.height := by
  rw [lineStart] at h
  split at h
  next hc => exact Option.some.inj h ▸ hc.2
  · cases h

/-- A write that is not held is taken, where the handling after a truncation takes it. -/
theorem keeps_captureWrite {again : Burst → State → State} (hagain : ∀ b t, Keeps writeGhost t Ghost.none (again b t))
    (off : Nat) (b : Burst) : Keeps writeGhost s Ghost.none (captureWrite again d off b s) := by
  simp only [captureWrite]
  refine keeps_ite (fun _ => keeps_takeAbsorbed b) fun hin => ?_
  have hserv : (s.side d).inService = true := by
    simp only [Bool.or_eq_true, not_or, Bool.not_eq_true', Bool.not_eq_false] at hin
    exact hin.1
  split
  next f _ hf => exact .after (hagain b _) (keeps_truncateFrame rfl hf)
  next hl hf => exact .after (keeps_takeIntoFrame off b) (keeps_startFrame hf hserv (lineStart_lt hl))
  next n f hl hf => exact .after (keeps_takeIntoFrame off b) (keeps_lineStarted hf (lineStart_lt hl))
  · exact keeps_takeOrphan off b
  · exact keeps_takeIntoFrame off b
  · exact keeps_takeOrphan off b

theorem keeps_handleWrite {again : Burst → State → State} (hagain : ∀ b t, Keeps writeGhost t Ghost.none (again b t))
    (b : Burst) : Keeps writeGhost s Ghost.none (handleWrite again b s) := by
  rw [handleWrite]
  split
  · exact keeps_takePass b
  · exact .after (keeps_takePass b) (keeps_raiseEvent _ _ _)
  · exact .after (keeps_takeAbsorbed b) (keeps_raiseEvent _ _ _)
  · exact keeps_ite (fun _ => keeps_holdWrite b) fun _ => keeps_captureWrite hagain _ b

theorem keeps_arriveWrite (b : Burst) : Keeps writeGhost s Ghost.none (arriveWrite b s) :=
  keeps_handleWrite (fun b _ => keeps_handleWrite (fun b _ => keeps_takeAbsorbed b) b) b

/-- Fewer than 32 bursts await their response and no address is held: there is room for one more. -/
theorem keeps_roomOfFree (h : writeFree s.path = true) : Keeps Ghost.none s writeGhost s := by
  obtain ⟨-, hheld, hlen⟩ := (writeFree_iff s).mp h
  refine keeps_room (w := 0) (r := 0) (f := fun p => p) (fun hp => ?_) rfl
  simp only [law, withRoom, updPath_path, hheld, held_none] at hp ⊢
  omega

theorem keeps_offerWrite (b : Burst) : Keeps Ghost.none s Ghost.none (offerWrite b s) :=
  keeps_ite (fun h => .after (keeps_arriveWrite b) (keeps_roomOfFree h)) fun _ => Keeps.refl _ s

/-- A held address keeps the room it is taken with. -/
theorem keeps_unholdWrite {p : SideId × Burst} (h : s.path.heldWrite = some p) :
    Keeps Ghost.none s writeGhost (updPath (fun p => { p with heldWrite := none }) s) := by
  refine keeps_room (w := 0) (r := 0) (fun hp => ?_) rfl
  simp only [law, withRoom, updPath_path, h, held_none, held_some] at hp ⊢
  omega

theorem keeps_heldWriteOp : Keeps Ghost.none s Ghost.none (heldWriteOp s) := by
  rw [heldWriteOp]
  split
  next b h => exact .after (keeps_arriveWrite b) (keeps_unholdWrite h)
  · exact Keeps.refl _ s

end

section
variable {m : Ghost} {s : State} {d : SideId}

/-! ### Write data (R172, R175, R176) -/

theorem keeps_observeBeat (hm : m.handing = none) (b : Burst) (n : Nat) (bt : Beat) :
    Keeps m s m (observeBeat b n bt s) :=
  keeps_ite (fun _ => keeps_snoopBeat hm _ _) fun _ => Keeps.refl m s

theorem keeps_passBeat (hm : m.handing = none) (c : CurWrite) (bt : Beat) : Keeps m s m (passBeat c bt s) :=
  .after (keeps_observeBeat hm _ _ _) <| .after (keeps_sendDown _) <|
    keeps_ite (fun _ => .after (keeps_updPath rfl rfl) (keeps_updCurEntry _)) fun _ => keeps_updPath rfl rfl

theorem keeps_dropBeat (c : CurWrite) : Keeps m s m (dropBeat c s) := by
  have hcount : Keeps m s m (updPath (fun p => { p with cur := some { c with taken := c.taken + 1 } }) s) := keeps_updPath rfl rfl
  exact keeps_ite (fun _ => .after keeps_answerCur hcount) fun _ => hcount

theorem keeps_notePartial (o : Option Nat) : Keeps m s m (notePartial d o s) := by
  simp only [notePartial]
  split
  · exact keeps_raiseEvent _ _ _
  · exact Keeps.refl m s

theorem keeps_finishCapture (c : CurWrite) (off : Nat) (beats : List Beat) :
    Keeps m s m (finishCapture c d off beats s) := by
  simp only [finishCapture]
  exact .after (keeps_updPath rfl rfl) <| .after (keeps_updFip fun _ => rfl) <| .after (keeps_notePartial _) (keeps_updColl rfl)

theorem keeps_collectBeat (c : CurWrite) (off : Nat) (bt : Beat) : Keeps m s m (collectBeat c d off bt s) :=
  keeps_ite (fun _ => keeps_finishCapture _ _ _) fun _ => keeps_updPath rfl rfl

theorem keeps_takeBeat (hm : m.handing = none) (bt : Beat) : Keeps m s m (takeBeat bt s) := by
  rw [takeBeat]
  split
  · refine keeps_ite (fun _ => Keeps.refl m s) fun _ => ?_
    split
    · exact keeps_ite (fun _ => keeps_passBeat hm _ bt) fun _ => Keeps.refl m s
    · exact keeps_dropBeat _
    · exact keeps_ite (fun _ => keeps_dropBeat _) fun _ => keeps_collectBeat _ _ bt
  · exact Keeps.refl m s

/-! ### Downstream write responses (R11, R176, R179) -/

theorem keeps_frameAnswered (hm : m.handing = none) (error whole : Bool) :
    Keeps m s m (frameAnswered d error whole s) := by
  have hcount : Keeps m s m (updFip d (fun f =>
      { f with writeError := f.writeError || error, outstanding := if whole then f.outstanding - 1 else f.outstanding }) s) :=
    keeps_updFip fun _ => rfl
  exact keeps_ite (fun _ => .after (keeps_tryComplete hm) hcount) fun _ => hcount

theorem keeps_captureAnswered (hm : m.handing = none) (live : Bool) (e : WEntry) (r : Resp) :
    Keeps m s m (captureAnswered d live e r s) := by
  have herror : Keeps m s m (if r.isError && e.err.isNone then raiseEvent .downstreamError .global (e.parts.headD 0) s else s) :=
    keeps_ite (fun _ => keeps_raiseEvent _ _ _) fun _ => Keeps.refl m s
  exact keeps_ite (fun _ => .after (keeps_frameAnswered hm _ _) herror) fun _ => herror

theorem keeps_sentWhole (id : BitVec 8) : Keeps m s m (sentWhole id s) :=
  keeps_ite (fun _ => keeps_endTail) fun _ => Keeps.refl m s

theorem keeps_writeResponseOp (hm : m.handing = none) (id : BitVec 8) (r : Resp) :
    Keeps m s m (writeResponseOp id r s) := by
  rw [writeResponseOp]
  split
  next n _ =>
    split
    next e _ =>
      have htaken : Keeps m s m
          (releaseWrites (sentWhole id (updPath (fun p => { p with writes := p.writes.set n (e.take r) }) s))) :=
        .after keeps_releaseWrites <| .after (keeps_sentWhole id) (keeps_updPath (by simp only [pathView, List.length_set]) rfl)
      split
      · exact htaken
      · exact htaken
      · exact htaken.trans (keeps_captureAnswered hm _ _ _)
    · exact Keeps.refl m s
  · exact Keeps.refl m s

end
end Sys2Proof.Proofs.Kept

namespace Sys2Proof.Proofs.Kept

open Sys2Proof Sys2Proof.Machine Sys2Proof.Safety Sys2Proof.Laws

section
variable {s : State} {d : SideId}

/-! ### The order list of reads (R86, R178) -/

theorem length_drainReads (rs : List REntry) (blocked : List (BitVec 8)) :
    (drainReads rs blocked).2.length ≤ rs.length := by
  induction rs generalizing blocked with
  | nil => simp [drainReads]
  | cons e rest ih =>
    have h1 := ih blocked
    have h2 := ih (e.id :: blocked)
    rw [drainReads]
    split
    · simpa using h1
    · split
      · simp only [List.length_cons]; omega
      · simpa using h2

theorem countsFor_kept (d : SideId) (e : REntry) (k : List RBeat) : countsFor d { e with kept := k } = countsFor d e := rfl

theorem countsFor_complete {e : REntry} (h : e.complete = true) : countsFor d e = false := by simp [countsFor, h]

/-- The reads that leave the order list are complete, and counted no more. -/
theorem countP_drainReads (d : SideId) (rs : List REntry) (blocked : List (BitVec 8)) :
    (drainReads rs blocked).2.countP (countsFor d) = rs.countP (countsFor d) := by
  induction rs generalizing blocked with
  | nil => simp [drainReads]
  | cons e rest ih =>
    rw [drainReads]
    split
    · simp [List.countP_cons, ih]
    · split
      next hc => simp [ih, countsFor_complete hc]
      · rw [List.countP_cons, List.countP_cons, ih, countsFor_kept]

theorem countP_releaseReads (d : SideId) (s : State) :
    (releaseReads s).path.reads.countP (countsFor d) = s.path.reads.countP (countsFor d) := by
  simp [releaseReads, countP_drainReads]

/-- A change of the order list of reads, its room taken or given: the laws but the displays'. -/
theorem law_reads {L : LawId} {w r w' r' : Nat} {t : State} (hd : ∀ e, L ≠ .display e)
    (hsame : (∀ d, t.side d = s.side d) ∧ t.link = s.link ∧ t.faults = s.faults ∧ t.inj = s.inj ∧ t.snoop = s.snoop)
    (hp : law .path (withRoom w r) s → law .path (withRoom w' r') t) :
    law L (withRoom w r) s → law L (withRoom w' r') t := by
  obtain ⟨hs, hl, hf, hi, hn⟩ := hsame
  cases L with
  | path => exact hp
  | display e => exact absurd rfl (hd e)
  | _ =>
    refine fun h => law_room (w := w) (r := r) nofun (law_of_same ?_ h)
    simp [sameTo, ringView, ownersOf, hs, hl, hf, hi, hn]

/-! ### Read addresses (R12, R84, R88, R171) -/

/-- The room of one read address. -/
abbrev readGhost : Ghost := withRoom 0 1

theorem path_takeRead (e : REntry) (ms : List DownMsg) (h : law .path readGhost s) :
    law .path Ghost.none (takeRead e ms s) := by
  have hlen := length_drainReads (s.path.reads ++ [e]) []
  simp only [List.length_append, List.length_singleton] at hlen
  simp only [law, withRoom, takeRead, releaseReads, sendUp_frame, updPath_path, sendDown_frame, Ghost.none] at h ⊢
  omega

theorem law_takeRead {L : LawId} (e : REntry) (ms : List DownMsg) (hd : ∀ d, L ≠ .display d) :
    law L readGhost s → law L Ghost.none (takeRead e ms s) :=
  law_reads (w' := 0) (r' := 0) hd (by simp [takeRead]) (path_takeRead e ms)

theorem countP_takeRead (e : REntry) (ms : List DownMsg) :
    (takeRead e ms s).path.reads.countP (countsFor d) =
      s.path.reads.countP (countsFor d) + if countsFor d e then 1 else 0 := by
  simp [takeRead, countP_releaseReads, List.countP_append, List.countP_singleton]

theorem side_takeRead (e : REntry) (ms : List DownMsg) : (takeRead e ms s).side d = s.side d := by simp [takeRead]

/-- A read that no display counts. -/
theorem keeps_takeRead {e : REntry} (ms : List DownMsg) (he : ∀ d, countsFor d e = false) :
    Keeps readGhost s Ghost.none (takeRead e ms s) := by
  intro L hL
  cases L with
  | display d => simpa [law, countP_takeRead, side_takeRead, he] using hL
  | _ => exact law_takeRead e ms nofun hL

theorem keeps_passRead (b : Burst) : Keeps readGhost s Ghost.none (passRead b s) :=
  keeps_takeRead _ fun d => by simp [countsFor]

theorem keeps_zeroRead (b : Burst) : Keeps readGhost s Ghost.none (zeroRead b s) :=
  keeps_takeRead _ fun d => by simp [countsFor]

theorem keeps_captureRead (off : Nat) (b : Burst) : Keeps readGhost s Ghost.none (captureRead d off b s) := by
  rw [captureRead]
  split
  · exact keeps_takeRead _ fun e => by simp [countsFor]
  · exact keeps_zeroRead b

/-- A side's display is seen by the displays' laws alone. -/
theorem law_updDisp {L : LawId} {m : Ghost} (f : Display → Display) (hd : ∀ e, L ≠ .display e) :
    law L m s → law L m (updDisp d f s) := by
  have hside : ∀ e, ∃ p, (updDisp d f s).side e = { s.side e with disp := p } := by
    intro e
    rcases eq_or_other d e with rfl | rfl
    · exact ⟨_, side_updDisp _ _ _⟩
    · exact ⟨_, side_updDisp_other _ _ _⟩
  refine law_of_same ?_
  cases L with
  | display e => exact absurd rfl (hd e)
  | picture e => obtain ⟨p, hp⟩ := hside e; rw [sameTo, hp]; rfl
  | buffers e => obtain ⟨p, hp⟩ := hside e; rw [sameTo, hp]; rfl
  | link => exact ⟨by simp, fun e => by obtain ⟨p, hp⟩ := hside e; rw [ownersOf, hp]; rfl⟩
  | _ => simp [sameTo, ringView]

/-- A counted display read is one more outstanding read of its side (R86). -/
theorem keeps_countedRead (b : Burst) (a : Addr) :
    Keeps readGhost s Ghost.none
      (redirectRead (.display d true) b a (updDisp d (fun p => { p with outstanding := p.outstanding + 1 }) s)) := by
  intro L hL
  cases L with
  | display e =>
    have hcomplete : ¬b.len ≤ 0 := by simp [Burst.len]
    simp only [law, redirectRead, countP_takeRead, side_takeRead, updDisp_frame] at hL ⊢
    rcases eq_or_other d e with rfl | rfl
    · simp [countsFor, REntry.complete, hcomplete, hL]
    · simpa [countsFor] using hL
  | _ => exact law_takeRead _ _ nofun (law_updDisp _ nofun hL)

theorem keeps_serveDisplay (off : Nat) (b : Burst) : Keeps readGhost s Ghost.none (serveDisplay d off b s) := by
  rw [serveDisplay]
  split
  next a counted _ =>
    cases counted with
    | true => exact keeps_countedRead b a
    | false => exact keeps_takeRead _ fun e => by simp [countsFor]
  · exact keeps_zeroRead b

theorem keeps_holdRead (b : Burst) :
    Keeps readGhost s Ghost.none (updPath (fun p => { p with heldRead := some (d, b) }) s) := by
  refine keeps_room (w' := 0) (r' := 0) (fun h => ?_) rfl
  have hle := held_le s.path.heldRead
  simp only [law, withRoom, updPath_path, held_some] at h ⊢
  omega

theorem keeps_displayRead (off : Nat) (b : Burst) : Keeps readGhost s Ghost.none (displayRead d off b s) :=
  keeps_ite (fun _ => keeps_ite (fun _ => keeps_holdRead b) fun _ => .after (keeps_serveDisplay _ b) keeps_frameStart)
    fun _ => keeps_serveDisplay off b

theorem keeps_arriveRead (b : Burst) : Keeps readGhost s Ghost.none (arriveRead b s) := by
  rw [arriveRead]
  split
  · exact keeps_passRead b
  · exact .after (keeps_passRead b) (keeps_raiseEvent _ _ _)
  · exact keeps_captureRead _ b
  · exact keeps_displayRead _ b

/-- Fewer than 32 bursts await their data and no address is held: there is room for one more. -/
theorem keeps_readRoomOfFree (h : readFree s.path = true) : Keeps Ghost.none s readGhost s := by
  obtain ⟨hheld, hlen⟩ := (readFree_iff s).mp h
  refine keeps_room (w := 0) (r := 0) (f := fun p => p) (fun hp => ?_) rfl
  simp only [law, withRoom, updPath_path, hheld, held_none] at hp ⊢
  omega

/-- A held frame start keeps the room it is taken with. -/
theorem keeps_unholdRead {p : SideId × Burst} (h : s.path.heldRead = some p) :
    Keeps Ghost.none s readGhost (updPath (fun p => { p with heldRead := none }) s) := by
  refine keeps_room (w := 0) (r := 0) (fun hp => ?_) rfl
  simp only [law, withRoom, updPath_path, h, held_none, held_some] at hp ⊢
  omega

theorem keeps_heldReadOp : Keeps Ghost.none s Ghost.none (heldReadOp s) := by
  rw [heldReadOp]
  split
  next b h => exact .after (keeps_arriveRead b) (keeps_unholdRead h)
  · exact Keeps.refl _ s

/-! ### Read data (R12, R86, R179) -/

theorem keeps_readError {m : Ghost} (e : REntry) (r : Resp) : Keeps m s m (readError e r s) := by
  have herror : Keeps m s m (if r.isError && !e.errored then raiseEvent .downstreamError .global e.partAddr s else s) :=
    keeps_ite (fun _ => keeps_raiseEvent _ _ _) fun _ => Keeps.refl m s
  rw [readError]
  split
  · exact Keeps.refl m s
  · exact Keeps.refl m s
  · exact herror
  · exact herror

theorem readError_same (e : REntry) (r : Resp) :
    (readError e r s).path = s.path ∧ ∀ d, (readError e r s).side d = s.side d := by
  rw [readError]
  split
  · exact ⟨rfl, fun _ => rfl⟩
  · exact ⟨rfl, fun _ => rfl⟩
  · split <;> simp
  · split <;> simp

/-- The order list with a beat taken by its entry `n`. -/
def beatTaken (n : Nat) (e : REntry) (data : BitVec 64) (r : Resp) (s : State) : State :=
  releaseReads (updPath (fun p => { p with reads := p.reads.set n (e.take data r) }) s)

theorem path_beatTaken {m : Ghost} {n : Nat} {e : REntry} (data : BitVec 64) (r : Resp) (h : law .path m s) :
    law .path m (beatTaken n e data r s) := by
  have hlen := length_drainReads (s.path.reads.set n (e.take data r)) []
  rw [List.length_set] at hlen
  simp only [law, beatTaken, releaseReads, sendUp_frame, updPath_path] at h ⊢
  omega

theorem law_beatTaken {L : LawId} {n : Nat} {e : REntry} (data : BitVec 64) (r : Resp) (hd : ∀ d, L ≠ .display d) :
    law L Ghost.none s → law L Ghost.none (beatTaken n e data r s) :=
  law_reads (w := 0) (r := 0) (w' := 0) (r' := 0) hd (by simp [beatTaken]) (path_beatTaken data r)

theorem countsFor_take (e : REntry) (data : BitVec 64) (r : Resp) :
    countsFor d (e.take data r) = (decide (e.owner = .display d true) && !decide (e.total ≤ e.got + 1)) := rfl

/-- An entry whose last beat has come is counted no more. -/
theorem countP_beatTaken {n : Nat} {e : REntry} (he : s.path.reads[n]? = some e) (hc : e.complete = false)
    (data : BitVec 64) (r : Resp) :
    (beatTaken n e data r s).path.reads.countP (countsFor d) +
      (if e.owner = .display d true ∧ e.total ≤ e.got + 1 then 1 else 0) = s.path.reads.countP (countsFor d) := by
  obtain ⟨hn, rfl⟩ := List.getElem?_eq_some_iff.mp he
  have hset := countP_listSet hn (s.path.reads[n].take data r) (countsFor d)
  have hold : countsFor d s.path.reads[n] = decide (s.path.reads[n].owner = .display d true) := by simp [countsFor, hc]
  rw [hold, countsFor_take] at hset
  simp only [beatTaken, countP_releaseReads, updPath_path]
  by_cases ho : s.path.reads[n].owner = .display d true
  · by_cases ht : s.path.reads[n].total ≤ s.path.reads[n].got + 1 <;> simpa [ho, ht] using hset
  · simpa [ho] using hset

theorem law_readDone {L : LawId} {m : Ghost} (e : REntry) (hd : ∀ d, L ≠ .display d) :
    law L m s → law L m (readDone e s) := by
  rw [readDone]
  split
  · split
    · exact law_updDisp _ hd
    · exact id
  all_goals exact id

theorem outstanding_readDone (e : REntry) :
    ((readDone e s).side d).disp.outstanding =
      (s.side d).disp.outstanding - if e.owner = .display d true ∧ e.total ≤ e.got + 1 then 1 else 0 := by
  rw [readDone]
  split
  next g ho =>
    rcases eq_or_other g d with rfl | rfl
    · by_cases ht : e.total ≤ e.got + 1 <;> simp [ho, ht]
    · by_cases ht : e.total ≤ e.got + 1 <;> simp [ho, ht]
  all_goals simp [*]

/-- A beat of a counted display read is taken: its side's count follows the order list (R86). -/
theorem keeps_takeReadBeat {n : Nat} {e : REntry} (he : s.path.reads[n]? = some e) (hc : e.complete = false)
    (data : BitVec 64) (r : Resp) :
    Keeps Ghost.none s Ghost.none (readDone e (readError e r (beatTaken n e data r s))) := by
  intro L hL
  cases L with
  | display d =>
    obtain ⟨hpath, hside⟩ := readError_same (s := beatTaken n e data r s) e r
    have hcount := countP_beatTaken (d := d) he hc data r
    have hreads : (readDone e (readError e r (beatTaken n e data r s))).path = (beatTaken n e data r s).path := by
      rw [← hpath, readDone]
      split
      · split <;> simp
      all_goals rfl
    have hsame : (beatTaken n e data r s).side d = s.side d := by simp [beatTaken]
    simp only [law, outstanding_readDone, hside, hsame, hreads] at hL ⊢
    omega
  | _ => exact law_readDone e nofun (keeps_readError e r _ (law_beatTaken data r nofun hL))

theorem keeps_readDataOp (id : BitVec 8) (data : BitVec 64) (r : Resp) :
    Keeps Ghost.none s Ghost.none (readDataOp id data r s) := by
  rw [readDataOp]
  split
  next n hn =>
    split
    next e he =>
      refine keeps_takeReadBeat he ?_ data r
      obtain ⟨hlt, htarget, -⟩ := List.findIdx?_eq_some_iff_getElem.mp hn
      obtain ⟨-, rfl⟩ := List.getElem?_eq_some_iff.mp he
      simp only [Bool.and_eq_true, Bool.not_eq_true'] at htarget
      exact htarget.2
    · exact Keeps.refl _ s
  · exact Keeps.refl _ s

end
end Sys2Proof.Proofs.Kept

namespace Sys2Proof.Proofs.Kept

open Sys2Proof Sys2Proof.Machine Sys2Proof.Safety Sys2Proof.Laws

section
variable {m : Ghost} {s : State} {d : SideId}

/-! ### The injector's issues (R160, R162, R163, R165) -/

/-- Where the ring has room, a record in flight fits (R160). -/
theorem keeps_issueRecord (hroom : ringRoom s = true) (kind : InjKind) (fs : List FieldVal) :
    Keeps m s m (issueRecord kind fs s) := by
  refine keeps_ring (by simp [issueRecord, issueBurst]) (by simp [issueRecord, issueBurst])
    (by simp [issueRecord, issueBurst]) (by simp [issueRecord, issueBurst]) (by simp [issueRecord, issueBurst]) fun _ => ?_
  have hw : (issueRecord kind fs s).inj.w = s.inj.w := by simp [issueRecord, issueBurst]
  have hr : (issueRecord kind fs s).inj.r = s.inj.r := by simp [issueRecord, issueBurst]
  have hc : (issueRecord kind fs s).snoop = s.snoop := by simp [issueRecord, issueBurst]
  rw [ringRoom, decide_eq_true_eq] at hroom
  rw [ringLaws, decide_eq_true_eq, hw, hr, hc]
  split <;> omega

theorem keeps_clearLost : Keeps m s m { s with faults := { s.faults with lost := 0 } } := by
  refine keeps_faults (fun d => by cases d <;> rfl) rfl rfl rfl rfl id fun h => ?_
  rw [tableLaws_iff] at h ⊢
  exact ⟨h.1, Nat.zero_le _⟩

theorem keeps_dropReport {r : Report} {rest : List Report} (h : s.faults.queue = r :: rest) :
    Keeps m s m { s with faults := { s.faults with queue := rest } } := by
  refine keeps_faults (fun d => by cases d <;> rfl) rfl rfl rfl rfl (fun hq => ?_) id
  simp only [queueLaws, h, ranked, List.length_cons, Bool.and_eq_true, decide_eq_true_eq] at hq ⊢
  obtain ⟨hlen, -, hrest⟩ := hq
  exact ⟨by omega, hrest⟩

theorem keeps_issueRing (hroom : ringRoom s = true) : Keeps m s m (issueRing s) := by
  refine keeps_ite (fun _ => ?_) fun _ => ?_
  · have h0 : ringRoom { s with faults := { s.faults with lost := 0 } } = true := hroom
    exact .after (keeps_issueRecord h0 _ _) keeps_clearLost
  · split
    next r rest h =>
      have h0 : ringRoom { s with faults := { s.faults with queue := rest } } = true := hroom
      exact .after (keeps_issueRecord h0 _ _) (keeps_dropReport h)
    · exact Keeps.refl m s

/-- A ring without a record in flight keeps its law. -/
theorem ringLaws_noRecord {t : State} (hw : t.inj.w = s.inj.w) (hr : t.inj.r = s.inj.r)
    (hc : t.snoop.cfg.ringSize = s.snoop.cfg.ringSize) (hn : currentRecord t.inj = false) (h : ringLaws s = true) :
    ringLaws t = true := by
  simp only [ringLaws, decide_eq_true_eq, hw, hr, hc, hn] at h ⊢
  simp only [Bool.false_eq_true, if_false]
  omega

theorem keeps_issueSection : Keeps m s m (issueSection s) := by
  rw [issueSection]
  split
  · refine keeps_ring (by simp [issueBurst]) (by simp [issueBurst]) (by simp [issueBurst]) (by simp [issueBurst])
      (by simp [issueBurst]) (ringLaws_noRecord ?_ ?_ ?_ ?_) <;> simp [issueBurst, currentRecord]
  · exact Keeps.refl m s

theorem ringRoom_grantNow : ringRoom (grantNow s) = ringRoom s := by simp [ringRoom]

theorem ringRoom_of_recordDue (h : recordDue s = true) : ringRoom s = true := by
  simp only [recordDue, Bool.and_eq_true] at h
  exact h.1.2

/-! ### The responses to injected bursts (R161, R164 to R166) -/

theorem keeps_reportPath (r : Resp) (a : Addr) : Keeps m s m (reportPath r a s) :=
  keeps_ite (fun _ => keeps_raiseCond _ _ _) fun _ => keeps_clearCond _ _

theorem keeps_unflight : Keeps m s m (updInj (fun i => { i with inflight := none }) s) := by
  refine keeps_ring (by simp) (by simp) (by simp) (by simp) (by simp) (ringLaws_noRecord ?_ ?_ ?_ ?_) <;> simp [currentRecord]

theorem keeps_endInjected : Keeps m s m (endInjected s) :=
  keeps_ite (fun _ => .after keeps_endTail keeps_unflight) fun _ => keeps_unflight

/-- The record that lands took the slot its flight had reserved (R160, R164). -/
theorem keeps_landRecord (h : currentRecord s.inj = true) (level : Nat) :
    Keeps m s m (landRecord level (endInjected s)) := by
  intro L hL
  by_cases hring : L = .ring
  · subst hring
    have hle := ringCount_le s.snoop.cfg.ringSize
    simp only [law, ringLaws, h, if_true, decide_eq_true_eq] at hL
    have hsucc := toNat_succ_sub s.inj.w s.inj.r (by omega)
    have hw : (landRecord level (endInjected s)).inj.w = s.inj.w + 1 := by simp [landRecord, endInjected_eq]
    have hr : (landRecord level (endInjected s)).inj.r = s.inj.r := by simp [landRecord, endInjected_eq]
    have hc : (landRecord level (endInjected s)).snoop = s.snoop := by simp [landRecord, endInjected_eq]
    have hn : currentRecord (landRecord level (endInjected s)).inj = false := by
      simp [landRecord, endInjected_eq, currentRecord]
    rw [law, ringLaws, decide_eq_true_eq, hw, hr, hc, hn, hsucc]
    exact hL
  · refine law_of_same ?_ (keeps_endInjected (m := m) L hL)
    cases L with
    | ring => exact absurd rfl hring
    | _ => simp [sameTo, landRecord, ownersOf]

theorem keeps_recordResponse {o st : Bool} {c level : Nat} {a : Addr} (r : Resp)
    (h : st = false → currentRecord s.inj = true) : Keeps m s m (recordResponse o c level st a r s) := by
  refine .after (keeps_reportPath r a) (keeps_ite (fun _ => .after (keeps_addLost _) keeps_endInjected) fun hok => ?_)
  simp only [Bool.or_eq_true, not_or, Bool.not_eq_true] at hok
  exact keeps_landRecord (h hok.1) level

theorem keeps_ringResponseOp (r : Resp) : Keeps m s m (ringResponseOp r s) := by
  rw [ringResponseOp]
  split
  next b hb =>
    split
    next o c l st hk =>
      refine keeps_ite (fun _ => keeps_recordResponse r fun hst => ?_) fun _ => Keeps.refl m s
      simp [currentRecord, hb, hk, hst]
    · exact Keeps.refl m s
  · exact Keeps.refl m s

theorem keeps_sectionResponseOp (p : PageId) (a : Addr) (r : Resp) : Keeps m s m (sectionResponseOp p a r s) :=
  .after (keeps_reportPath r a) <| keeps_ite (fun _ => .after (keeps_flagPage p) keeps_endInjected) fun _ => keeps_endInjected

theorem keeps_pageResponseOp (r : Resp) : Keeps m s m (pageResponseOp r s) := by
  rw [pageResponseOp]
  split
  · split
    · exact Keeps.refl m s
    · exact keeps_ite (fun _ => keeps_sectionResponseOp _ _ r) fun _ => Keeps.refl m s
  · exact Keeps.refl m s

end
end Sys2Proof.Proofs.Kept

namespace Sys2Proof.Proofs.Kept

open Sys2Proof Sys2Proof.Machine Sys2Proof.Safety Sys2Proof.Laws

section
variable {m : Ghost} {s : State} {d : SideId}

/-! ### Lamp, backlight, stages -/

theorem keeps_lampPin (level : Bool) : Keeps m s m (lampPin level s) := keeps_lamp _

theorem keeps_lampTake : Keeps m s m (lampTake s) := keeps_lamp _

theorem keeps_periodStartOp : Keeps m s m (periodStartOp s) := keeps_backlight _

theorem keeps_highEndOp : Keeps m s m (highEndOp d s) := keeps_updMonitor d _

theorem stabilizing_of_stabDue (h : stabDue d s = true) : (s.side d).head.health = .stabilizing := by
  simp only [stabDue, Bool.and_eq_true, beq_iff_eq] at h
  exact h.1

theorem recovering_of_dwellDue (h : dwellDue d s = true) : (s.side d).head.health = .recovering := by
  simp only [dwellDue, Bool.and_eq_true, beq_iff_eq] at h
  exact h.1

theorem keeps_dwellEnd (h : (s.side d).head.health = .recovering) : Keeps m s m (dwellEnd d s) := by
  intro L hL
  have hstop : law L m (updHead d (fun h => { h with stageTimer := none }) s) := keeps_head rfl L hL
  refine law_enterPowering (fun e _ hin => ?_) (fun _ => .inr ?_) (fun _ => ?_) hstop
  · simp [Side.inService, h, Health.inService] at hin
  · simp [h]
  · simp [h, Health.linkServed]

/-! ### Time -/

theorem keeps_refPeriod : Keeps m s m (refPeriod s) := by
  rw [refPeriod]
  split
  · exact Keeps.refl m s
  · split
    · exact keeps_quiet ⟨rfl, rfl, rfl, rfl, rfl, rfl, rfl⟩ rfl
    · exact keeps_quiet ⟨rfl, rfl, rfl, rfl, rfl, rfl, rfl⟩ rfl

theorem keeps_idle : Keeps m s m (idle s) := by
  rw [idle]
  split
  · exact keeps_refPeriod
  · exact keeps_quiet ⟨rfl, rfl, rfl, rfl, rfl, rfl, rfl⟩ rfl

/-! ### Reset -/

theorem law_reset (L : LawId) : law L Ghost.none State.reset := by
  cases L with
  | faults => rw [law]; decide
  | image => rw [law]; decide
  | ring => rw [law]; decide
  | path => rw [law]; decide
  | display d => cases d <;> (rw [law]; decide)
  | picture d => cases d <;> (rw [law]; decide)
  | buffers d => cases d <;> exact buffersOk_free rfl rfl
  | link =>
    have hoff : ∀ d, ownersOf State.reset d = ⟨.off, false, false⟩ := fun d => by cases d <;> rfl
    have hempty : entriesOf Ghost.none.handing State.reset.link = [] := rfl
    rw [law, hempty]
    refine ⟨fun _ => Nat.zero_le 1, fun _ => Nat.zero_le 1, fun d => ?_, fun d _ => ?_, nofun, nofun, nofun, fun d _ _ => rfl⟩
    · rw [hoff]; rfl
    · rw [hoff]

/-- Every law that holds at reset holds once RESET_N is asserted. -/
theorem keeps_assertReset : Keeps m s Ghost.none (assertReset s) := by
  intro L _
  refine keeps_followPin s L (law_of_same (s := State.reset) ?_ (law_reset L))
  cases L with
  | display d => cases d <;> exact ⟨rfl, rfl⟩
  | picture d => cases d <;> rfl
  | buffers d => cases d <;> rfl
  | link => exact ⟨rfl, fun d => by cases d <;> rfl⟩
  | _ => rfl

theorem keeps_releaseReset (a : BitVec 2) : Keeps m s m (releaseReset a s) := by
  rw [releaseReset]
  refine .after keeps_lampCompare (.after (keeps_followPin _) (keeps_quiet ⟨rfl, rfl, rfl, rfl, rfl, rfl, rfl⟩ rfl))

end
end Sys2Proof.Proofs.Kept

namespace Sys2Proof.Proofs.Kept

open Sys2Proof Sys2Proof.Machine Sys2Proof.Safety Sys2Proof.Laws

section
variable {s t : State}

/-! ### Every command, and every step -/

/-- The state a command is answered with keeps every law. -/
def AnswerKeeps (s : State) : Host.Outcome State Fault Refusal → Prop
  | .next t => Keeps Ghost.none s Ghost.none t
  | _ => True

/-- An effect that keeps the laws does so under `act`. -/
theorem act_keeps {f : State → State} (h : Keeps Ghost.none s Ghost.none (f s)) : AnswerKeeps s (act f s) := by
  cases hr : s.inReset with
  | true => rw [act_reset f hr]; exact Keeps.refl _ s
  | false => rw [act_live f hr]; exact h.trans (keeps_publish s)

/-- An effect that is taken only where its event is due. -/
theorem act_keeps_due {c : State → Bool} {f : State → State} (h : c s = true → Keeps Ghost.none s Ghost.none (f s)) :
    AnswerKeeps s (act (fun s => if c s then f s else s) s) :=
  act_keeps (keeps_ite h fun _ => Keeps.refl _ s)

theorem exec_keeps (i : Instr) (s : State) : AnswerKeeps s (exec i s) := by
  have hsnoop : ∀ off b, AnswerKeeps s (act (snoopBeat off b) s) := fun off b => act_keeps (keeps_snoopBeat rfl off b)
  cases i with
  | writeBurstTaken b =>
    rw [exec_writeBurstTaken]
    exact act_keeps (.after (keeps_offerWrite b) (keeps_settleGrants _))
  | writeDataBeatTaken data strb =>
    rw [exec_writeDataBeatTaken]
    exact act_keeps (.after (keeps_takeBeat rfl _) (keeps_settleGrants _))
  | readBurstTaken b =>
    exact act_keeps_due (c := fun s => readFree s.path) fun h => .after (keeps_arriveRead b) (keeps_readRoomOfFree h)
  | settingsWrite off data strb => exact hsnoop _ _
  | globalApply value strb => exact hsnoop _ _
  | apply d value strb => exact hsnoop _ _
  | ringRead value strb => exact hsnoop _ _
  | powerOn arg sq => exact hsnoop _ _
  | powerOff arg sq => exact hsnoop _ _
  | recover arg sq => exact hsnoop _ _
  | ackFaults arg sq => exact hsnoop _ _
  | unknownCommand code arg sq => exact hsnoop _ _
  | mailboxSubmission slot tag => exact hsnoop _ _
  | heldLine0WriteTaken =>
    rw [exec_heldLine0WriteTaken]
    exact act_keeps_due fun _ => .after keeps_heldWriteOp keeps_grantNow
  | heldFrameStartTaken => exact act_keeps_due fun _ => keeps_heldReadOp
  | downstreamWriteGrant => exact act_keeps keeps_grantWaiting
  | downstreamWriteResponse id resp => exact act_keeps (keeps_writeResponseOp rfl id resp)
  | downstreamReadData id data resp => exact act_keeps (keeps_readDataOp id data resp)
  | frameMissing d => exact act_keeps_due fun _ => keeps_frameExpiry (releaseKeeps_deferred d) rfl
  | displayIdle d => exact act_keeps_due fun _ => keeps_displayExpiry
  | stabilizationExpiry d => exact act_keeps_due fun h => keeps_enterProbing nofun (stabilizing_of_stabDue h)
  | offDwellExpiry d => exact act_keeps_due fun h => keeps_dwellEnd (recovering_of_dwellDue h)
  | raiseStepExpiry d => exact act_keeps_due fun _ => keeps_raiseStep
  | lowerStepExpiry d => exact act_keeps_due fun _ => keeps_seqRelease
  | lampsLevelChange level =>
    change AnswerKeeps s (if s.inReset then .next (lampPin level s) else act (fun s => lampCompare (lampPin level s)) s)
    split
    · exact keeps_lampPin level
    · exact act_keeps (.after keeps_lampCompare (keeps_lampPin level))
  | lampMeasurementExpiry => exact act_keeps_due fun _ => keeps_lampTake
  | rampTick => exact act_keeps_due fun _ => keeps_rampTickOp
  | pwmPeriodStart => exact act_keeps_due fun _ => keeps_periodStartOp
  | requestSent => exact act_keeps_due fun _ => keeps_sentOp
  | cancelledCharacterEnd => exact act_keeps_due fun _ => keeps_enterGuard
  | responseReceived c =>
    exact act_keeps_due (c := fun s => characterDue s && s.link.chars.length == 3) fun _ => keeps_responseOp c
  | noAnswer => exact act_keeps_due fun _ => keeps_silenceOp
  | guardEnd => exact act_keeps_due fun _ => keeps_startNext
  | ringRecordIssue =>
    rw [exec_ringRecordIssue]
    exact act_keeps_due fun h => .after (keeps_issueRing (ringRoom_grantNow.trans (ringRoom_of_recordDue h))) keeps_grantNow
  | sectionIssue =>
    rw [exec_sectionIssue]
    exact act_keeps_due fun _ => .after keeps_issueSection keeps_grantNow
  | ringRecordResponse resp => exact act_keeps (keeps_ringResponseOp resp)
  | sectionResponse resp => exact act_keeps (keeps_pageResponseOp resp)
  | resetAssertion => exact keeps_assertReset
  | resetRelease anchor => exact keeps_ite (fun _ => keeps_releaseReset anchor) fun _ => Keeps.refl _ s
  | startEdge low => exact act_keeps (keeps_startEdgeOp low)
  | responseCharacterComplete c =>
    exact act_keeps_due (c := fun s => characterDue s && decide (s.link.chars.length < 3)) fun _ => keeps_characterOp c
  | pwmHighTimeEnd d => exact act_keeps_due fun _ => keeps_highEndOp

/-- Every step keeps every law. -/
theorem step_keeps (h : step s = .next t) : Keeps Ghost.none s Ghost.none t := by
  rw [step] at h
  split at h
  next c rest _ =>
    have hc := exec_keeps c { s with pending := rest }
    rw [h] at hc
    have hpop : Keeps Ghost.none s Ghost.none { s with pending := rest } :=
      keeps_quiet ⟨rfl, rfl, rfl, rfl, rfl, rfl, rfl⟩ rfl
    exact hpop.trans hc
  · cases h
    exact keeps_idle

end

/-! ### The statements' laws -/

/-- L1 and L2 of a side, read off the table. -/
theorem bufferLaws_iff (d : SideId) (x : Side) :
    bufferLaws x = true ∧ lineLaws x = true ↔ BuffersOk Ghost.none d x := by
  have hshape : (decide (x.cap.bufs.list.countP isReady ≤ 1) && decide (x.cap.bufs.list.countP isShown ≤ 1) &&
      (match x.cap.fip with
       | none => x.cap.bufs.list.countP isFilling == 0
       | some f => x.cap.bufs.list.countP isFilling == 1 && x.cap.bufs.get f.buf .free == .filling)) = true ↔ tableShape x := by
    rcases hf : x.cap.fip with _ | f <;> simp [tableShape, hf, and_assoc]
  constructor
  · rintro ⟨hb, hl⟩
    rw [bufferLaws, Bool.and_eq_true] at hb
    obtain ⟨hs, hfree⟩ := hb
    exact ⟨hshape.mp hs, hl, .inr (by simpa using hfree)⟩
  · rintro ⟨hs, hl, hfree⟩
    rw [bufferLaws, Bool.and_eq_true]
    exact ⟨⟨hshape.mpr hs, by simpa [Ghost.none] using hfree⟩, hl⟩

/-- The entries of a kind are counted by their kind and side alone. -/
theorem countP_brief (h : Option LinkEntry) (k : Link) (hn : h = none) (d : SideId) (n : Fin 6) :
    (entriesOf h k).countP (probeOf d) = (linkEntries k).countP (isProbe d) ∧
      (entriesOf h k).countP (expoOf d) = (linkEntries k).countP (isExposure d) ∧
      (entriesOf h k).countP (ofSlotB n) = (linkEntries k).countP (LinkEntry.ofSlot n) := by
  subst hn
  have hmap : ∀ q : Brief → Bool, (entriesOf none k).countP q = (linkEntries k).countP (q ∘ brief) := fun q => by
    rw [entriesOf, List.countP_map, Option.toList_none, List.append_nil]
  exact ⟨hmap _, hmap _, hmap _⟩

theorem partLaws_iff (d : SideId) (s : State) :
    partLaws d s = true ↔
      (linkEntries s.link).countP (isProbe d) ≤ 1 ∧
        (0 < (linkEntries s.link).countP (isProbe d) → (s.side d).head.health = .probing) ∧
        (linkEntries s.link).countP (isExposure d) = (if (s.side d).expo.request then 1 else 0) ∧
        ((s.side d).head.health = .probing → (linkEntries s.link).countP (isExposure d) = 0) := by
  simp only [partLaws, Bool.and_eq_true, Bool.or_eq_true, beq_iff_eq, bne_iff_ne, and_assoc]
  by_cases hp : (s.side d).head.health = .probing
  · simp only [hp, and_true, true_and, ne_eq, not_true, or_false, implies_true, forall_true_left]
    omega
  · simp only [hp, and_false, or_false, ne_eq, not_false_eq_true, or_true, and_true, imp_false, false_implies]
    omega

/-- L9 and the laws of the part entries, read off the queue. -/
theorem linkLaws_iff (s : State) : linkLaws s = true ↔ law .link Ghost.none s := by
  have hcount := countP_brief Ghost.none.handing s.link rfl
  constructor
  · intro h
    simp only [linkLaws, Bool.and_eq_true] at h
    obtain ⟨⟨⟨⟨⟨hserved, hslots⟩, hleft⟩, hright⟩, hcl⟩, hcr⟩ := h
    have hpart : ∀ d, partLaws d s = true := fun d => by cases d <;> assumption
    refine ⟨fun n => ?_, fun d => ?_, fun d => ?_, fun d hd => ?_, nofun, fun d _ p hp hpd => ?_, fun d _ hd => ?_,
      fun d _ hd => ?_⟩
    · rw [(hcount .left n).2.2]
      exact of_decide_eq_true (List.all_eq_true.mp hslots n (by fin_cases n <;> simp))
    · rw [(hcount d 0).1]
      obtain ⟨hprobes, -⟩ := (partLaws_iff d s).mp (hpart d)
      exact hprobes
    · rw [(hcount d 0).2.1]
      obtain ⟨-, -, hexpo, -⟩ := (partLaws_iff d s).mp (hpart d)
      exact hexpo
    · have hd' : (s.side d).configured = false := hd
      cases d with
      | left => simpa [ownersOf, ownerOf, State.side, show s.left.configured = false from hd'] using hcl
      | right => simpa [ownersOf, ownerOf, State.side, show s.right.configured = false from hd'] using hcr
    · obtain ⟨e, he, rfl⟩ := List.mem_map.mp hp
      subst hpd
      exact List.all_eq_true.mp hserved e (by simpa [Ghost.none] using he)
    · rw [(hcount d 0).1] at hd
      obtain ⟨-, hprobing, -⟩ := (partLaws_iff d s).mp (hpart d)
      exact hprobing hd
    · rw [(hcount d 0).2.1]
      obtain ⟨-, -, -, hexposing⟩ := (partLaws_iff d s).mp (hpart d)
      exact hexposing hd
  · intro h
    have hpart : ∀ d, partLaws d s = true := fun d => by
      obtain ⟨hprobe, hexpo, -⟩ := hcount d 0
      have h1 := h.probes d
      have h2 := h.probing d nofun
      have h3 := h.exposures d
      have h4 := h.exposing d nofun
      rw [hprobe] at h1 h2
      rw [hexpo] at h3 h4
      exact (partLaws_iff d s).mpr ⟨h1, h2, h3, h4⟩
    have hconf : ∀ d, ((s.side d).configured || (s.side d).head.health == .off) = true := fun d => by
      cases hc : (s.side d).configured with
      | true => rfl
      | false => simpa [ownersOf, ownerOf] using h.off d hc
    have hserved : ((linkEntries s.link).all fun e => (s.side e.side).head.health.linkServed) = true :=
      List.all_eq_true.mpr fun e he =>
        h.served e.side nofun (brief e) (List.mem_map_of_mem (by simpa [Ghost.none] using he)) rfl
    have hslots : ∀ n, (linkEntries s.link).countP (LinkEntry.ofSlot n) ≤ 1 := fun n =>
      (hcount .left n).2.2 ▸ h.slots n
    simp only [linkLaws, Bool.and_eq_true]
    exact ⟨⟨⟨⟨⟨hserved, by simp [hslots]⟩, hpart .left⟩, hpart .right⟩, hconf .left⟩, hconf .right⟩

theorem displayLaws_iff (d : SideId) (s : State) : displayLaws d s = true ↔ law (.display d) Ghost.none s := by
  rw [displayLaws, beq_iff_eq, law]

theorem pathLaws_iff (s : State) : pathLaws s.path = true ↔ law .path Ghost.none s := by
  simp [pathLaws, law, held, Ghost.none, Config.maxBursts, Config.maxWait, and_assoc]

/-! ### The bounds of the link queue (L8) -/

/-- A part entry of a side is its PROBE or its EXPOSURE. -/
theorem countP_part (d : SideId) (es : List LinkEntry) :
    es.countP (fun e => e.isPart && e.side == d) = es.countP (isProbe d) + es.countP (isExposure d) := by
  induction es with
  | nil => rfl
  | cons e rest ih =>
    simp only [List.countP_cons, ih]
    have he : (if (e.isPart && e.side == d) = true then 1 else 0) =
        (if isProbe d e = true then 1 else 0) + if isExposure d e = true then 1 else 0 := by
      rcases e with ⟨kind, side, _, _, _, _⟩
      by_cases hd : side = d <;> cases kind <;> simp [LinkEntry.isPart, isProbe, isExposure, EntryKind.code, hd]
    omega

/-- Every entry that is not the part's own is of a mailbox slot. -/
theorem countP_mailbox (es : List LinkEntry) :
    es.countP (fun e => !e.isPart) = ∑ n : Fin 6, es.countP (LinkEntry.ofSlot n) := by
  induction es with
  | nil => rfl
  | cons e rest ih =>
    simp only [List.countP_cons, ih, Finset.sum_add_distrib]
    have he : (if (!e.isPart) = true then 1 else 0) = ∑ n : Fin 6, if e.ofSlot n = true then 1 else 0 := by
      rcases e with ⟨kind, _, _, _, _, _⟩
      cases kind <;> simp [LinkEntry.isPart, LinkEntry.ofSlot]
    omega

theorem countP_partSides (es : List LinkEntry) :
    es.countP (fun e => e.isPart) =
      es.countP (fun e => e.isPart && e.side == .left) + es.countP (fun e => e.isPart && e.side == .right) := by
  induction es with
  | nil => rfl
  | cons e rest ih =>
    simp only [List.countP_cons, ih]
    rcases e with ⟨kind, side, _, _, _, _⟩
    cases side <;> simp <;> omega

theorem length_linkEntries (k : Link) : (linkEntries k).length = linkDepth k := by
  rcases h : k.inFlight with _ | e <;> simp [linkEntries, linkDepth, h]

/-- The laws of the queue bound it: 8 entries, 6 of the mailbox, one of the part's own a side (L8). -/
theorem linkLaws_bounds {s : State} (h : linkLaws s = true) :
    linkDepth s.link ≤ 8 ∧ (linkEntries s.link).countP (fun e => !e.isPart) ≤ 6 ∧
      ∀ d, (linkEntries s.link).countP (fun e => e.isPart && e.side == d) ≤ 1 := by
  have hlaw : LinkOk Ghost.none (entriesOf none s.link) (ownersOf s) := (linkLaws_iff s).mp h
  have hcount := countP_brief none s.link rfl
  have hpart : ∀ d, (linkEntries s.link).countP (fun e => e.isPart && e.side == d) ≤ 1 := by
    intro d
    obtain ⟨hprobe, hexpo, -⟩ := hcount d 0
    have hprobes := hlaw.probes d
    have hprobing := hlaw.probing d nofun
    have hexposing := hlaw.exposing d nofun
    have hexposures := hlaw.exposures d
    rw [hprobe] at hprobes hprobing
    rw [hexpo] at hexposing hexposures
    rw [countP_part]
    by_cases hp : 0 < (linkEntries s.link).countP (isProbe d)
    · have := hexposing (hprobing hp)
      omega
    · split at hexposures <;> omega
  have hmail : (linkEntries s.link).countP (fun e => !e.isPart) ≤ 6 := by
    rw [countP_mailbox]
    exact (Finset.sum_le_card_nsmul _ _ 1 fun n _ => (hcount .left n).2.2 ▸ hlaw.slots n).trans (by decide)
  refine ⟨?_, hmail, hpart⟩
  have hsum := List.length_eq_countP_add_countP (fun e : LinkEntry => e.isPart) (l := linkEntries s.link)
  rw [length_linkEntries, countP_partSides] at hsum
  have hl := hpart .left
  have hr := hpart .right
  simp only [Bool.not_eq_true, Bool.decide_eq_false] at hsum
  omega

/-! ### The obligations -/

/-- Settles O7: the table's laws are kept by every step. -/
theorem bufferLawsKept : Obligations.BufferLawsKept := fun _ _ h hstep d =>
  (bufferLaws_iff d _).mpr (step_keeps hstep (.buffers d) ((bufferLaws_iff d _).mp (h d)))

/-- Settles O8: the curves' and the tiles' laws are kept by every step. -/
theorem pictureLawsKept : Obligations.PictureLawsKept := fun _ _ d htone htiles hstep =>
  step_keeps hstep (.picture d) ⟨htone, htiles⟩

/-- Settles O9: the laws of the fault unit are kept by every step. -/
theorem faultLawsKept : Obligations.FaultLawsKept := fun _ _ hqueue htable hstep =>
  step_keeps hstep .faults ⟨hqueue, htable⟩

/-- Settles O10: the ring's law is kept by every step. -/
theorem ringLawsKept : Obligations.RingLawsKept := fun _ _ h hstep => step_keeps hstep .ring h

/-- Settles O11: the link queue's laws are kept by every step, and bound it. -/
theorem linkLawsKept : Obligations.LinkLawsKept := fun s h =>
  ⟨fun t hstep => (linkLaws_iff t).mpr (step_keeps hstep .link ((linkLaws_iff s).mp h)), linkLaws_bounds h⟩

/-- Settles O12: the memory path's laws and the displays' counts are kept by every step. -/
theorem pathLawsKept : Obligations.PathLawsKept := fun s t hstep =>
  ⟨fun h => (pathLaws_iff t).mpr (step_keeps hstep .path ((pathLaws_iff s).mp h)), fun d h =>
    (displayLaws_iff d t).mpr (step_keeps hstep (.display d) ((displayLaws_iff d s).mp h))⟩

/-- Settles O13: the pending image's form is kept by every step. -/
theorem imageFormKept : Obligations.ImageFormKept := fun _ _ h hstep => step_keeps hstep .image h

end Sys2Proof.Proofs.Kept

/-! ## PROOFS: what is due, and the block's step -/

namespace Sys2Proof.Proofs.Steps

open Sys2Proof Sys2Proof.Machine Sys2Proof.Safety Sys2Proof.Laws

section
variable (d : SideId) (s : State)

/-! ### When each of the part's own events is due -/

theorem frameDue_iff :
    frameDue d s = true ↔ (s.side d).inService = true ∧
      ∃ t, (s.side d).cap.watchdog = some t ∧ (s.side d).cfg.cap.frameTimeout ≤ (s.time - t).toNat := by
  rw [frameDue, Bool.and_eq_true, dueAt_iff]

theorem displayDue_iff :
    displayDue d s = true ↔ (s.side d).inService = true ∧ (s.side d).disp.expired = false ∧
      ∃ t, (s.side d).disp.watchdog = some t ∧ (s.side d).cfg.disp.displayTimeout ≤ (s.time - t).toNat := by
  rw [displayDue, Bool.and_eq_true, Bool.and_eq_true, Bool.not_eq_true', dueAt_iff, and_assoc]

theorem stabDue_iff :
    stabDue d s = true ↔ (s.side d).head.health = .stabilizing ∧
      ∃ t, (s.side d).head.stageTimer = some t ∧ t.len ≤ (s.time - t.start).toNat := by
  rw [stabDue, Bool.and_eq_true, beq_iff_eq, timerDue_iff]

theorem dwellDue_iff :
    dwellDue d s = true ↔ (s.side d).head.health = .recovering ∧
      ∃ t, (s.side d).head.stageTimer = some t ∧ t.len ≤ (s.time - t.start).toNat := by
  rw [dwellDue, Bool.and_eq_true, beq_iff_eq, timerDue_iff]

theorem raiseDue_iff :
    raiseDue d s = true ↔ (s.side d).seq.state = .raising ∧
      ∃ t, (s.side d).seq.timer = some t ∧ t.len ≤ (s.time - t.start).toNat := by
  rw [raiseDue, Bool.and_eq_true, beq_iff_eq, timerDue_iff]

theorem lowerDue_iff :
    lowerDue d s = true ↔ (s.side d).seq.state = .lowering ∧
      ∃ t, (s.side d).seq.timer = some t ∧ t.len ≤ (s.time - t.start).toNat := by
  rw [lowerDue, Bool.and_eq_true, beq_iff_eq, timerDue_iff]

theorem highEndDue_iff :
    highEndDue d s = true ↔ (s.monitor d).high = true ∧ (s.monitor d).out < 1000 ∧
      s.backlight.periodLen * (s.monitor d).out / 1000 ≤ (s.time - s.backlight.periodStart).toNat := by
  rw [highEndDue, Bool.and_eq_true, Bool.and_eq_true, decide_eq_true_iff, decide_eq_true_iff, and_assoc]
  rfl

theorem lampDue_iff :
    lampDue s = true ↔ ∃ t, s.lamp.measure = some t ∧ 20000 ≤ (s.time - t).toNat := dueAt_iff _ _ _

theorem rampDue_iff :
    rampDue s = true ↔
      ∃ t, s.backlight.rampTimer = some t ∧ 4000 * 4 ^ s.snoop.cfg.rampCode ≤ (s.time - t).toNat := dueAt_iff _ _ _

theorem periodDue_iff :
    periodDue s = true ↔ s.backlight.periodLen ≤ (s.time - s.backlight.periodStart).toNat := decide_eq_true_iff

/-! ### The list of due events -/

theorem mem_whenDue {c e : Instr} {b : Bool} : c ∈ (if b then [e] else []) ↔ c = e ∧ b = true := by
  cases b <;> simp

theorem mem_sideDue {c : Instr} :
    c ∈ sideDue d s ↔
      c = .frameMissing d ∧ frameDue d s = true ∨ c = .displayIdle d ∧ displayDue d s = true ∨
        c = .stabilizationExpiry d ∧ stabDue d s = true ∨ c = .offDwellExpiry d ∧ dwellDue d s = true ∨
        c = .raiseStepExpiry d ∧ raiseDue d s = true ∨ c = .lowerStepExpiry d ∧ lowerDue d s = true ∨
        c = .pwmHighTimeEnd d ∧ highEndDue d s = true := by
  simp only [sideDue, List.mem_append, mem_whenDue, or_assoc]

theorem mem_sharedDue {c : Instr} :
    c ∈ sharedDue s ↔
      c = .lampMeasurementExpiry ∧ lampDue s = true ∨ c = .rampTick ∧ rampDue s = true ∨
        c = .pwmPeriodStart ∧ periodDue s = true ∨ c = .requestSent ∧ sentDue s = true ∨
        c = .cancelledCharacterEnd ∧ cutDue s = true ∨ c = .noAnswer ∧ silenceDue s = true ∨
        c = .guardEnd ∧ guardDue s = true ∨ c = .ringRecordIssue ∧ recordDue s = true ∨
        c = .sectionIssue ∧ sectionDue s = true ∨ c = .downstreamWriteGrant ∧ grantDue s = true ∨
        c = .heldLine0WriteTaken ∧ (writeFree { s.path with heldWrite := none } && heldWriteDue s) = true ∨
        c = .heldFrameStartTaken ∧ heldReadDue s = true := by
  simp only [sharedDue, List.mem_append, mem_whenDue, or_assoc]

/-- An event of a side is due in one of the two sides' lists. -/
theorem mem_sides {c : Instr} :
    (c ∈ sideDue .left s ∨ c ∈ sideDue .right s) ↔ ∃ d, c ∈ sideDue d s := by
  constructor
  · rintro (h | h)
    · exact ⟨.left, h⟩
    · exact ⟨.right, h⟩
  · rintro ⟨d, h⟩
    cases d with
    | left => exact .inl h
    | right => exact .inr h

theorem mem_dueEvents (c : Instr) :
    c ∈ dueEvents s ↔ s.inReset = false ∧ ((∃ d, c ∈ sideDue d s) ∨ c ∈ sharedDue s) := by
  rw [dueEvents]
  split
  next h => simp [h]
  next h => simp [h, ← mem_sides, or_assoc]

theorem noGrantDue_not : ¬noGrantDue s ↔ grantDue s = true := by
  rw [noGrantDue_iff, Bool.not_eq_false]

/-- The condition of each of the part's own events, as the model tests it. -/
def ownDue (s : State) : Instr → Bool
  | .frameMissing d => frameDue d s
  | .displayIdle d => displayDue d s
  | .stabilizationExpiry d => stabDue d s
  | .offDwellExpiry d => dwellDue d s
  | .raiseStepExpiry d => raiseDue d s
  | .lowerStepExpiry d => lowerDue d s
  | .pwmHighTimeEnd d => highEndDue d s
  | .lampMeasurementExpiry => lampDue s
  | .rampTick => rampDue s
  | .pwmPeriodStart => periodDue s
  | .requestSent => sentDue s
  | .cancelledCharacterEnd => cutDue s
  | .noAnswer => silenceDue s
  | .guardEnd => guardDue s
  | .ringRecordIssue => recordDue s
  | .sectionIssue => sectionDue s
  | .downstreamWriteGrant => grantDue s
  | .heldLine0WriteTaken => writeFree { s.path with heldWrite := none } && heldWriteDue s
  | .heldFrameStartTaken => heldReadDue s
  | _ => false

theorem due_iff_ownDue (c : Instr) : ((∃ d, c ∈ sideDue d s) ∨ c ∈ sharedDue s) ↔ ownDue s c = true := by
  simp only [mem_sideDue, mem_sharedDue]
  cases c <;> simp [ownDue]

theorem ownDue_iff (c : Instr) : ownDue s c = true ↔ eventDue s c := by
  cases c with
  | frameMissing d => exact frameDue_iff d s
  | displayIdle d => exact displayDue_iff d s
  | stabilizationExpiry d => exact stabDue_iff d s
  | offDwellExpiry d => exact dwellDue_iff d s
  | raiseStepExpiry d => exact raiseDue_iff d s
  | lowerStepExpiry d => exact lowerDue_iff d s
  | pwmHighTimeEnd d => exact highEndDue_iff d s
  | lampMeasurementExpiry => exact lampDue_iff s
  | rampTick => exact rampDue_iff s
  | pwmPeriodStart => exact periodDue_iff s
  | requestSent => exact sentDue_iff s
  | cancelledCharacterEnd => exact cutDue_iff s
  | noAnswer => exact silenceDue_iff s
  | guardEnd => exact guardDue_iff s
  | ringRecordIssue => exact recordDue_iff s
  | sectionIssue => exact sectionDue_iff s
  | downstreamWriteGrant => exact (noGrantDue_not s).symm
  | heldLine0WriteTaken => exact heldWriteOpen_iff s
  | heldFrameStartTaken => exact heldReadDue_iff s
  | _ => exact Bool.false_eq_true.to_iff

/-- The due events are the part's own whose condition holds. -/
theorem mem_dueEvents_iff (c : Instr) : c ∈ dueEvents s ↔ s.inReset = false ∧ eventDue s c := by
  rw [mem_dueEvents, due_iff_ownDue, ownDue_iff]

/-! ### The step -/

/-- A step with nothing due: a REFCLK period. -/
theorem refPeriod_eq :
    refPeriod s =
      (let sent : State := { s with path := { s.path with tail := none } }
       if s.inReset then s
       else if s.phase < 24 then { sent with phase := s.phase + 1 }
       else { sent with phase := 0, time := s.time + 1 }) := by
  simp only [refPeriod, Config.refPerMicro]
  split
  · rfl
  · by_cases h : s.phase < 24
    · rw [if_pos h, if_pos (by omega)]; rfl
    · rw [if_neg h, if_neg (by omega)]; rfl

theorem step_idle (hp : s.pending = []) : step s = .next (idle s) := by rw [step, hp]

/-- With something due one of it joins the queue. -/
theorem idle_due (hp : s.pending = []) (h : dueEvents s ≠ []) :
    ∃ c ∈ dueEvents s, idle s = { s with pending := [c], choice := s.choice + 1 } := by
  rw [idle]
  split
  next hn => exact absurd hn h
  next c rest hd =>
    have hlt : Config.freeChoice s.choice % (rest.length + 1) < (c :: rest).length := Nat.mod_lt _ (Nat.succ_pos _)
    refine ⟨_, ?_, by rw [hp, List.nil_append]⟩
    rw [List.getD_eq_getElem _ _ hlt, hd]
    exact List.getElem_mem hlt

end

/-! ### Commands that have their effect only where they are due -/

theorem act_due {c : State → Bool} {f : State → State} {s : State} (hr : s.inReset = false) (h : c s = true) :
    act (fun s => if c s then f s else s) s = .next (publish s (f s)) := by
  rw [act_live _ hr, if_pos h]

theorem act_notDue {c : State → Bool} {f : State → State} {s : State} (h : ¬c s = true) :
    act (fun s => if c s then f s else s) s = .next s :=
  act_none _ (if_neg h)

/-- Settles O1: the front command runs. -/
theorem stepRunsFrontCommand : Obligations.StepRunsFrontCommand := fun _ _ _ => rfl

/-- Settles O2: what is due, and the step with no command waiting. -/
theorem idleStep : Obligations.IdleStep := by
  refine ⟨mem_dueEvents_iff, fun s hp => ⟨fun hdue => ?_, fun hdue => ?_⟩⟩
  · obtain ⟨c, hc, hidle⟩ := idle_due s hp hdue
    exact ⟨c, hc, by rw [step_idle s hp, hidle]⟩
  · have hidle : idle s = refPeriod s := by rw [idle, hdue]
    rw [step_idle s hp, hidle, refPeriod_eq]

/-- Settles O3: every command answers, and few have an effect in reset. -/
theorem everyCommandAnswers : Obligations.EveryCommandAnswers := by
  intro c s
  by_cases hspecial : (∃ level, c = .lampsLevelChange level) ∨ c = .resetAssertion ∨ ∃ a, c = .resetRelease a
  · rcases hspecial with ⟨level, rfl⟩ | rfl | ⟨a, rfl⟩
    · refine ⟨?_, fun _ h => absurd rfl (h level)⟩
      change ∃ t, (if s.inReset then .next (lampPin level s) else act (fun s => lampCompare (lampPin level s)) s) = .next t
      split
      · exact ⟨_, rfl⟩
      · exact act_answers _ s
    · exact ⟨⟨_, rfl⟩, fun _ _ h => absurd rfl h⟩
    · exact ⟨⟨_, rfl⟩, fun _ _ _ h => absurd rfl (h a)⟩
  · simp only [not_or, not_exists] at hspecial
    obtain ⟨hlamp, hassert, hrelease⟩ := hspecial
    obtain ⟨f, hf⟩ := exec_is_act c s hlamp hassert hrelease
    rw [hf]
    exact ⟨act_answers f s, fun hr _ _ _ => act_reset f hr⟩

end Sys2Proof.Proofs.Steps

/-! ## PROOFS: reset -/

namespace Sys2Proof.Proofs.Resets

open Sys2Proof Sys2Proof.Machine Sys2Proof.Safety Sys2Proof.Laws

theorem followPin_eq (pre s : State) :
    followPin pre s = { s with faults := { s.faults with
      edges := if s.faultAsserted = pre.faultAsserted then s.faults.edges else s.faults.edges ++ [s.faultAsserted] } } := by
  rw [followPin]
  split <;> rfl

theorem faultAsserted_inReset {s : State} (h : s.inReset = true) : s.faultAsserted = true := by
  simp [State.faultAsserted, h]

theorem assertReset_eq (s : State) :
    assertReset s =
      { State.reset with
        inReset := true, lamp := { pin := s.lamp.pin, on := false, measure := none }, down := s.down, up := s.up,
        choice := s.choice, pending := s.pending,
        faults :=
          { State.reset.faults with
            edges := if s.faultAsserted = true then s.faults.edges else s.faults.edges ++ [true] } } := by
  rw [assertReset, followPin_eq, faultAsserted_inReset rfl]
  cases s.faultAsserted <;> rfl

theorem lampCompare_eq (s : State) :
    lampCompare s = { s with lamp := { s.lamp with
      measure :=
        if (s.lamp.pin != s.snoop.cfg.lampPol) = s.lamp.on then none
        else if s.lamp.measure.isSome then s.lamp.measure else some s.time } } := by
  simp only [lampCompare, lampLevel]
  split
  · rfl
  · split <;> rfl

theorem releaseReset_eq {s : State} (a : BitVec 2) (h : s.inReset = true) :
    releaseReset a s =
      (let out : State := { s with inReset := false, anchor := a }
       { out with
          faults :=
            { s.faults with
              edges := if out.faultAsserted = true then s.faults.edges else s.faults.edges ++ [false] }
          lamp :=
            { s.lamp with
              measure :=
                if (s.lamp.pin != s.snoop.cfg.lampPol) = s.lamp.on then none
                else if s.lamp.measure.isSome then s.lamp.measure else some s.time } }) := by
  rw [releaseReset, lampCompare_eq, followPin_eq, faultAsserted_inReset h]
  dsimp only
  cases ({ s with inReset := false, anchor := a } : State).faultAsserted <;> rfl

theorem blockBase_eq (a : BitVec 2) :
    blockBase a =
      (match a with
       | 0 => 0x3FFFF000
       | 1 => 0x7FFFF000
       | 2 => 0xBFFFF000
       | 3 => 0xFFFFF000) := by
  revert a; decide

/-- Settles O4: what the assertion and the release of RESET_N leave. -/
theorem resetAssertionAndRelease : Obligations.ResetAssertionAndRelease := by
  intro a s
  refine ⟨?_, fun h => ?_, fun h => ?_, blockBase_eq a, rfl⟩
  · exact congrArg Host.Outcome.next (assertReset_eq s)
  · exact congrArg Host.Outcome.next ((if_pos h).trans (releaseReset_eq a h))
  · exact congrArg Host.Outcome.next (if_neg (by simp [h]))

/-- Settles O6: the reset state has every law. -/
theorem resetHasEveryLaw : Obligations.ResetHasEveryLaw := by
  have hlaw := Kept.law_reset
  refine ⟨fun d => ?_, (hlaw .faults).1, (hlaw .faults).2, hlaw .ring, (Kept.linkLaws_iff _).mpr (hlaw .link),
    (Kept.pathLaws_iff _).mpr (hlaw .path), hlaw .image⟩
  obtain ⟨hbuf, hline⟩ := (Kept.bufferLaws_iff d _).mpr (hlaw (.buffers d))
  obtain ⟨htone, htile⟩ := hlaw (.picture d)
  exact ⟨hbuf, hline, htone, htile, (Kept.displayLaws_iff d _).mpr (hlaw (.display d))⟩

theorem pendingSide_empty (d : SideId) : pendingSide d [] = SideCfg.default d := by
  cases d <;> decide

theorem pendingGlobal_empty : pendingGlobal [] = GlobalCfg.default := by decide

theorem defaultCurve_get : ∀ e ≤ 20, defaultCurve.get e 0 = roundHalfUp (1023 * e) 20 := by decide

theorem pins_reset (d : SideId) : ∀ k < 3, pinLevel State.reset d k = false := by cases d <;> decide

theorem sideReset (d : SideId) : State.reset.side d = Side.reset d := by cases d <;> rfl

theorem bufs_reset : ∀ n < 3, freeBufs.get n .filling = .free := by decide

/-- Settles O5: the reset state, block by block. -/
theorem resetState : Obligations.ResetState := by
  refine ⟨fun d => ?_, rfl, rfl, rfl, rfl, rfl, rfl, rfl, rfl, rfl, fun d => by cases d <;> rfl, rfl, rfl, rfl,
    fun n hn => get_const _ _ hn, fun i hi => get_const _ _ hi, rfl, rfl, rfl, rfl, rfl, rfl, rfl, by decide, rfl, by decide,
    by decide, rfl, rfl, pendingGlobal_empty.symm⟩
  rw [sideReset]
  exact ⟨rfl, (pendingSide_empty d).symm, rfl, rfl, rfl, bufs_reset, rfl, rfl, rfl, rfl, rfl, rfl, rfl, rfl, rfl, rfl,
    fun e he => ⟨defaultCurve_get e he, rfl⟩, fun i hi => ⟨get_const _ _ hi, get_const _ _ hi⟩, rfl, rfl, rfl, rfl, rfl,
    pins_reset d⟩
end Sys2Proof.Proofs.Resets

/-! ## PROOFS: faults, reports and publication -/

namespace Sys2Proof.Proofs.Occurrences

open Sys2Proof Sys2Proof.Machine Sys2Proof.Safety Sys2Proof.Laws

section
variable (k : FaultKind) (sc : Scope) (det : BitVec 32) (s : State)

/-! ### Occurrences, raises and clears (R153 to R157) -/

/-- The frame number of a report's scope, side by side. -/
theorem frameOf_eq :
    frameOf s sc = (match sc with
      | .left => s.left.cap.frameNumber
      | .right => s.right.cap.frameNumber
      | .global => 0) := by
  cases sc <;> rfl

/-- A report of an occurrence just counted in the record. -/
theorem mkReport_counted {ty : ReportType} (hty : ty ≠ .clear) {r : FaultRec} {f : Option Time} (hc : r.count ≠ 0)
    (hf : r.first = f) (hl : r.last = some s.time) :
    mkReport k sc ty det (setFaultRec k sc r s) =
      { kind := k, scope := sc, type := ty, level := levelOfGroup s.snoop.cfg (groupOfCode k.code), time := s.time,
        first := f.getD 0, count := r.count, detail := det,
        frame := match sc with
          | .left => s.left.cap.frameNumber
          | .right => s.right.cap.frameNumber
          | .global => 0 } := by
  rw [mkReport, faultRec_setFaultRec, frameOf_setFaultRec, frameOf_eq, if_neg hty, if_neg hty, if_neg hc, hf, hl]
  rfl

theorem mkReport_cleared (r : FaultRec) :
    mkReport k sc .clear det (setFaultRec k sc r s) =
      { kind := k, scope := sc, type := .clear, level := levelOfGroup s.snoop.cfg (groupOfCode k.code), time := s.time,
        first := if r.count = 0 then 0 else r.first.getD 0, count := r.count, detail := 0,
        frame := match sc with
          | .left => s.left.cap.frameNumber
          | .right => s.right.cap.frameNumber
          | .global => 0 } := by
  rw [mkReport, faultRec_setFaultRec, frameOf_setFaultRec, frameOf_eq, if_pos rfl, if_pos rfl]
  rfl

theorem counted_ne_zero (n : Nat) : min 65535 (n + 1) ≠ 0 := by omega

/-- FAULT_N's record follows the change that took `s` to `t` (R168). -/
def following (s t : State) : State :=
  { t with
    faults :=
      { t.faults with
        edges := if t.faultAsserted = s.faultAsserted then s.faults.edges else s.faults.edges ++ [t.faultAsserted] } }

theorem followPin_push (r : Report) (q : FaultRec) :
    followPin s (pushReport r (setFaultRec k sc q s)) = following s (pushReport r (setFaultRec k sc q s)) := by
  rw [Resets.followPin_eq, edges_pushReport, edges_setFaultRec, following]

end

/-- Settles O14: an event occurrence, a raise and a clear, each of its record and its report. -/
theorem faultOccurrences : Obligations.FaultOccurrences := by
  intro k sc det s
  have hmk : ∀ ty, ty ≠ ReportType.clear → _ := fun ty hty =>
    mkReport_counted k sc det s (ty := ty)
      (r := { flag := true, count := min 65535 ((s.faultRec k sc).count + 1),
              first := if (s.faultRec k sc).count = 0 then some s.time else (s.faultRec k sc).first, last := some s.time })
      hty (counted_ne_zero _) rfl rfl
  refine ⟨?_, ?_, ?_, faultRec_setFaultRec k sc _ s, fun k' sc' h => faultRec_setFaultRec_other k sc _ s h⟩
  · rw [raiseEvent]
    cases hf : (s.faultRec k sc).flag
    · exact congrArg (pushReport · _) (hmk .event (by decide))
    · simp only [if_true, FaultRec.occur, hf]
      rfl
  · rw [raiseCond, isActive]
    cases hf : (s.faultRec k sc).flag
    · exact (followPin_push k sc s _ _).trans (congrArg (fun r => following s (pushReport r _)) (hmk .raise (by decide)))
    · rfl
  · rw [clearCond, isActive]
    cases hf : (s.faultRec k sc).flag
    · rfl
    · exact (followPin_push k sc s _ _).trans
        (congrArg (fun r => following s (pushReport r _)) (mkReport_cleared k sc 0 s _))

/-! ### The rank order (R158) -/

/-- A report is placed after every one it does not rank above, and before the first that it does. -/
theorem rankInsert_split (r : Report) (q : List Report) :
    ∃ a b, q = a ++ b ∧ rankInsert r q = a ++ r :: b ∧ (∀ x ∈ a, r.above x = false) ∧
      ∀ x, b.head? = some x → r.above x = true := by
  induction q with
  | nil => exact ⟨[], [], rfl, rfl, nofun, nofun⟩
  | cons x rest ih =>
    rw [rankInsert]
    split
    next h => exact ⟨[], x :: rest, rfl, rfl, nofun, fun y hy => by simpa [← Option.some.inj hy] using h⟩
    next h =>
      obtain ⟨a, b, hq, hins, ha, hb⟩ := ih
      refine ⟨x :: a, b, by rw [hq, List.cons_append], by rw [hins, List.cons_append], fun y hy => ?_, hb⟩
      rcases List.mem_cons.mp hy with rfl | hy
      · simpa using h
      · exact ha y hy

/-- Settles O15: a report's place in the queue, and what a full queue drops. -/
theorem reportRank : Obligations.ReportRank := by
  intro r s
  refine ⟨fun h => if_pos h, fun h => if_neg (Nat.not_lt.mpr h), ?_⟩
  obtain ⟨a, b, hq, hins, ha, hb⟩ := rankInsert_split r s.faults.queue
  refine ⟨a, b, hq, hins, fun x hx h => ?_, fun x hx => (above_iff r x).mp (hb x hx)⟩
  have hnot := ha x hx
  rw [(above_iff r x).mpr (h.imp_right fun h => ⟨h.1.symm, h.2⟩)] at hnot
  cases hnot

end Sys2Proof.Proofs.Occurrences

namespace Sys2Proof.Proofs.Published

open Sys2Proof Sys2Proof.Machine Sys2Proof.Safety Sys2Proof.Laws

/-! ### The codes name their states (R189) -/

theorem healthCode_inj {a b : Health} : a.code = b.code ↔ a = b := by cases a <;> cases b <;> decide

theorem seqCode_inj {a b : SeqState} : a.code = b.code ↔ a = b := by cases a <;> cases b <;> decide

theorem sceneCode_inj {a b : Scene} : a.code = b.code ↔ a = b := by cases a <;> cases b <;> decide

theorem outcomeCode_inj {a b : FrameOutcome} : a.code = b.code ↔ a = b := by cases a <;> cases b <;> decide

theorem mailCode_inj {a b : MailOutcome} : a.code = b.code ↔ a = b := by cases a <;> cases b <;> decide

theorem cmdCode_inj {a b : CmdResult} : a.code = b.code ↔ a = b := by cases a <;> cases b <;> decide

/-- The code of the candidate scene, 0 for none. -/
def candidateCode (c : Option Scene) : Nat :=
  match c with
  | none => 0
  | some c => c.code + 1

theorem candidateCode_inj {a b : Option Scene} : candidateCode a = candidateCode b ↔ a = b := by
  rcases a with _ | a <;> rcases b with _ | b <;> simp [candidateCode, sceneCode_inj]

theorem boolNat_inj {a b : Bool} : a.toNat = b.toNat ↔ a = b := by cases a <;> cases b <;> decide

theorem bitPair_inj {a b c e : Bool} : natOfBits [a, b] = natOfBits [c, e] ↔ a = c ∧ b = e := by
  cases a <;> cases b <;> cases c <;> cases e <;> decide

theorem levelBits_inj {f g : Nat → Bool} : levelBits f = levelBits g ↔ (List.range 3).map f = (List.range 3).map g := by
  have hrange : List.range 3 = [0, 1, 2] := rfl
  simp only [levelBits, natOfBits, hrange, List.map_cons, List.map_nil, List.cons.injEq, and_true]
  cases f 0 <;> cases f 1 <;> cases f 2 <;> cases g 0 <;> cases g 1 <;> cases g 2 <;> decide

theorem linkKind_inj {k l : Link} :
    linkKind k = linkKind l ↔ k.inFlight.map (fun e => e.kind.code) = l.inFlight.map (fun e => e.kind.code) := by
  have hpos : ∀ e : LinkEntry, e.kind.code ≠ 0 := fun e => by cases h : e.kind <;> simp [EntryKind.code]
  rcases hk : k.inFlight with _ | e <;> rcases hl : l.inFlight with _ | f <;> simp [linkKind, hk, hl, hpos, (hpos _).symm]

theorem linkDepth_eq (k : Link) : linkDepth k = k.waiting.length + k.inFlight.toList.length := by
  rcases h : k.inFlight with _ | e <;> simp [linkDepth, h]

/-! ### The fields show what they are made from -/

theorem fieldVal_inj {o w a b : Nat} : (⟨o, w, a⟩ : FieldVal) = ⟨o, w, b⟩ ↔ a = b := by simp

theorem info_inj {f g : FrameInfo} :
    f = g ↔ f.outcome = g.outcome ∧ f.number = g.number ∧ f.completed = g.completed ∧ f.signature = g.signature := by
  cases f; cases g; simp only [FrameInfo.mk.injEq]; tauto

/-- A buffer's state decides how many fields its record has. -/
theorem bufFields_append {n : Nat} {b c : Buf} {u v : List FieldVal} :
    bufFields n b ++ u = bufFields n c ++ v ↔ b = c ∧ u = v := by
  cases b <;> cases c <;>
    simp [bufFields, Buf.code, Buf.info, info_inj, outcomeCode_inj, BitVec.toNat_inj, and_assoc]

/-- The buffer index and the time of start of the frame in progress, or index 3. -/
def fipPair (f : Option Fip) : Nat × Time :=
  match f with
  | some f => (f.buf, f.start)
  | none => (3, 0)

theorem fipFields_eq (f : Option Fip) :
    fipFields f = [⟨0x14, 1, (fipPair f).1⟩, ⟨0x18, 4, (fipPair f).2.toNat⟩] := by cases f <;> rfl

/-- The ROI total and the partial pixels of a record, 0 where there is none. -/
def statsPair (r : Option Stats) : Nat × Nat :=
  match r with
  | some r => (r.total, r.partials)
  | none => (0, 0)

theorem statsFields_eq (r : Option Stats) :
    statsFields r = [⟨0x6C, 4, (statsPair r).1⟩, ⟨0x70, 4, (statsPair r).2⟩] := by cases r <;> rfl

theorem tone_inj {t u : Table Nat 21} :
    ((List.range 21).map fun e => (⟨0x80 + 2 * e, 2, t.get e 0⟩ : FieldVal)) =
        ((List.range 21).map fun e => (⟨0x80 + 2 * e, 2, u.get e 0⟩ : FieldVal)) ↔
      ((List.range 21).map fun e => t.get e 0) = (List.range 21).map fun e => u.get e 0 := by
  simp only [List.map_inj_left, FieldVal.mk.injEq, true_and]

theorem range3_flatMap (f : Nat → List FieldVal) : (List.range 3).flatMap f = f 0 ++ (f 1 ++ (f 2 ++ [])) := rfl

/-- The fields of the scene monitor. -/
def sceneFields (m : SceneMon) : List FieldVal :=
  [⟨0x50, 1, m.state.code⟩, ⟨0x51, 1, candidateCode m.candidate⟩, ⟨0x52, 1, m.persist⟩, ⟨0x54, 2, m.key⟩]

theorem sceneFields_append {m n : SceneMon} {u v : List FieldVal} :
    sceneFields m ++ u = sceneFields n ++ v ↔ m = n ∧ u = v := by
  cases m; cases n
  simp [sceneFields, sceneCode_inj, candidateCode_inj, and_assoc]

/-- A side's section, part by part. -/
theorem sideFields_eq (d : SideId) (s : State) :
    sideFields d s =
      (let x := s.side d
       [⟨0x00, 1, x.head.health.code⟩, ⟨0x01, 1, x.head.cause⟩, ⟨0x02, 1, x.head.attempts⟩, ⟨0x03, 1, x.head.streak⟩,
         ⟨0x04, 1, x.seq.state.code⟩, ⟨0x05, 1, x.seq.step⟩, ⟨0x06, 1, levelBits (seqLevel x.seq)⟩,
         ⟨0x07, 1, levelBits (pinLevel s d)⟩, ⟨0x15, 1, x.configured.toNat⟩,
         ⟨0x08, 2, x.cap.frameNumber.toNat⟩, ⟨0x0C, 4, x.cap.accepted⟩, ⟨0x10, 4, x.cap.dropped⟩,
         ⟨0x14, 1, (fipPair x.cap.fip).1⟩, ⟨0x18, 4, (fipPair x.cap.fip).2.toNat⟩] ++
        (bufFields 0 (x.cap.bufs.get 0 .free) ++ (bufFields 1 (x.cap.bufs.get 1 .free) ++
          (bufFields 2 (x.cap.bufs.get 2 .free) ++ (sceneFields x.scene ++
            (⟨0x56, 2, tilesNotClear x.tiles⟩ :: ⟨0x58, 2, x.expo.m16⟩ :: ⟨0x5A, 2, x.expo.confirmed⟩ ::
              ⟨0x5C, 1, x.expo.settle⟩ :: ⟨0x60, 4, x.expo.aeHeld⟩ :: ⟨0x64, 1, x.disp.repeats⟩ ::
              ⟨0x68, 4, x.disp.lastAge.toNat⟩ :: ⟨0x6C, 4, (statsPair x.coll.last).1⟩ ::
              ⟨0x70, 4, (statsPair x.coll.last).2⟩ :: (List.range 21).map fun e => ⟨0x80 + 2 * e, 2, x.tone.get e 0⟩)))))) := by
  simp only [sideFields, fipFields_eq, statsFields_eq, range3_flatMap, List.append_assoc, List.cons_append,
    List.nil_append]
  rfl

/-- What a side's section publishes. -/
def shownSide (d : SideId) (s : State) :=
  let x := s.side d
  ((x.head.health, x.head.cause, x.head.attempts, x.head.streak, x.seq.state, x.seq.step,
     (List.range 3).map (pinLevel s d), x.configured),
   (x.cap.frameNumber, x.cap.accepted, x.cap.dropped, fipPair x.cap.fip,
     (List.range 3).map fun n => x.cap.bufs.get n .free),
   (x.scene, x.tiles.list.countP fun y => y.state != .clear),
   (x.expo.m16, x.expo.confirmed, x.expo.settle, x.expo.aeHeld),
   (x.disp.repeats, x.disp.lastAge),
   statsPair x.coll.last,
   (List.range 21).map fun e => x.tone.get e 0)

theorem sideFields_inj {d : SideId} {s t : State} : sideFields d s = sideFields d t ↔ shownSide d s = shownSide d t := by
  have hrange : ∀ f : Nat → Buf, (List.range 3).map f = [f 0, f 1, f 2] := fun _ => rfl
  have hlevel : (s.side d).seq.step = (t.side d).seq.step →
      (List.range 3).map (seqLevel (s.side d).seq) = (List.range 3).map (seqLevel (t.side d).seq) := fun h => by
    have heq : seqLevel (s.side d).seq = seqLevel (t.side d).seq := by funext k; rw [seqLevel, h, seqLevel]
    rw [heq]
  simp only [sideFields_eq, shownSide, List.cons_append, List.nil_append, List.cons.injEq, FieldVal.mk.injEq, true_and,
    bufFields_append, sceneFields_append, tone_inj, Prod.ext_iff, hrange, and_true, healthCode_inj,
    seqCode_inj, levelBits_inj, boolNat_inj, BitVec.toNat_inj, tilesNotClear, and_assoc]
  constructor
  · rintro ⟨h1, h2, h3, h4, h5, h6, -, h⟩
    exact ⟨h1, h2, h3, h4, h5, h6, h⟩
  · rintro ⟨h1, h2, h3, h4, h5, h6, h⟩
    exact ⟨h1, h2, h3, h4, h5, h6, hlevel h6, h⟩

/-! ### The GLOBAL section -/

/-- What the GLOBAL section publishes, the timebase and the duties apart. -/
def shownGlobal (s : State) :=
  let x := s.inj
  let k := s.link
  ((s.cab, s.lamp.on, isActive .reportPath .global s, s.backlight.left.target, s.backlight.right.target,
     s.snoop.cfg.bypL, s.snoop.cfg.bypR),
   (x.w, x.r, x.seq, s.faults.lost, s.faults.queue.length),
   (k.waiting.length + k.inFlight.toList.length, k.inFlight.map (fun e => e.kind.code), s.snoop.cmdEcho,
     s.snoop.cmdResult),
   (s.left.reject, s.right.reject, s.snoop.reject),
   (List.range 6).map fun n => k.results.get n ⟨0, .none, 0⟩)

theorem mailResult_inj {a b : MailResult} : a = b ↔ a.tag = b.tag ∧ a.outcome = b.outcome ∧ a.data = b.data := by
  cases a; cases b; simp only [MailResult.mk.injEq]

theorem globalNoted_inj {s t : State} : globalNoted s = globalNoted t ↔ shownGlobal s = shownGlobal t := by
  have hrange : List.range 6 = [0, 1, 2, 3, 4, 5] := rfl
  simp only [globalNoted, shownGlobal, hrange, List.flatMap_cons, List.flatMap_nil, List.map_cons, List.map_nil,
    List.cons_append, List.nil_append, List.cons.injEq, FieldVal.mk.injEq, true_and, Prod.mk.injEq, and_true,
    mailResult_inj, sceneCode_inj, boolNat_inj, bitPair_inj, BitVec.toNat_inj, linkDepth_eq, linkKind_inj, cmdCode_inj,
    mailCode_inj, State.pathFailing, and_assoc]

/-- Settles O17: a section is flagged where it was, or where what it shows has changed. -/
theorem publishFlags : Obligations.PublishFlags := by
  intro pre post
  obtain ⟨hglobal, hfaults, hleft, hright⟩ := publish_flags pre post
  refine ⟨rfl, rfl, ?_, ?_, ?_, ?_⟩
  · rw [hglobal, Bool.or_eq_true, decide_eq_true_iff]
    exact or_congr_right (not_congr globalNoted_inj)
  · rw [hfaults, Bool.or_eq_true, decide_eq_true_iff]
  · rw [hleft, Bool.or_eq_true, decide_eq_true_iff]
    exact or_congr_right (not_congr sideFields_inj)
  · rw [hright, Bool.or_eq_true, decide_eq_true_iff]
    exact or_congr_right (not_congr sideFields_inj)

end Sys2Proof.Proofs.Published

/-! ## PROOFS: lamps and backlight -/

namespace Sys2Proof.Proofs.Lights

open Sys2Proof Sys2Proof.Machine Sys2Proof.Safety Sys2Proof.Laws Sys2Proof.Proofs.Steps

/-! ### The lamp state (R76) -/

theorem publish_lampCompare (level : Bool) (s : State) :
    publish s (lampCompare (lampPin level s)) =
      { s with
        lamp :=
          { pin := level
            on := s.lamp.on
            measure :=
              if (level != s.snoop.cfg.lampPol) = s.lamp.on then none
              else if s.lamp.measure.isSome then s.lamp.measure else some s.time } } := by
  rw [Resets.lampCompare_eq]
  exact publish_same rfl rfl rfl rfl

/-- Settles O18: LAMPS and the measurement of its level. -/
theorem lampState : Obligations.LampState := by
  intro s
  refine ⟨fun level hr => ?_, fun level hr => ?_, fun t hr ht hlen => ?_, fun h => act_notDue ?_⟩
  · have hlive : exec (.lampsLevelChange level) s = act (fun s => lampCompare (lampPin level s)) s := if_neg (by simp [hr])
    rw [hlive, act_live _ hr, publish_lampCompare]
  · exact if_pos hr
  · exact act_due hr ((lampDue_iff s).mpr ⟨t, ht, hlen⟩)
  · rw [lampDue_iff]
    rintro ⟨t, ht, hlen⟩
    rcases h with h | ⟨u, hu, hlt⟩
    · rw [h] at ht; cases ht
    · rw [hu] at ht; cases ht; omega

/-! ### The backlight's timers (R101 to R105) -/

/-- A monitor's duty after a tick (R105, R106). -/
def nextDuty (g : GlobalCfg) (byp : Bool) (m : Monitor) : Nat :=
  if byp then m.cur
  else if m.cur < m.target then min m.target (m.cur + g.rampStep)
  else if m.target < m.cur then max m.target (m.cur - g.rampStep)
  else m.cur

theorem tickMonitor_eq (g : GlobalCfg) (d : SideId) (m : Monitor) :
    tickMonitor g d m = { m with cur := nextDuty g (bypassOn g d) m } := by
  rw [tickMonitor, nextDuty]
  split <;> rfl

theorem arrives_eq (g : GlobalCfg) (d : SideId) (m : Monitor) :
    arrives g d m = decide (m.cur ≠ m.target ∧ nextDuty g (bypassOn g d) m = m.target) := by
  rw [arrives, tickMonitor_eq, Bool.decide_and]

theorem flagGlobal_when (b : Bool) (t : State) :
    (if b then flagPage .global t else t) = { t with inj := { t.inj with flagGlobal := t.inj.flagGlobal || b } } := by
  cases b
  · rw [Bool.or_false]; rfl
  · rw [Bool.or_true]; rfl

/-- A tick steps both monitors, and flags the GLOBAL section where a duty arrives (R104, R105). -/
theorem rampTickOp_eq (s : State) :
    rampTickOp s =
      (let g := s.snoop.cfg
       let l := s.backlight.left
       let r := s.backlight.right
       { s with
         backlight :=
           { s.backlight with
             left := { l with cur := nextDuty g g.bypL l }, right := { r with cur := nextDuty g g.bypR r }
             rampTimer := some s.time }
         inj :=
           { s.inj with
             flagGlobal :=
               s.inj.flagGlobal || decide (l.cur ≠ l.target ∧ nextDuty g g.bypL l = l.target) ||
                 decide (r.cur ≠ r.target ∧ nextDuty g g.bypR r = r.target) } }) := by
  have hl : tickMonitor s.snoop.cfg .left s.backlight.left =
      { s.backlight.left with cur := nextDuty s.snoop.cfg s.snoop.cfg.bypL s.backlight.left } := tickMonitor_eq _ .left _
  have hr : tickMonitor s.snoop.cfg .right s.backlight.right =
      { s.backlight.right with cur := nextDuty s.snoop.cfg s.snoop.cfg.bypR s.backlight.right } := tickMonitor_eq _ .right _
  simp only [rampTickOp, flagGlobal_when, hl, hr, ← Bool.or_assoc]
  rw [arrives_eq, arrives_eq]
  rfl

/-- Settles O19: the ramp tick, the PWM period and its high times. -/
theorem backlightTimers : Obligations.BacklightTimers := by
  refine ⟨fun s t => ?_, fun s hr => ⟨fun h => ?_, fun h => act_notDue ?_, fun d => ⟨fun hh ho hlen => ?_, fun h => act_notDue ?_⟩⟩⟩
  · intro g next l r hr ht
    refine ⟨fun hlen => ?_, fun hlt => act_notDue ?_⟩
    · refine (act_due hr ((rampDue_iff s).mpr ⟨t, ht, hlen⟩)).trans (congrArg _ ?_)
      rw [rampTickOp_eq]
      exact publish_same rfl rfl rfl rfl
    · rw [rampDue_iff]
      rintro ⟨u, hu, hlen⟩
      rw [ht] at hu; cases hu
      exact absurd hlen (Nat.not_le.mpr hlt)
  · exact (act_due hr ((periodDue_iff s).mpr h)).trans (congrArg _ (publish_same rfl rfl rfl rfl))
  · rw [periodDue_iff]; omega
  · refine (act_due hr ((highEndDue_iff d s).mpr ⟨hh, ho, hlen⟩)).trans (congrArg _ ?_)
    cases d <;> exact publish_same rfl rfl rfl rfl
  · rw [highEndDue_iff]
    rintro ⟨hh, ho, hlen⟩
    rcases h with h | h | h
    · rw [h] at hh; cases hh
    · omega
    · omega

/-! ### The target duty and the cab state (R80, R103) -/

theorem reformTarget_of_same {d : SideId} {s : State} (h : (s.monitor d).target = targetOf s d) : reformTarget d s = s :=
  if_pos h

theorem reformTarget_of_change {d : SideId} {s : State} (h : (s.monitor d).target ≠ targetOf s d) :
    reformTarget d s =
      updMonitor d (fun m => { m with target := targetOf s d }) { s with inj := { s.inj with flagGlobal := true } } := by
  refine (if_neg h).trans ?_
  cases d <;> rfl

theorem inService_iff (x : Side) : x.inService = true ↔ x.head.health = .running ∨ x.head.health = .degraded := by
  rw [Side.inService]
  cases x.head.health <;> simp [Health.inService]

/-- The scene of a pair of sides, of which `a` and `b` say whether they are members (R80). -/
def pairScene (a b : Bool) (x y c : Scene) : Scene :=
  if a then (if b then x.darker y else x) else if b then y else c

theorem pairScene_none (x y c : Scene) : pairScene false false x y c = c := rfl

theorem pairScene_night {a b : Bool} {x y : Scene} (c : Scene)
    (h : a = true ∧ x = .night ∨ b = true ∧ y = .night) : pairScene a b x y c = .night := by
  rcases h with ⟨rfl, rfl⟩ | ⟨rfl, rfl⟩
  · cases b <;> cases y <;> rfl
  · cases a <;> cases x <;> rfl

theorem pairScene_dusk {a b : Bool} {x y : Scene} (c : Scene) (hx : a = true → x ≠ .night) (hy : b = true → y ≠ .night)
    (h : a = true ∧ x = .dusk ∨ b = true ∧ y = .dusk) : pairScene a b x y c = .dusk := by
  rcases h with ⟨rfl, rfl⟩ | ⟨rfl, rfl⟩
  · cases b with
    | false => rfl
    | true =>
      cases y with
      | night => exact absurd rfl (hy rfl)
      | _ => rfl
  · cases a with
    | false => rfl
    | true =>
      cases x with
      | night => exact absurd rfl (hx rfl)
      | _ => rfl

theorem pairScene_day {a b : Bool} {x y : Scene} (c : Scene) (hx : a = true → x = .day) (hy : b = true → y = .day)
    (h : a = true ∨ b = true) : pairScene a b x y c = .day := by
  cases a with
  | true =>
    cases hx rfl
    cases b with
    | true => cases hy rfl; rfl
    | false => rfl
  | false =>
    have hb := h.resolve_left nofun
    subst hb
    cases hy rfl
    rfl

theorem cabOf_eq (s : State) :
    cabOf s = pairScene s.left.inService s.right.inService s.left.scene.state s.right.scene.state s.cab := rfl

/-- Settles O20: the target duty, and the cab state with it. -/
theorem targetDuty : Obligations.TargetDuty := by
  refine ⟨fun s d => ⟨?_, reformTarget_of_same, reformTarget_of_change⟩, fun s => ?_⟩
  · rw [targetOf]
    cases s.cab <;> rfl
  · have hmember : ∀ d, (s.side d).inService = true ↔ _ := fun d => inService_iff (s.side d)
    refine ⟨cabOf s, fun h => ?_, ?_, fun hnight => ?_, fun hday => ?_, fun h => if_pos h, fun h => if_neg h⟩
    · have hl : s.left.inService = false := Bool.eq_false_of_not_eq_true fun hs => h .left ((hmember .left).mp hs)
      have hr : s.right.inService = false := Bool.eq_false_of_not_eq_true fun hs => h .right ((hmember .right).mp hs)
      rw [cabOf_eq, hl, hr, pairScene_none]
    · rintro ⟨d, hd, hs⟩
      refine pairScene_night _ ?_
      cases d with
      | left => exact .inl ⟨(hmember .left).mpr hd, hs⟩
      | right => exact .inr ⟨(hmember .right).mpr hd, hs⟩
    · rintro ⟨d, hd, hs⟩
      refine pairScene_dusk _ (fun h => hnight .left ((hmember .left).mp h)) (fun h => hnight .right ((hmember .right).mp h)) ?_
      cases d with
      | left => exact .inl ⟨(hmember .left).mpr hd, hs⟩
      | right => exact .inr ⟨(hmember .right).mpr hd, hs⟩
    · rintro ⟨d, hd⟩
      refine pairScene_day _ (fun h => hday .left ((hmember .left).mp h)) (fun h => hday .right ((hmember .right).mp h)) ?_
      cases d with
      | left => exact .inl ((hmember .left).mpr hd)
      | right => exact .inr ((hmember .right).mpr hd)

end Sys2Proof.Proofs.Lights

/-! ## PROOFS: watchdogs, stages and sequencers -/

namespace Sys2Proof.Proofs.Timers

open Sys2Proof Sys2Proof.Machine Sys2Proof.Safety Sys2Proof.Laws Sys2Proof.Proofs.Steps

section
variable (d : SideId) (s : State)

/-- A change of a side is what it makes of the side it finds. -/
theorem updSide_congr {f g : Side → Side} (h : f (s.side d) = g (s.side d)) : updSide d f s = updSide d g s := by
  cases d with
  | left => exact congrArg (fun x => { s with left := x }) h
  | right => exact congrArg (fun x => { s with right := x }) h

/-! ### The watchdogs (R22, R93) -/

/-- An expiry of the frame watchdog: counted, reported and restarted (R22). -/
def frameExpired : State :=
  updCap d (fun c => { c with expiries := min 15 ((s.side d).cap.expiries + 1), watchdog := some s.time })
    (raiseEvent .frameMissing (scopeOf d) (BitVec.ofNat 32 (min 15 ((s.side d).cap.expiries + 1))) s)

theorem frameExpiry_eq (release : State → State) :
    frameExpiry release d s =
      if (s.side d).cfg.cap.missingLimit ≤ min 15 ((s.side d).cap.expiries + 1) then
        failRunning release d 1 (frameExpired d s)
      else frameExpired d s := by
  have hstate : ∀ n, updCap d (fun c => { c with watchdog := some s.time })
      (raiseEvent .frameMissing (scopeOf d) (BitVec.ofNat 32 n) (updCap d (fun c => { c with expiries := n }) s)) =
      updCap d (fun c => { c with expiries := n, watchdog := some s.time })
        (raiseEvent .frameMissing (scopeOf d) (BitVec.ofNat 32 n) s) := by
    intro n
    simp only [updCap]
    rw [raiseEvent_updSide, updSide_updSide]
    exact fun _ => rfl
  simp only [frameExpiry, hstate, satAdd, frameExpired]
  simp

theorem displayExpiry_eq {w : Time} (h : (s.side d).disp.watchdog = some w) :
    displayExpiry d s = updDisp d (fun p => { p with expired := true }) (raiseCond .displayIdle (scopeOf d) w s) := by
  rw [displayExpiry, h, Option.getD_some, updDisp]
  exact raiseCond_updSide _ _ _ _ _ _ (fun _ => rfl) fun _ => rfl

end

/-- Settles O21: the watchdogs' expiries, and when there is none. -/
theorem watchdogExpiries : Obligations.WatchdogExpiries := by
  intro s d
  refine ⟨fun w hr hserv hw hlen hlim => ?_, fun w hr hserv hw hexp hlen => ?_, fun h => act_notDue ?_, fun h => act_notDue ?_⟩
  · refine (act_due hr ((frameDue_iff d s).mpr ⟨hserv, w, hw, hlen⟩)).trans ?_
    rw [frameExpiry_eq, if_neg (Nat.not_le.mpr hlim), frameExpired]
  · refine (act_due hr ((displayDue_iff d s).mpr ⟨hserv, hexp, w, hw, hlen⟩)).trans ?_
    rw [displayExpiry_eq d s hw]
  · rw [frameDue_iff]
    rintro ⟨hserv, t, ht, hlen⟩
    rcases h with h | h | ⟨w, hw, hlt⟩
    · rw [h] at hserv; cases hserv
    · rw [h] at ht; cases ht
    · rw [hw] at ht; cases ht
      exact absurd hlen (Nat.not_le.mpr hlt)
  · rw [displayDue_iff]
    rintro ⟨hserv, hexp, t, ht, hlen⟩
    rcases h with h | h | h | ⟨w, hw, hlt⟩
    · rw [h] at hserv; cases hserv
    · rw [h] at ht; cases ht
    · rw [h] at hexp; cases hexp
    · rw [hw] at ht; cases ht
      exact absurd hlen (Nat.not_le.mpr hlt)

/-! ### Stage timers (R114, R122) -/

section
variable {d : SideId} {s : State} {t : Timer}

/-- A side at its power-up values (R113). -/
theorem enterPowering_eq (d : SideId) (s : State) :
    enterPowering d s =
      updSide d (fun x =>
        { x with
          tiles := Table.const 128 ⟨.clear, 0, 256⟩
          expo := { x.expo with confirmed := 0, settle := 0 }
          cap := { x.cap with prevSig := none, identical := 0 }
          head := { x.head with health := .powering, goodFrames := 0, streak := 0 }
          seq := { state := .raising, step := 1, timer := some ⟨s.time, x.cfg.head.delay12⟩ } }) s := by
  rw [enterPowering, seqRaise, updSeq, updSide_updSide]
  refine updSide_congr d s ?_
  simp only [side_updSide, updSide_frame, State.timer]
  rfl

/-- A timer that is not due, or a side in another state, leaves a command without effect. -/
theorem timer_notDue {P : Prop} (h : (s.time - t.start).toNat < t.len ∨ ¬P) :
    ¬(P ∧ ∃ u, some t = some u ∧ u.len ≤ (s.time - u.start).toNat) := by
  rintro ⟨hp, u, hu, hlen⟩
  cases hu
  rcases h with h | h
  · exact absurd hlen (Nat.not_le.mpr h)
  · exact h hp

end

/-- Settles O23: the stage timer's expiries. -/
theorem stageTimers : Obligations.StageTimers := by
  intro s d t x hr ht
  refine ⟨fun hlen => ⟨fun hh => ?_, fun hh => ?_⟩, fun h => act_notDue ?_, fun h => act_notDue ?_⟩
  · exact act_due hr ((stabDue_iff d s).mpr ⟨hh, t, ht, hlen⟩)
  · refine (act_due hr ((dwellDue_iff d s).mpr ⟨hh, t, ht, hlen⟩)).trans ?_
    simp only [dwellEnd, enterPowering_eq, updHead, updSide_updSide, updSide_frame]
  · rw [stabDue_iff, show (s.side d).head.stageTimer = some t from ht]
    exact timer_notDue h
  · rw [dwellDue_iff, show (s.side d).head.stageTimer = some t from ht]
    exact timer_notDue h

/-! ### The sequencer (R127, R128) -/

section
variable {d : SideId} {s : State}

theorem raiseStep_one (h : (s.side d).seq.step = 1) :
    raiseStep d s =
      updSeq d (fun _ => { state := .raising, step := 2, timer := some ⟨s.time, (s.side d).cfg.head.delay23⟩ }) s :=
  if_pos h

/-- The last enable is asserted: "raise complete" (R114, R127). -/
theorem raiseStep_two (h : (s.side d).seq.step = 2) :
    raiseStep d s =
      updSide d (fun x =>
        { x with
          seq := { state := .high, step := 3, timer := none }
          head :=
            if x.head.health = .powering then
              { x.head with health := .stabilizing, stageTimer := some ⟨s.time, (s.side d).cfg.head.stabMs * 1000⟩ }
            else x.head }) s := by
  have hne : ¬(s.side d).seq.step = 1 := by omega
  refine (if_neg hne).trans ?_
  simp only [raiseComplete, side_updSeq, updSeq_frame, State.timer]
  split
  next hp =>
    rw [updHead, updSeq, updSide_updSide]
    exact updSide_congr d s (by simp only [hp, if_true])
  next hp =>
    exact updSide_congr d s (by simp only [hp, if_false])

theorem seqRelease_two (h : (s.side d).seq.step = 2) :
    seqRelease d s =
      updSeq d (fun _ => { state := .lowering, step := 1, timer := some ⟨s.time, (s.side d).cfg.head.delay12⟩ }) s := by
  simp only [seqRelease, h]
  rfl

/-- LOW is reached and reported (R122, R123, R128). -/
theorem seqRelease_one (h : (s.side d).seq.step = 1) :
    seqRelease d s =
      updSide d (fun x =>
        { x with
          seq := { state := .low, step := 0, timer := none }
          head :=
            if x.head.awaitingLower = false then x.head
            else if x.head.health = .recovering then
              { x.head with
                awaitingLower := false, stageTimer := some ⟨s.time, (s.side d).cfg.head.offDwellMs * 1000⟩ }
            else if x.head.health = .stopping then { x.head with awaitingLower := false, health := .off }
            else { x.head with awaitingLower := false } }) s := by
  simp only [seqRelease, h]
  rw [reportLow_eq, updHead, updSeq, updSide_updSide]
  exact updSide_congr d s (by simp only [side_updSide, updSide_frame])

end

/-- Settles O24: the sequencer's steps. -/
theorem sequencerSteps : Obligations.SequencerSteps := by
  intro s d t x hd hr ht
  have hraise : t.len ≤ (s.time - t.start).toNat → (s.side d).seq.state = .raising →
      exec (.raiseStepExpiry d) s = .next (publish s (raiseStep d s)) := fun hlen hst =>
    act_due hr ((raiseDue_iff d s).mpr ⟨hst, t, ht, hlen⟩)
  have hlower : t.len ≤ (s.time - t.start).toNat → (s.side d).seq.state = .lowering →
      exec (.lowerStepExpiry d) s = .next (publish s (seqRelease d s)) := fun hlen hst =>
    act_due hr ((lowerDue_iff d s).mpr ⟨hst, t, ht, hlen⟩)
  refine ⟨fun hlen => ⟨fun hst hstep => ?_, fun hst hstep => ?_, fun hst hstep => ?_, fun hst hstep => ?_⟩,
    fun h => act_notDue ?_, fun h => act_notDue ?_⟩
  · exact (hraise hlen hst).trans (by rw [raiseStep_one hstep])
  · exact (hraise hlen hst).trans (by rw [raiseStep_two hstep])
  · exact (hlower hlen hst).trans (by rw [seqRelease_two hstep])
  · exact (hlower hlen hst).trans (by rw [seqRelease_one hstep])
  · rw [raiseDue_iff, show (s.side d).seq.timer = some t from ht]
    exact timer_notDue h
  · rw [lowerDue_iff, show (s.side d).seq.timer = some t from ht]
    exact timer_notDue h

end Sys2Proof.Proofs.Timers

/-! ## PROOFS: the entry to FAILED -/

namespace Sys2Proof.Proofs.Failing

open Sys2Proof Sys2Proof.Machine Sys2Proof.Safety Sys2Proof.Laws Sys2Proof.Proofs.Steps

section
variable {d : SideId} {s : State} {k : FaultKind} {sc : Scope}

/-! ### The counts of the fault records (R153) -/

theorem faultRec_congr {t : State} (h : t.faults = s.faults) (k : FaultKind) (sc : Scope) : t.faultRec k sc = s.faultRec k sc := by
  rw [State.faultRec, h, State.faultRec]

theorem faultRec_sameIndex {k' : FaultKind} {sc' : Scope} (h : recIndex k' sc' = recIndex k sc) (t : State) :
    t.faultRec k' sc' = t.faultRec k sc := by
  rw [State.faultRec, h, State.faultRec]

/-- A clear leaves every count. -/
theorem count_clearCond (k : FaultKind) (sc : Scope) (s : State) (k' : FaultKind) (sc' : Scope) :
    ((clearCond k sc s).faultRec k' sc').count = (s.faultRec k' sc').count := by
  by_cases h : recIndex k' sc' = recIndex k sc
  · rw [faultRec_sameIndex h, faultRec_sameIndex h, clearCond]
    split
    · simp
    · rfl
  · rw [faultRec_clearCond_other _ _ _ h]

theorem count_clearHealth (k : FaultKind) (sc : Scope) :
    ((clearHealth d s).faultRec k sc).count = (s.faultRec k sc).count := by
  rw [clearHealth, count_clearCond, count_clearCond, count_clearCond]

theorem count_teardown (k : FaultKind) (sc : Scope) : ((teardown d s).faultRec k sc).count = (s.faultRec k sc).count := by
  rw [teardown, count_clearCond]
  exact congrArg FaultRec.count (faultRec_congr (by simp) k sc)

theorem count_stopWatchdogs (k : FaultKind) (sc : Scope) :
    ((stopWatchdogs d s).faultRec k sc).count = (s.faultRec k sc).count := by
  rw [stopWatchdogs, count_clearCond]
  exact congrArg FaultRec.count (faultRec_congr (by simp) k sc)

/-- A raise of a condition that is not active is one more occurrence of it. -/
theorem count_raiseCond (det : BitVec 32) (h : isActive k sc s = false) :
    ((raiseCond k sc det s).faultRec k sc).count = min 65535 ((s.faultRec k sc).count + 1) := by
  rw [raiseCond, if_neg (by simp [h]), faultRec_followPin, faultRec_pushReport, faultRec_setFaultRec]
  rfl

theorem count_raiseEvent (det : BitVec 32) :
    ((raiseEvent k sc det s).faultRec k sc).count = min 65535 ((s.faultRec k sc).count + 1) := by
  rw [faultRec_raiseEvent]
  rfl

/-- An event leaves FAULT_N. -/
theorem asserted_raiseEvent (det : BitVec 32) (hk : isConditionCode k.code = false) (h : s.faultAsserted = false) :
    (raiseEvent k sc det s).faultAsserted = false := by
  have hcond : ∀ {k' sc'}, isConditionCode k'.code = true → isActive k' sc' (raiseEvent k sc det s) = isActive k' sc' s :=
    fun {k' sc'} hk' => isActive_raiseEvent_other _ _ _ _ fun hi => by
      have hcode := congrArg codeOfIndex hi
      rw [OutputPins.codeOfIndex_recIndex, OutputPins.codeOfIndex_recIndex] at hcode
      rw [hcode, hk] at hk'
      cases hk'
  refine Bool.eq_false_of_not_eq_true fun hr => ?_
  refine Bool.false_ne_true (h.symm.trans ((OutputPins.faultAsserted_iff s).mpr ?_))
  rcases (OutputPins.faultAsserted_iff _).mp hr with hin | ⟨e, he⟩ | hpath | ⟨k', sc', hc, hactive, hlevel⟩
  · exact .inl (by simpa using hin)
  · exact .inr (.inl ⟨e, by simpa using he⟩)
  · exact .inr (.inr (.inl (by rwa [hcond rfl] at hpath)))
  · refine .inr (.inr (.inr ⟨k', sc', hc, by rwa [hcond (OutputPins.isConditionCode_code hc)] at hactive, ?_⟩))
    simpa [kindLevel] using hlevel

/-! ### A monitor and its target -/

/-- A monitor's target is re-formed, and stays so over a change that the target is not formed from. -/
theorem target_congr {t : State} (hb : t.backlight = s.backlight) (hc : t.cab = s.cab) (hn : t.snoop.cfg = s.snoop.cfg)
    (hs : (t.side d).head.health = .failed ↔ (s.side d).head.health = .failed) (h : (s.monitor d).target = targetOf s d) : (t.monitor d).target = targetOf t d := by
  simpa [State.monitor, targetOf, hb, hc, hn, hs] using h

/-! ### The entry to RECOVERING (R122) -/

/-- Nothing is released behind the teardown. -/
def Plain (release : State → State) (d : SideId) (s : State) : Prop :=
  ∀ t : State, (t.side d).deferred = (s.side d).deferred →
    (t.side d).cap.fip = (s.side d).cap.fip ∨ (t.side d).cap.fip = none → teardownRelease release d t = teardown d t

theorem plain_deferred (h : (s.side d).deferred = false ∨ (s.side d).cap.fip = none) : Plain (releaseDeferred d) d s := by
  intro t hd hf
  refine teardownRelease_plain ?_
  rcases h with h | h
  · exact .inl (hd.trans h)
  · exact .inr (hf.elim (·.trans h) id)

theorem faults_leaveUp {release : State → State} (was : Bool)
    (h : teardownRelease release d (clearHealth d s) = teardown d (clearHealth d s)) :
    (leaveUp release was d s).faults = (stopWatchdogs d (teardown d (clearHealth d s))).faults := by
  simp only [leaveUp, h]
  cases was <;> simp

theorem count_leaveUp {release : State → State} (was : Bool)
    (h : teardownRelease release d (clearHealth d s) = teardown d (clearHealth d s)) (k : FaultKind) (sc : Scope) :
    ((leaveUp release was d s).faultRec k sc).count = (s.faultRec k sc).count := by
  rw [faultRec_congr (faults_leaveUp was h), count_stopWatchdogs, count_teardown, count_clearHealth]

/-- A side that has left its up states has no health condition and no link entry. -/
theorem leaveUp_clear {release : State → State} (was : Bool)
    (h : teardownRelease release d (clearHealth d s) = teardown d (clearHealth d s)) :
    isActive .sideFailed (scopeOf d) (leaveUp release was d s) = false ∧
      isActive .sideDegraded (scopeOf d) (leaveUp release was d s) = false ∧
      ∀ e ∈ linkEntries (leaveUp release was d s).link, e.side ≠ d := by
  obtain ⟨s3, heq, -, hfailed, hdegraded, -, hgone, -⟩ := leaveUp_down release was d s h
  rw [heq]
  have hfaults : (seqLower d (updHead d (fun h => { h with awaitingLower := true }) s3)).faults = s3.faults := by simp
  exact ⟨(isActive_congr hfaults _ _).trans hfailed, (isActive_congr hfaults _ _).trans hdegraded, by simpa using hgone⟩

/-! ### FAILED, before the recovery test (R120) -/

/-- A side in FAILED with its table torn down and its watchdogs stopped. -/
def failedDown (d : SideId) (code : Nat) (s : State) : State :=
  stopWatchdogs d (teardown d (raiseCond .sideFailed (scopeOf d) (BitVec.ofNat 32 code)
    (clearCond .sideDegraded (scopeOf d) (Kept.failedNow d code s))))

/-- A side in FAILED with the cab state and its target re-formed. -/
def failedState (d : SideId) (code : Nat) (s : State) : State := reformTarget d (reformCab (failedDown d code s))

theorem enterFailed_plain {release : State → State} (code : Nat) (h : Plain release d s) :
    enterFailed release d code s = recoveryTest release d (failedState d code s) := by
  rw [Kept.enterFailed_eq, Kept.afterFailed, h _ (by simp [Kept.failedNow]) (.inl (by simp [Kept.failedNow]))]
  rfl

theorem faultRec_failedState (code : Nat) (k : FaultKind) (sc : Scope) :
    (failedState d code s).faultRec k sc = (failedDown d code s).faultRec k sc :=
  faultRec_congr (by simp [failedState]) k sc

theorem faultRec_failedNow (code : Nat) (k : FaultKind) (sc : Scope) :
    (Kept.failedNow d code s).faultRec k sc = s.faultRec k sc := by
  rw [Kept.failedNow, faultRec_followPin]
  exact faultRec_congr (by simp) k sc

theorem count_failedState {code : Nat} (h : recIndex k sc ≠ recIndex .sideFailed (scopeOf d)) :
    ((failedState d code s).faultRec k sc).count = (s.faultRec k sc).count := by
  rw [faultRec_failedState, failedDown, count_stopWatchdogs, count_teardown, faultRec_raiseCond_other _ _ _ _ h,
    count_clearCond, faultRec_failedNow]

theorem count_sideFailed {code : Nat} (h : isActive .sideFailed (scopeOf d) s = false) :
    ((failedState d code s).faultRec .sideFailed (scopeOf d)).count =
      min 65535 ((s.faultRec .sideFailed (scopeOf d)).count + 1) := by
  have hne : recIndex .sideFailed (scopeOf d) ≠ recIndex .sideDegraded (scopeOf d) :=
    recIndex_side_ne d (by decide) (by decide)
  rw [faultRec_failedState, failedDown, count_stopWatchdogs, count_teardown, count_raiseCond, count_clearCond,
    faultRec_failedNow]
  rwa [isActive_clearCond_other _ _ _ hne, isActive, faultRec_failedNow]

theorem sideDegraded_failedState (code : Nat) : isActive .sideDegraded (scopeOf d) (failedState d code s) = false := by
  have hne : ∀ {k'}, FaultKind.sideDegraded ≠ k' → recIndex .sideDegraded (scopeOf d) ≠ recIndex k' (scopeOf d) :=
    fun h => recIndex_side_ne d h (by decide)
  rw [isActive, faultRec_failedState, failedDown, faultRec_stopWatchdogs _ _ (hne (by decide)),
    faultRec_teardown _ _ (hne (by decide)), faultRec_raiseCond_other _ _ _ _ (hne (by decide))]
  exact isActive_clearCond _ _ _

theorem side_failedState (code : Nat) :
    ((failedState d code s).side d).seq = (s.side d).seq ∧ ((failedState d code s).side d).cfg = (s.side d).cfg ∧
      ((failedState d code s).side d).head.attempts = (s.side d).head.attempts ∧
      ((failedState d code s).side d).deferred = (s.side d).deferred ∧
      ((failedState d code s).side d).cap.fip = none ∧ (failedState d code s).link = s.link := by
  simp [failedState, failedDown, Kept.failedNow]

theorem target_failedState (code : Nat) :
    ((failedState d code s).monitor d).target = targetOf (failedState d code s) d := monitor_reformTarget d _

/-! ### The recovery test (R121) -/

/-- A side that may still recover leaves FAILED at once. -/
theorem recoveryTest_recover {release : State → State} {t : State} (ha : (t.side d).cfg.head.autoRecover = true)
    (hn : (t.side d).head.attempts < (t.side d).cfg.head.recoverMax) :
    recoveryTest release d t = enterRecovering release d (updHead d (fun h => { h with attempts := h.attempts + 1 }) t) := by
  rw [recoveryTest, if_pos ha, if_pos hn]

theorem recoveryTest_exhausted {release : State → State} {t : State} (ha : (t.side d).cfg.head.autoRecover = true)
    (hn : ¬(t.side d).head.attempts < (t.side d).cfg.head.recoverMax) :
    recoveryTest release d t = raiseEvent .recoveryExhausted (scopeOf d) (BitVec.ofNat 32 (t.side d).head.attempts) t := by
  rw [recoveryTest, if_pos ha, if_neg hn]

theorem recoveryTest_manual {release : State → State} {t : State} (ha : ¬(t.side d).cfg.head.autoRecover = true) :
    recoveryTest release d t = t := if_neg ha

end
/-! ### What an entry to FAILED leaves, the automatic recovery test taken (R120, R121) -/

section
variable {release : State → State} {d : SideId} {s : State} (code : Nat)

/-- A passage through FAILED into recovery. -/
theorem enterFailed_recovered (h : Plain release d s) (ha : (s.side d).cfg.head.autoRecover = true)
    (hn : (s.side d).head.attempts < (s.side d).cfg.head.recoverMax) :
    isActive .sideFailed (scopeOf d) (enterFailed release d code s) = false ∧
      isActive .sideDegraded (scopeOf d) (enterFailed release d code s) = false ∧
      (∀ e ∈ linkEntries (enterFailed release d code s).link, e.side ≠ d) ∧
      ∀ k sc, ((enterFailed release d code s).faultRec k sc).count = ((failedState d code s).faultRec k sc).count := by
  obtain ⟨-, hcfg, hatt, hdef, hfip, -⟩ := side_failedState (d := d) (s := s) code
  rw [enterFailed_plain code h, recoveryTest_recover (by rwa [hcfg]) (by rwa [hcfg, hatt]), enterRecovering]
  have hplain := fun t (ht : (t.side d).deferred = (s.side d).deferred) hf => h t ht (.inr hf)
  have hclear := hplain (clearHealth d (followPin
    (updHead d (fun h => { h with attempts := h.attempts + 1 }) (failedState d code s))
    (updHead d (fun h => { h with health := .recovering })
      (updHead d (fun h => { h with attempts := h.attempts + 1 }) (failedState d code s)))))
    (by simpa using hdef) (by simpa using hfip)
  obtain ⟨hsf, hsd, hgone⟩ := leaveUp_clear
    ((updHead d (fun h => { h with attempts := h.attempts + 1 }) (failedState d code s)).side d).inService hclear
  refine ⟨hsf, hsd, hgone, fun k sc => ?_⟩
  rw [count_leaveUp _ hclear, faultRec_followPin]
  exact congrArg FaultRec.count (faultRec_congr (by simp) k sc)

/-- FAILED with no recovery left, or none asked for. -/
theorem enterFailed_stayed (h : Plain release d s)
    (hn : ¬((s.side d).cfg.head.autoRecover = true ∧ (s.side d).head.attempts < (s.side d).cfg.head.recoverMax)) :
    enterFailed release d code s =
      if (s.side d).cfg.head.autoRecover then
        raiseEvent .recoveryExhausted (scopeOf d) (BitVec.ofNat 32 (s.side d).head.attempts) (failedState d code s)
      else failedState d code s := by
  obtain ⟨-, hcfg, hatt, -⟩ := side_failedState (d := d) (s := s) code
  rw [enterFailed_plain code h]
  split
  next ha =>
    rw [recoveryTest_exhausted (by rwa [hcfg]) (by rw [hcfg, hatt]; exact fun h => hn ⟨ha, h⟩), hatt]
  next ha => exact recoveryTest_manual (by rwa [hcfg])

theorem count_enterFailed (h : Plain release d s) {k : FaultKind} {sc : Scope}
    (hk : recIndex k sc ≠ recIndex .recoveryExhausted (scopeOf d)) :
    ((enterFailed release d code s).faultRec k sc).count = ((failedState d code s).faultRec k sc).count := by
  by_cases hrec : (s.side d).cfg.head.autoRecover = true ∧ (s.side d).head.attempts < (s.side d).cfg.head.recoverMax
  · exact (enterFailed_recovered code h hrec.1 hrec.2).2.2.2 k sc
  · rw [enterFailed_stayed code h hrec]
    split
    · rw [faultRec_raiseEvent_other _ _ _ _ hk]
    · rfl

theorem sideDegraded_enterFailed (h : Plain release d s) :
    isActive .sideDegraded (scopeOf d) (enterFailed release d code s) = false := by
  by_cases hrec : (s.side d).cfg.head.autoRecover = true ∧ (s.side d).head.attempts < (s.side d).cfg.head.recoverMax
  · exact (enterFailed_recovered code h hrec.1 hrec.2).2.1
  · rw [enterFailed_stayed code h hrec]
    split
    · rw [isActive_raiseEvent_other _ _ _ _ (recIndex_side_ne d (by decide) (by decide)), sideDegraded_failedState]
    · exact sideDegraded_failedState code

/-- The sequencer, the link entries, the target and the count of RECOVERY_EXHAUSTED of a side that stays FAILED. -/
theorem stayed_failed (h : Plain release d s)
    (hn : ¬((s.side d).cfg.head.autoRecover = true ∧ (s.side d).head.attempts < (s.side d).cfg.head.recoverMax)) :
    ((enterFailed release d code s).side d).seq = (s.side d).seq ∧ (enterFailed release d code s).link = s.link ∧
      ((enterFailed release d code s).monitor d).target = targetOf (enterFailed release d code s) d ∧
      ((enterFailed release d code s).faultRec .recoveryExhausted (scopeOf d)).count =
        if (s.side d).cfg.head.autoRecover then min 65535 ((s.faultRec .recoveryExhausted (scopeOf d)).count + 1)
        else (s.faultRec .recoveryExhausted (scopeOf d)).count := by
  obtain ⟨hseq, -, -, -, -, hlink⟩ := side_failedState (d := d) (s := s) code
  have hcount := count_failedState (s := s) (code := code)
    (recIndex_side_ne (k := .recoveryExhausted) (k' := .sideFailed) d (by decide) (by decide))
  rw [enterFailed_stayed code h hn]
  split
  · refine ⟨by simp [hseq], by simp [hlink], ?_, by rw [count_raiseEvent, hcount]⟩
    exact target_congr (s := failedState d code s) (by simp) (by simp) (by simp) (by simp) (target_failedState code)
  · exact ⟨hseq, hlink, target_failedState code, hcount⟩

end

/-! ### An expiry at MISSING_LIMIT (R22, R120) -/

section
variable (d : SideId) (s : State)

theorem faults_frameExpired :
    (Timers.frameExpired d s).faults =
      (raiseEvent .frameMissing (scopeOf d) (BitVec.ofNat 32 (min 15 ((s.side d).cap.expiries + 1))) s).faults := by
  simp [Timers.frameExpired]

theorem faultRec_frameExpired {k : FaultKind} {sc : Scope} (h : recIndex k sc ≠ recIndex .frameMissing (scopeOf d)) :
    (Timers.frameExpired d s).faultRec k sc = s.faultRec k sc := by
  rw [faultRec_congr (faults_frameExpired d s), faultRec_raiseEvent_other _ _ _ _ h]

theorem count_frameExpired :
    ((Timers.frameExpired d s).faultRec .frameMissing (scopeOf d)).count =
      min 65535 ((s.faultRec .frameMissing (scopeOf d)).count + 1) := by
  rw [faultRec_congr (faults_frameExpired d s), count_raiseEvent]

theorem side_frameExpired :
    (Timers.frameExpired d s).side d =
      { s.side d with
        cap := { (s.side d).cap with expiries := min 15 ((s.side d).cap.expiries + 1), watchdog := some s.time } } := by
  simp [Timers.frameExpired]

theorem pins_frameExpired (h : s.faultAsserted = false) :
    (Timers.frameExpired d s).faultAsserted = false ∧ (Timers.frameExpired d s).faults.edges = s.faults.edges := by
  have hevent := asserted_raiseEvent (sc := scopeOf d) (k := .frameMissing)
    (BitVec.ofNat 32 (min 15 ((s.side d).cap.expiries + 1))) (by decide) h
  rw [faults_frameExpired, edges_raiseEvent]
  refine ⟨(faultAsserted_congr ?_ ?_).trans hevent, rfl⟩
  · cases d <;> simp [pinView, Timers.frameExpired, updCap, updSide]
  · rw [faults_frameExpired]

end

/-- Settles O22: an expiry of the frame watchdog at MISSING_LIMIT. -/
theorem missingLimitFailsSide : Obligations.MissingLimitFailsSide := by
  intro s d w x n hr hserv hw hlen hlim
  have hside := side_frameExpired d s
  have hfail : failRunning (releaseDeferred d) d 1 (Timers.frameExpired d s) =
      enterFailed (releaseDeferred d) d 1 (Timers.frameExpired d s) := by
    refine if_pos ?_
    rw [hside]; exact hserv
  have hexec : exec (.frameMissing d) s =
      .next (publish s (enterFailed (releaseDeferred d) d 1 (Timers.frameExpired d s))) := by
    refine (act_due hr ((frameDue_iff d s).mpr ⟨hserv, w, hw, hlen⟩)).trans ?_
    rw [Timers.frameExpiry_eq, if_pos hlim, hfail]
  refine ⟨hexec, fun hdef => ⟨_, hexec, ?_⟩⟩
  have hplain : Plain (releaseDeferred d) d (Timers.frameExpired d s) := plain_deferred (by rw [hside]; exact hdef)
  obtain ⟨⟨htorn, hother, hsnoop, hlamp, hdown, -, b, hd, q, hleft⟩, hcause, hrec, hstay⟩ :=
    enterFailed_torn _ d 1 _ hplain
  have hactive : ∀ k sc, isActive k sc (publish s (enterFailed (releaseDeferred d) d 1 (Timers.frameExpired d s))) =
      isActive k sc (enterFailed (releaseDeferred d) d 1 (Timers.frameExpired d s)) :=
    fun k sc => isActive_congr (by simp) k sc
  have hfaultRec : ∀ k sc, (publish s (enterFailed (releaseDeferred d) d 1 (Timers.frameExpired d s))).faultRec k sc =
      (enterFailed (releaseDeferred d) d 1 (Timers.frameExpired d s)).faultRec k sc :=
    fun k sc => faultRec_congr (by simp) k sc
  have hmissing : recIndex .frameMissing (scopeOf d) ≠ recIndex .sideFailed (scopeOf d) :=
    recIndex_side_ne d (by decide) (by decide)
  simp only [hside] at hother hleft hrec hstay
  refine ⟨tornDown_congr (by simp) (by simp) (by simp) (hactive _ _) (hactive _ _) htorn, by simpa using hcause, ?_,
    (hactive _ _).trans (sideDegraded_enterFailed 1 hplain), ?_, ?_, ?_, ?_, ?_, fun hsf => ?_,
    fun ha hn => ?_, fun hn => ?_⟩
  · rw [hfaultRec, count_enterFailed 1 hplain (recIndex_side_ne d (by decide) (by decide)), count_failedState hmissing,
      count_frameExpired]
  · rw [side_publish, hleft]
  · simpa [Timers.frameExpired] using hother
  · simpa [Timers.frameExpired] using hsnoop
  · simpa [Timers.frameExpired] using hlamp
  · simpa [Timers.frameExpired] using hdown
  · rw [hfaultRec, count_enterFailed 1 hplain (recIndex_side_ne d (by decide) (by decide)), count_sideFailed,
      faultRec_frameExpired d s hmissing.symm]
    rwa [isActive, faultRec_frameExpired d s hmissing.symm]
  · obtain ⟨hhealth, hattempts⟩ := hrec ha hn
    obtain ⟨hsf, -, hgone, -⟩ := enterFailed_recovered 1 hplain (by rwa [hside]) (by rwa [hside])
    refine ⟨by simpa using hhealth, by simpa using hattempts, (hactive _ _).trans hsf, by simpa using hgone, fun hpin => ?_⟩
    obtain ⟨hlow, hedges⟩ := pins_frameExpired d s hpin
    have hpassed := edges_enterFailed_recovering (releaseDeferred d) d 1 _ hlow hplain (by rwa [hside]) (by rwa [hside])
      (by rw [hside]; exact hserv)
    simpa [hedges] using hpassed
  · obtain ⟨hhealth, hattempts, hsf⟩ := hstay hn
    obtain ⟨hseq, hlink, htarget, hcount⟩ := stayed_failed 1 hplain (by rwa [hside])
    refine ⟨by simpa using hhealth, by simpa using hattempts, (hactive _ _).trans hsf, by simpa [hside] using hseq,
      by simpa [Timers.frameExpired] using hlink, ?_, ?_⟩
    · exact target_congr (by simp) (by simp) (by simp) (by simp) htarget
    · rw [hfaultRec, hcount, hside, faultRec_frameExpired d s (recIndex_side_ne d (by decide) (by decide))]

end Sys2Proof.Proofs.Failing

/-! ## PROOFS: commands -/

namespace Sys2Proof.Proofs.Commands

open Sys2Proof Sys2Proof.Machine Sys2Proof.Safety Sys2Proof.Laws Sys2Proof.Proofs.Steps

/-! ### LOWER, where the sequencer goes at once (R122, R123, R128) -/

section
variable {release : State → State} {was : Bool} {d : SideId} {s : State}

/-- A LOWER request of a head controller that waits for LOW. -/
theorem seqLower_awaiting {q : Sequencer} (h : lowerTo (s.side d).cfg.head s.time (s.side d).seq = some q)
    (hwait : (s.side d).head.awaitingLower = true) :
    ((seqLower d s).side d).seq = q ∧ ((seqLower d s).side d).head.awaitingLower = decide (q.state ≠ .low) ∧
      ((s.side d).head.health = .stopping →
        ((seqLower d s).side d).head.health = if q.state = .low then .off else .stopping) := by
  rw [seqLower_eq h]
  split
  next hlow =>
    rw [reportLow_eq]
    by_cases hr : (s.side d).head.health = .recovering
    · simp [hwait, hlow, hr]
    · by_cases hs : (s.side d).head.health = .stopping
      · simp [hwait, hlow, hs]
      · simp [hwait, hlow, hr, hs]
  next hlow => simp [hwait, hlow]

/-- LOW starts the dwell of a RECOVERING side only. -/
theorem stageTimer_reportLow (h : (s.side d).head.health ≠ .recovering) :
    ((reportLow d s).side d).head.stageTimer = (s.side d).head.stageTimer := by
  rw [reportLow_eq, side_updHead]
  simp only [h, if_false]
  split
  · rfl
  · split <;> rfl

theorem stageTimer_seqRelease (h : (s.side d).head.health ≠ .recovering) :
    ((seqRelease d s).side d).head.stageTimer = (s.side d).head.stageTimer := by
  rw [seqRelease]
  split
  · rw [side_updSeq]
  · rw [side_updSeq]
  · rw [stageTimer_reportLow (by simpa using h), side_updSeq]

theorem stageTimer_seqLower (h : (s.side d).head.health ≠ .recovering) :
    ((seqLower d s).side d).head.stageTimer = (s.side d).head.stageTimer := by
  rw [seqLower]
  split
  · exact stageTimer_seqRelease h
  · exact stageTimer_seqRelease h
  · rfl
  · exact stageTimer_reportLow h

/-! ### Entries to RECOVERING and STOPPING -/

/-- What an entry to RECOVERING or STOPPING leaves. -/
theorem leaveUp_broughtDown (h : teardownRelease release d (clearHealth d s) = teardown d (clearHealth d s)) :
    broughtDown d s (leaveUp release was d s) := by
  obtain ⟨s3, heq, htorn, hfailed, hdegraded, hfrozen, hgone, htarget, hother, -, -, -, htime, b, hside⟩ :=
    leaveUp_down release was d s h
  generalize hu : updHead d (fun h => { h with awaitingLower := true }) s3 = u at heq
  obtain ⟨⟨hd, q, hafter, -, -, hhealth⟩, hafterOther⟩ := onlyHS_seqLower d u
  have huside : u.side d = { s3.side d with head := { (s3.side d).head with awaitingLower := true } } := by simp [← hu]
  have hactive : ∀ k sc, isActive k sc (seqLower d u) = isActive k sc s3 :=
    fun k sc => isActive_congr (by simp [← hu]) k sc
  rw [heq]
  refine ⟨tornDown_congr ?_ ?_ ?_ (hactive _ _) (hactive _ _) htorn, (hactive _ _).trans hfailed,
    (hactive _ _).trans hdegraded, (hactive _ _).trans hfrozen, by simpa [← hu] using hgone,
    Failing.target_congr (by simp [← hu]) (by simp [← hu]) (by simp [← hu]) ?_ htarget, fun q hq => ?_, ?_, ?_, ?_, ?_,
    ?_, ?_, ?_⟩
  · rw [hafter, huside]
  · rw [hafter, huside]
  · rw [hafter, huside]
  · rw [hafter, ← show (u.side d).head.health = (s3.side d).head.health by rw [huside]]
    rcases hhealth with hh | ⟨hst, hoff⟩
    · rw [hh]
    · rw [hst, hoff]; simp
  · obtain ⟨hseq, hwait, -⟩ := seqLower_awaiting (d := d) (s := u) (q := q)
      (by rw [huside, hside, show u.time = s.time by rw [← hu, (updHead_frame _ _ _).1, htime]]; exact hq)
      (by rw [huside])
    exact ⟨hseq, hwait⟩
  · rw [hafter, huside, hside]
  · rw [hafter, huside, hside]
  · rw [hafter, huside, hside]
  · rw [hafter, huside, hside]
  · rw [hafter, huside, hside]
  · rw [hafter, huside, hside]
  · rw [hafterOther, ← hu, side_updHead_other, hother]

/-- An entry to STOPPING: OFF at once where LOW is reached at once. -/
theorem leaveUp_stopping (h : teardownRelease release d (clearHealth d s) = teardown d (clearHealth d s))
    (hs : (s.side d).head.health = .stopping) :
    ((leaveUp release was d s).side d).head.stageTimer = none ∧
      ∀ q, lowerTo (s.side d).cfg.head s.time (s.side d).seq = some q →
        ((leaveUp release was d s).side d).head.health = if q.state = .low then .off else .stopping := by
  obtain ⟨s3, heq, -, -, -, -, -, -, -, -, -, -, htime, b, hside⟩ := leaveUp_down release was d s h
  rw [heq]
  refine ⟨?_, fun q hq => (seqLower_awaiting (q := q) ?_ ?_).2.2 ?_⟩
  · rw [stageTimer_seqLower] <;> simp [hside, hs]
  · simpa [hside, htime] using hq
  · simp
  · simp [hside, hs]

/-! ### A command's beat and its answer (R188) -/

/-- A command's answer: its echo and its result published, with the page of GLOBAL flagged. -/
def answer (sq : BitVec 32) (r : CmdResult) (t : State) : State :=
  { t with
    snoop := { t.snoop with cmdEcho := sq, cmdResult := r }
    inj := { t.inj with flagGlobal := true } }

theorem publishResult_eq (sq : BitVec 32) (r : CmdResult) (t : State) : publishResult sq r t = answer sq r t := rfl

/-- The state with the beat of a command merged. -/
def merged (code : Byte) (arg : BitVec 16) (sq : BitVec 32) (s : State) : State :=
  { s with snoop := { s.snoop with image := Image.mergeBeat s.snoop.image 8 (commandBeat code arg sq) } }

@[simp] theorem merged_side (code : Byte) (arg : BitVec 16) (sq : BitVec 32) (d : SideId) :
    (merged code arg sq s).side d = s.side d := by cases d <;> rfl

/-- A command's beat runs the command of its code. -/
theorem act_command (hr : s.inReset = false) (hw : Image.wf s.snoop.image = true) (code : Byte) (arg : BitVec 16)
    (sq : BitVec 32) {r : CmdResult} {t : State} (hrun : runCode code.toNat arg (merged code arg sq s) = (r, t)) :
    act (snoopBeat 0x008 (commandBeat code arg sq)) s = .next (publish s (answer sq r t)) := by
  rw [act_live _ hr, snoopBeat_runs hw, publishResult_eq]
  exact congrArg (fun z : CmdResult × State => Host.Outcome.next (publish s (answer sq z.1 z.2))) hrun

/-- What a side command does with its side, by the argument that names it. -/
def argOf : SideId → BitVec 16
  | .left => 0
  | .right => 1

theorem sideCommand_argOf (f : SideId → State → CmdResult × State) (d : SideId) (t : State) :
    sideCommand f (argOf d) t = f d t := by cases d <;> rfl

/-- What `broughtDown` reads of the two states. -/
theorem broughtDown_congr {s' t t' : State} (hs : ∃ h, s.side d = { s'.side d with head := h })
    (hother : s.side d.other = s'.side d.other) (htime : s.time = s'.time)
    (ht : ∀ e, t'.side e = t.side e) (hf : t'.faults = t.faults) (hl : t'.link = t.link)
    (hb : t'.backlight = t.backlight) (hc : t'.cab = t.cab) (hn : t'.snoop.cfg = t.snoop.cfg)
    (h : broughtDown d s t) : broughtDown d s' t' := by
  obtain ⟨hd, hs⟩ := hs
  obtain ⟨htorn, hfailed, hdegraded, hfrozen, hgone, htarget, hseq, hrest⟩ := h
  have hactive : ∀ k sc, isActive k sc t' = isActive k sc t := fun k sc => isActive_congr hf k sc
  refine ⟨tornDown_congr (by rw [ht]) (by rw [ht]) (by rw [ht]) (hactive _ _) (hactive _ _) htorn,
    (hactive _ _).trans hfailed, (hactive _ _).trans hdegraded, (hactive _ _).trans hfrozen, by rwa [hl],
    Failing.target_congr hb hc hn (by rw [ht]) htarget, fun q hq => ?_, ?_⟩
  · rw [ht]
    exact hseq q (by rw [hs, htime]; exact hq)
  · simpa only [ht, hs, hother] using hrest

end

section
variable {d : SideId} {s : State}

/-! ### POWER_ON, POWER_OFF and RECOVER (R123, R124) -/

theorem canStop_iff {h : Health} : h.canStop = true ↔ h ≠ .off ∧ h ≠ .stopping := by
  cases h <;> decide

theorem canRecover_iff {h : Health} : h.canRecover = true ↔ h = .running ∨ h = .degraded ∨ h = .failed := by
  cases h <;> decide

/-- A side leaves OFF at its power-up values. -/
theorem powerUp_eq (d : SideId) (s : State) :
    powerUp d s =
      updSide d (fun x =>
        { x with
          tiles := Table.const 128 ⟨.clear, 0, 256⟩
          expo := { x.expo with confirmed := 0, settle := 0 }
          cap := { x.cap with prevSig := none, identical := 0 }
          head := { x.head with health := .powering, attempts := 0, cause := 0, goodFrames := 0, streak := 0 }
          seq := { state := .raising, step := 1, timer := some ⟨s.time, x.cfg.head.delay12⟩ } }) s := by
  simp only [powerUp, Timers.enterPowering_eq, updHead, updSide_updSide, updSide_frame]

/-- What the published answer of a command that brings a side down leaves. -/
theorem broughtDown_answer {release : State → State} {was : Bool} {sq : BitVec 32}
    {r : CmdResult} {u : State} (hu : ∃ h, u.side d = { s.side d with head := h })
    (hother : u.side d.other = s.side d.other) (htime : u.time = s.time)
    (hplain : Failing.Plain release d u) :
    broughtDown d s (publish s (answer sq r (leaveUp release was d u))) := by
  have hclear : teardownRelease release d (clearHealth d u) = teardown d (clearHealth d u) :=
    hplain _ (by simp) (.inl (by simp))
  refine broughtDown_congr hu hother htime (fun e => ?_) ?_ ?_ ?_ ?_ ?_ (leaveUp_broughtDown (was := was) hclear)
  · rw [side_publish]; cases e <;> rfl
  · simp [answer]
  · simp [answer]
  · simp [answer]
  · simp [answer]
  · simp [answer]

/-- A side command's beat does what the command does with the side its argument names. -/
theorem act_sideCommand (hr : s.inReset = false) (hw : Image.wf s.snoop.image = true) (code : Byte) (sq : BitVec 32)
    (f : SideId → State → CmdResult × State) (hf : ∀ arg t, runCode code.toNat arg t = sideCommand f arg t)
    {r : CmdResult} {t : State} (hrun : f d (merged code (argOf d) sq s) = (r, t)) :
    act (snoopBeat 0x008 (commandBeat code (argOf d) sq)) s = .next (publish s (answer sq r t)) :=
  act_command hr hw code (argOf d) sq (by rw [hf, sideCommand_argOf, hrun])

theorem exec_powerOn_side (hr : s.inReset = false) (hw : Image.wf s.snoop.image = true) (sq : BitVec 32) {r : CmdResult}
    {t : State} (hrun : powerOnOp d (merged 1 (argOf d) sq s) = (r, t)) :
    exec (.powerOn (argOf d) sq) s = .next (publish s (answer sq r t)) :=
  (exec_powerOn _ _ _).trans (act_sideCommand hr hw 1 sq powerOnOp (fun _ _ => rfl) hrun)

theorem exec_powerOff_side (hr : s.inReset = false) (hw : Image.wf s.snoop.image = true) (sq : BitVec 32) {r : CmdResult}
    {t : State} (hrun : powerOffOp d (merged 2 (argOf d) sq s) = (r, t)) :
    exec (.powerOff (argOf d) sq) s = .next (publish s (answer sq r t)) :=
  (exec_powerOff _ _ _).trans (act_sideCommand hr hw 2 sq powerOffOp (fun _ _ => rfl) hrun)

theorem exec_recover_side (hr : s.inReset = false) (hw : Image.wf s.snoop.image = true) (sq : BitVec 32) {r : CmdResult}
    {t : State} (hrun : recoverOp d (merged 3 (argOf d) sq s) = (r, t)) :
    exec (.recover (argOf d) sq) s = .next (publish s (answer sq r t)) :=
  (exec_recover _ _ _).trans (act_sideCommand hr hw 3 sq recoverOp (fun _ _ => rfl) hrun)

/-- What the published answer of POWER_OFF leaves of a side that is not OFF and not STOPPING. -/
theorem stopped_answer (sq : BitVec 32) (hdef : (s.side d).deferred = false ∨ (s.side d).cap.fip = none) :
    let t := publish s (answer sq .done (enterStopping (releaseDeferred d) d (merged 2 (argOf d) sq s)))
    broughtDown d s t ∧ (t.side d).head.cause = 9 ∧ (t.side d).head.stageTimer = none ∧
      ∀ q, lowerTo (s.side d).cfg.head s.time (s.side d).seq = some q →
        (t.side d).head.health = if q.state = .low then .off else .stopping := by
  generalize hu : followPin (merged 2 (argOf d) sq s)
    (updHead d (fun h => { h with health := .stopping, cause := 9 }) (merged 2 (argOf d) sq s)) = u
  have hside : u.side d = { s.side d with head := { (s.side d).head with health := .stopping, cause := 9 } } := by
    simp [← hu]
  have htime : u.time = s.time := by simp [← hu, merged]
  have hplain : Failing.Plain (releaseDeferred d) d u := Failing.plain_deferred (by rw [hside]; exact hdef)
  have hclear : teardownRelease (releaseDeferred d) d (clearHealth d u) = teardown d (clearHealth d u) :=
    hplain _ (by simp) (.inl (by simp))
  obtain ⟨-, hcause, -, -⟩ := leaveUp_torn (releaseDeferred d) (((merged 2 (argOf d) sq s).side d).inService) d u hclear
  obtain ⟨hstage, hhealth⟩ :=
    leaveUp_stopping (was := ((merged 2 (argOf d) sq s).side d).inService) hclear (by rw [hside])
  have hanswer : ∀ v, (publish s (answer sq .done v)).side d = v.side d := fun v => by
    rw [side_publish]; cases d <;> rfl
  rw [enterStopping, hu]
  refine ⟨broughtDown_answer ⟨_, hside⟩ (by simp [← hu]) htime hplain, ?_, ?_, fun q hq => ?_⟩
  · rw [hanswer, hcause, hside]
  · rw [hanswer, hstage]
  · rw [hanswer]
    exact hhealth q (by rw [hside, htime]; exact hq)

/-- What the published answer of RECOVER leaves of a side it is taken for. -/
theorem recovered_answer (sq : BitVec 32) (hdef : (s.side d).deferred = false ∨ (s.side d).cap.fip = none) :
    let t := publish s (answer sq .done (enterRecovering (releaseDeferred d) d
      (updHead d (fun h => { h with attempts := 0, cause := 8 }) (merged 3 (argOf d) sq s))))
    broughtDown d s t ∧ (t.side d).head.cause = 8 ∧ (t.side d).head.attempts = 0 ∧
      (t.side d).head.health = .recovering := by
  generalize hv : updHead d (fun h => { h with attempts := 0, cause := 8 }) (merged 3 (argOf d) sq s) = v
  generalize hu : followPin v (updHead d (fun h => { h with health := .recovering }) v) = u
  have hside : u.side d =
      { s.side d with head := { (s.side d).head with attempts := 0, cause := 8, health := .recovering } } := by
    simp [← hu, ← hv]
  have hplain : Failing.Plain (releaseDeferred d) d u := Failing.plain_deferred (by rw [hside]; exact hdef)
  obtain ⟨-, hcause, hattempts, hhealth⟩ := leaveUp_torn (releaseDeferred d) ((v.side d).inService) d u
    (hplain _ (by simp) (.inl (by simp)))
  have hanswer : ∀ w, (publish s (answer sq .done w)).side d = w.side d := fun w => by
    rw [side_publish]; cases d <;> rfl
  rw [enterRecovering, hu]
  refine ⟨broughtDown_answer ⟨_, hside⟩ (by simp [← hu, ← hv]) (by simp [← hu, ← hv, merged]) hplain, ?_, ?_, ?_⟩
  · rw [hanswer, hcause, hside]
  · rw [hanswer, hattempts, hside]
  · rw [hanswer, hhealth (by simp [hside]), hside]

end

/-- Settles O25: POWER_ON, POWER_OFF and RECOVER. -/
theorem powerCommands : Obligations.PowerCommands := by
  intro s d sq arg merged' answer' x hr hw
  refine ⟨fun hon => ?_, fun hon => ?_, fun hoff => ?_, fun hoff hstop => ?_, fun hrec => ?_, fun hrec => ?_⟩
  · refine exec_powerOn_side hr hw sq ((if_pos ?_).trans (congrArg (Prod.mk _) (powerUp_eq _ _)))
    rw [merged_side]; exact hon
  · refine exec_powerOn_side hr hw sq (if_neg ?_)
    rw [merged_side]; exact hon
  · refine exec_powerOff_side hr hw sq (if_neg ?_)
    rw [merged_side, canStop_iff]
    exact fun h => hoff.elim h.1 h.2
  · have hexec := exec_powerOff_side hr hw sq (r := .done) (if_pos (by rw [merged_side, canStop_iff]; exact ⟨hoff, hstop⟩))
    refine ⟨hexec, fun hdef => ⟨_, hexec, ?_⟩⟩
    obtain ⟨hdown, hcause, hstage, hhealth⟩ := stopped_answer sq hdef
    exact ⟨hdown, by simp [answer], by simp [answer], by simp [answer, publish_flags], hcause, hstage, hhealth⟩
  · refine exec_recover_side hr hw sq (if_neg ?_)
    rw [merged_side, canRecover_iff]; exact hrec
  · have hexec := exec_recover_side hr hw sq (r := .done) (if_pos (by rw [merged_side, canRecover_iff]; exact hrec))
    refine ⟨hexec, fun hdef => ⟨_, hexec, ?_⟩⟩
    obtain ⟨hdown, hcause, hattempts, hhealth⟩ := recovered_answer sq hdef
    exact ⟨hdown, by simp [answer], by simp [answer], by simp [answer, publish_flags], hcause, hattempts, hhealth⟩

/-! ### The other commands (R124, R156, R188) -/

/-- A side command with an argument that names no side. -/
theorem act_refusedArg {s : State} (hr : s.inReset = false) (hw : Image.wf s.snoop.image = true) {code : Byte}
    {arg : BitVec 16} (sq : BitVec 32) (h0 : arg ≠ 0) (h1 : arg ≠ 1) (f : SideId → State → CmdResult × State)
    (hf : ∀ t, runCode code.toNat arg t = sideCommand f arg t) :
    act (snoopBeat 0x008 (commandBeat code arg sq)) s =
      .next (publish s (answer sq .refusedArg (merged code arg sq s))) :=
  act_command hr hw code arg sq (by rw [hf, sideCommand, if_neg h0, if_neg h1])

theorem runCode_unknown {code : Nat} (h : code = 0 ∨ 5 ≤ code) (arg : BitVec 16) (t : State) :
    runCode code arg t = (.unknown, t) := by
  rw [runCode, if_neg (by omega), if_neg (by omega), if_neg (by omega), if_neg (by omega)]

theorem isConditionCode_iff (k : FaultKind) :
    isConditionCode k.code = true ↔
      k ∈ [.cameraFrozen, .viewStale, .displayIdle, .sideFailed, .sideDegraded, .reportPath] := by
  cases k <;> decide

/-- A record of the fault table under ACK_FAULTS. -/
theorem get_ackTable (arg : BitVec 16) (s : State) (k : FaultKind) (sc : Scope) (r : FaultRec) :
    (ackTable arg s.faults.table).get (recIndex k sc) r = ackRec arg (recIndex k sc) (s.faultRec k sc) :=
  get_ofFn _ _ (recIndex_lt k sc)

/-- Settles O26: a wrong side argument, ACK_FAULTS and unknown command codes. -/
theorem otherCommands : Obligations.OtherCommands := by
  intro s code arg sq merged' answer' hr hw
  refine ⟨fun h0 h1 => ⟨?_, ?_, ?_⟩, fun hcode => ?_, ackTable arg s.faults.table, ?_, fun k sc => ?_⟩
  · exact (exec_powerOn _ _ _).trans (act_refusedArg hr hw sq h0 h1 powerOnOp fun _ => rfl)
  · exact (exec_powerOff _ _ _).trans (act_refusedArg hr hw sq h0 h1 powerOffOp fun _ => rfl)
  · exact (exec_recover _ _ _).trans (act_refusedArg hr hw sq h0 h1 recoverOp fun _ => rfl)
  · exact (exec_unknownCommand _ _ _ _).trans (act_command hr hw code arg sq (runCode_unknown hcode _ _))
  · exact (exec_ackFaults _ _ _).trans (act_command hr hw 4 arg sq rfl)
  · intro old condition
    rw [get_ackTable, ackRec, OutputPins.codeOfIndex_recIndex]
    simp only [isConditionCode_iff, old, condition]

end Sys2Proof.Proofs.Commands

/-! ## PROOFS: the control link -/

namespace Sys2Proof.Proofs.LinkLine

open Sys2Proof Sys2Proof.Machine Sys2Proof.Safety Sys2Proof.Laws Sys2Proof.Proofs.Steps

/-! ### The queue (R139, R142, R143) -/

/-- A new entry stands behind the part entries at the head of the queue, or at the tail. -/
theorem placeEntry_split (e : LinkEntry) (w : List LinkEntry) :
    ∃ a b, w = a ++ b ∧ placeEntry e w = a ++ e :: b ∧
      ((e.kind = .probe ∨ e.kind = .exposure) →
        (∀ x ∈ a, x.kind = .probe ∨ x.kind = .exposure) ∧
          ∀ x, b.head? = some x → ¬(x.kind = .probe ∨ x.kind = .exposure)) ∧
      (¬(e.kind = .probe ∨ e.kind = .exposure) → b = []) := by
  rw [placeEntry]
  by_cases hp : e.isPart = true
  · refine ⟨w.takeWhile LinkEntry.isPart, w.dropWhile LinkEntry.isPart, List.takeWhile_append_dropWhile.symm, if_pos hp,
      fun _ => ⟨fun x hx => (isPart_iff x).mp (List.mem_takeWhile_imp hx), fun x hx hx' => ?_⟩,
      fun h => absurd ((isPart_iff e).mp hp) h⟩
    have hnot := List.head?_dropWhile_not LinkEntry.isPart w
    rw [hx] at hnot
    simp [(isPart_iff x).mpr hx'] at hnot
  · exact ⟨w, [], (List.append_nil w).symm, if_neg hp, fun h => absurd ((isPart_iff e).mpr h) hp, fun _ => rfl⟩

section
variable {s : State} {e : LinkEntry}

/-- A free line takes the entry in flight up again. -/
theorem startNext_again (h : s.link.inFlight = some e) :
    startNext s = { s with link := beginning s.snoop.cfg (s.side e.side).cfg.head.camAddr s.refNow e s.link } := by
  rw [startNext, h]
  exact beginAttempt_eq e s

/-- A free line takes the first waiting entry up. -/
theorem startNext_first {rest : List LinkEntry} (h : s.link.inFlight = none) (hw : s.link.waiting = e :: rest) :
    startNext s =
      { s with
        link :=
          beginning s.snoop.cfg (s.side e.side).cfg.head.camAddr s.refNow e { s.link with waiting := rest } } := by
  rw [startNext, h, hw]
  refine (beginAttempt_eq e _).trans ?_
  rw [side_updLink]
  rfl

theorem startNext_none (h : s.link.inFlight = none) (hw : s.link.waiting = []) :
    startNext s = { s with link := { s.link with line := .idle } } := by
  rw [startNext, h, hw]
  rfl

end

/-- Settles O27: a new entry's place, and its start on an idle line. -/
theorem linkQueuePlacement : Obligations.LinkQueuePlacement := by
  intro e s
  refine ⟨fun hbusy => ?_, fun hidle hnone hempty => ?_⟩
  · obtain ⟨a, b, hsplit, hplace, hpart, htail⟩ := placeEntry_split e s.link.waiting
    refine ⟨a, b, hsplit, (if_neg hbusy).trans ?_, hpart, htail⟩
    rw [hplace.symm]
    rfl
  · have hplace : placeEntry e s.link.waiting = [e] := by rw [hempty, placeEntry]; split <;> rfl
    have hlink : ({ s.link with waiting := [] } : Link) = s.link := by rw [← hempty]
    refine (if_pos hidle).trans ((startNext_first (e := e) (rest := []) (s := flagPage .global
      (updLink (fun k => { k with waiting := placeEntry e k.waiting }) s)) hnone hplace).trans ?_)
    rw [side_flagPage, side_updLink]
    exact congrArg (fun k => ({ s with
      link := beginning s.snoop.cfg (s.side e.side).cfg.head.camAddr s.refNow e k
      inj := { s.inj with flagGlobal := true } } : State)) hlink

/-! ### The line's timers (R138, R139) -/

/-- A change of the link that flags nothing is the whole step. -/
theorem act_link {f : State → State} {s : State} {k : Link} (hr : s.inReset = false) (hf : f s = { s with link := k })
    (h1 : k.results = s.link.results) (h2 : linkDepth k = linkDepth s.link) (h3 : linkKind k = linkKind s.link) :
    act f s = .next { s with link := k } :=
  act_next f hr (by rw [hf, publish_link h1 h2 h3])

/-- Settles O28: the line's own timers. -/
theorem linkLineTimers : Obligations.LinkLineTimers := by
  intro s k bit character hr
  refine ⟨fun hl hc ht => ?_, fun h => ?_, fun t hl hc ht => ?_, fun h => ?_, fun hl ht => ?_, fun h => ?_⟩
  · rw [exec_requestSent]
    exact act_link hr (if_pos ((sentDue_iff s).mpr ⟨hl, hc, ht⟩)) rfl rfl rfl
  · exact act_notDue fun hd => h ((sentDue_iff s).mp hd)
  · rw [exec_cancelledCharacterEnd]
    exact act_link hr (if_pos ((cutDue_iff s).mpr ⟨hl, t, hc, ht⟩)) rfl rfl rfl
  · refine act_notDue fun hd => ?_
    obtain ⟨hl, t, hc, ht⟩ := (cutDue_iff s).mp hd
    rcases h with h | h | ⟨u, hu, hlt⟩
    · exact h hl
    · rw [show s.link.cutAt = none from h] at hc; cases hc
    · rw [show s.link.cutAt = some u from hu] at hc; cases hc
      exact absurd ht (Nat.not_le.mpr hlt)
  · have hdue : guardDue s = true := (guardDue_iff s).mpr ⟨hl, ht⟩
    refine ⟨fun e he => ?_, fun e rest hn hw => ?_, fun hn hw => ?_⟩
    · rw [exec_guardEnd]
      refine act_link hr ((if_pos hdue).trans (startNext_again he)) rfl ?_ ?_
      · simp only [linkDepth, beginning, show s.link.inFlight = some e from he]; rfl
      · simp only [linkKind, beginning, show s.link.inFlight = some e from he]
    · refine (act_due hr hdue).trans ?_
      rw [startNext_first hn hw]
    · rw [exec_guardEnd]
      exact act_link hr ((if_pos hdue).trans (startNext_none hn hw)) rfl rfl rfl
  · exact act_notDue fun hd => h ((guardDue_iff s).mp hd)

/-! ### Reception (R135, R139) -/

theorem startEdgeOp_heard {s : State} (h : s.link.line.listening = true) (hn : s.link.receiving = none) :
    startEdgeOp true s = { s with link := { s.link with receiving := some s.refNow, silence := none } } :=
  if_pos (by rw [h, hn]; rfl)

theorem startEdgeOp_unheard {s : State} {low : Bool}
    (h : ¬(s.link.line.listening = true ∧ s.link.receiving = none ∧ low = true)) : startEdgeOp low s = s :=
  if_neg (by simpa [Option.isNone_iff_eq_none, and_assoc] using h)

/-- A character that is not due has no effect. -/
theorem character_notDue {s : State} {c : RxChar} (h : ¬characterDue s = true) :
    exec (.responseCharacterComplete c) s = .next s ∧ exec (.responseReceived c) s = .next s := by
  rw [exec_responseCharacterComplete, exec_responseReceived]
  exact ⟨act_none _ (if_neg (by simp [h])), act_none _ (if_neg (by simp [h]))⟩

/-- Settles O29: start edges and characters. -/
theorem responseReception : Obligations.ResponseReception := by
  intro s c k bit listening hr
  refine ⟨fun hl hn => ?_, ?_, fun h => ?_, fun t hl hc ht hlen => ?_, fun h => character_notDue fun hd => ?_⟩
  · rw [exec_startEdge]
    exact act_link hr (startEdgeOp_heard ((listening_iff _).mpr hl) hn) rfl rfl rfl
  · exact act_none _ (startEdgeOp_unheard (by simp))
  · exact act_none _ (startEdgeOp_unheard fun ⟨hl, hn, _⟩ => h ⟨(listening_iff _).mp hl, hn⟩)
  · have hdue : characterDue s = true := (characterDue_iff s).mpr ⟨hl, t, hc, ht⟩
    rw [exec_responseCharacterComplete]
    refine act_link hr ((if_pos ?_).trans rfl) rfl rfl rfl
    rw [hdue, Bool.true_and]
    exact decide_eq_true hlen
  · obtain ⟨hl, t, hc, ht⟩ := (characterDue_iff s).mp hd
    rcases h with h | h | ⟨u, hu, hlt⟩
    · exact h hl
    · rw [show s.link.receiving = none from h] at hc; cases hc
    · rw [show s.link.receiving = some u from hu] at hc; cases hc
      exact absurd ht (Nat.not_le.mpr hlt)

/-! ### The end of an attempt (R139, R140) -/

section
variable {s : State} {e : LinkEntry}

theorem endAttempt_retry {a : Attempt} (he : s.link.inFlight = some e) (ha : a.retriable = true)
    (hn : e.attempts ≤ s.snoop.cfg.linkRetries) : endAttempt a s = { s with link := guarding s.refNow s.link } := by
  simp only [endAttempt, he]
  rw [if_pos (by simp [ha, hn])]
  rfl

theorem endAttempt_final {a : Attempt} (he : s.link.inFlight = some e)
    (h : a.retriable = false ∨ s.snoop.cfg.linkRetries < e.attempts) :
    endAttempt a s =
      finalOutcome e a { s with link := { guarding s.refNow s.link with inFlight := none } } := by
  simp only [endAttempt, he]
  rw [if_neg]
  · rfl
  · rcases h with h | h
    · simp [h]
    · simp [Nat.not_le.mpr h]

theorem responseOp_draining {c : RxChar} (h : s.link.line = .draining) :
    responseOp c s = { s with link := guarding s.refNow s.link } := by
  rw [responseOp, h]
  exact enterGuard_eq s

/-- The fourth character is judged with the three before it. -/
theorem responseOp_judged {c c1 c2 c3 : RxChar} (hl : s.link.line = .awaiting ∨ s.link.line = .receiving)
    (he : s.link.inFlight = some e) (hc : s.link.chars = [c1, c2, c3]) :
    responseOp c s = endAttempt (judge e c1 c2 c3 c) s := by
  have hreceive : responseOp.receive c s = endAttempt (judge e c1 c2 c3 c) s := by rw [responseOp.receive, he, hc]
  rcases hl with hl | hl
  · rw [responseOp, hl]; exact hreceive
  · rw [responseOp, hl]; exact hreceive

theorem retriable_of_judge {c1 c2 c3 c4 : RxChar} :
    (judge e c1 c2 c3 c4).retriable = true ↔ judge e c1 c2 c3 c4 = .badCheck := by
  have hna : judge e c1 c2 c3 c4 ≠ .noAnswer := by
    rw [judge]
    split_ifs <;> nofun
  cases h : judge e c1 c2 c3 c4 with
  | done v => simp [Attempt.retriable]
  | refused => simp [Attempt.retriable]
  | badCheck => simp [Attempt.retriable]
  | noAnswer => exact absurd h hna

end

/-- Settles O31: how an attempt ends. -/
theorem attemptEnds : Obligations.AttemptEnds := by
  intro s c k character guarded removed silent arrived hr
  refine ⟨fun hs hd e he => ⟨fun hn => ?_, fun hn => ?_⟩, fun hs hd => ?_, fun hs => ?_, fun ha c1 c2 c3 hc => ?_⟩
  · rw [exec_noAnswer]
    refine act_link hr ((if_pos ((silenceDue_iff s).mpr hs)).trans ((if_neg hd).trans ?_)) rfl rfl rfl
    exact endAttempt_retry he rfl hn
  · refine (act_due hr ((silenceDue_iff s).mpr hs)).trans (congrArg (fun t => Host.Outcome.next (publish s t)) ?_)
    exact (if_neg hd).trans (endAttempt_final he (.inr hn))
  · rw [exec_noAnswer]
    exact act_link hr ((if_pos ((silenceDue_iff s).mpr hs)).trans (if_pos hd)) rfl rfl rfl
  · exact act_notDue fun hd => hs ((silenceDue_iff s).mp hd)
  · have hdue : (k.line = .awaiting ∨ k.line = .receiving ∨ k.line = .draining) →
        (characterDue s && s.link.chars.length == 3) = true := fun hl => by
      obtain ⟨t, ht, hlen⟩ := ha
      have hhalf : 10 * (16 * (k.divisor + 1)) + 16 * (k.divisor + 1) / 2 ≤ s.refSince t := by omega
      rw [(characterDue_iff s).mpr ⟨hl, t, ht, hhalf⟩, show s.link.chars = [c1, c2, c3] from hc]
      rfl
    refine ⟨fun hd => ?_, fun hl e he => ⟨fun hbad hn => ?_, fun h => ?_⟩⟩
    · rw [exec_responseReceived]
      exact act_link hr ((if_pos (hdue (.inr (.inr hd)))).trans (responseOp_draining hd)) rfl rfl rfl
    · rw [exec_responseReceived]
      refine act_link hr ((if_pos (hdue (hl.imp_right .inl))).trans ((responseOp_judged hl he hc).trans ?_)) rfl rfl rfl
      exact endAttempt_retry he (retriable_of_judge.mpr hbad) hn
    · refine (act_due (c := fun s => characterDue s && s.link.chars.length == 3) hr (hdue (hl.imp_right .inl))).trans (congrArg (fun t => Host.Outcome.next (publish s t)) ?_)
      refine (responseOp_judged hl he hc).trans (endAttempt_final he (h.imp_left fun h => ?_))
      rwa [← Bool.not_eq_true, retriable_of_judge]

end Sys2Proof.Proofs.LinkLine

/-! ## PROOFS: final outcomes on the link -/

namespace Sys2Proof.Proofs.Outcomes

open Sys2Proof Sys2Proof.Machine Sys2Proof.Safety Sys2Proof.Laws Sys2Proof.Proofs.Steps

section
variable {d : SideId} {s : State} {e : LinkEntry}

/-! ### The streak (R118) -/

/-- A side that is neither RUNNING nor DEGRADED has no degrading cause. -/
theorem degrade_outOfService (n : Nat) (h : (s.side d).inService = false) : degrade d n s = s := by
  rw [degrade]
  simp only [Side.inService] at h
  cases hh : (s.side d).head.health <;> simp_all [Health.inService]

/-- A streak counted. -/
def counted (d : SideId) (s : State) : State :=
  updHead d (fun h => { h with streak := min 255 ((s.side d).head.streak + 1) }) s

theorem streakFail_eq (d : SideId) (s : State) :
    streakFail d s =
      if (s.side d).cfg.head.linkFailLimit ≤ min 255 ((s.side d).head.streak + 1) then degrade d 7 (counted d s)
      else counted d s := by
  have hcount : updHead d (fun h => { h with streak := satAdd 255 h.streak 1 }) s = counted d s := by
    rw [counted, updHead, updHead]
    exact Timers.updSide_congr d s rfl
  simp only [streakFail, hcount]
  simp [counted]

theorem streakFail_counted
    (h : min 255 ((s.side d).head.streak + 1) < (s.side d).cfg.head.linkFailLimit ∨ (s.side d).inService = false) :
    streakFail d s = counted d s := by
  rw [streakFail_eq]
  rcases h with h | h
  · exact if_neg (Nat.not_le.mpr h)
  · rw [degrade_outOfService 7 (by simpa [counted, Side.inService] using h), ite_self]

/-- A raise after a change of a head controller that FAULT_N does not follow. -/
theorem faults_raiseCond_updHead (k : FaultKind) (sc : Scope) (det : BitVec 32) {f : Head → Head}
    (hf : (f (s.side d).head).health = .failed ↔ (s.side d).head.health = .failed) :
    (raiseCond k sc det (updHead d f s)).faults = (raiseCond k sc det s).faults := by
  have hbeq : ((f (s.side d).head).health == .failed) = ((s.side d).head.health == .failed) := by
    rw [Bool.eq_iff_iff, beq_iff_eq, beq_iff_eq, hf]
  refine raiseCond_congr k sc det (by simp) (by simp) ?_ ?_
  · cases d
    · simpa [pinView, updHead, updSide, State.side] using hbeq
    · simpa [pinView, updHead, updSide, State.side] using hbeq
  · cases sc
    · simp [frameOf, updHead]; cases d <;> rfl
    · simp [frameOf, updHead]; cases d <;> rfl
    · rfl

/-- A streak at its limit degrades a RUNNING side. -/
theorem streakFail_running (hn : (s.side d).cfg.head.linkFailLimit ≤ min 255 ((s.side d).head.streak + 1))
    (hh : (s.side d).head.health = .running) :
    (streakFail d s).faults = (raiseCond .sideDegraded (scopeOf d) 7 s).faults ∧
      (streakFail d s).side d =
        { s.side d with
          head :=
            { (s.side d).head with
              streak := min 255 ((s.side d).head.streak + 1), health := .degraded, goodFrames := 0, cause := 7 } } := by
  rw [streakFail_eq, if_pos hn, degrade, show ((counted d s).side d).head.health = .running by simpa [counted] using hh]
  refine ⟨?_, by simp [counted]⟩
  have hrunning : ((counted d s).side d).head.health = .running := by simpa [counted] using hh
  rw [faults_raiseCond_updHead _ _ _ (by simp [hrunning]), counted, faults_raiseCond_updHead _ _ _ (by simp)]
  rfl

/-- A streak at its limit keeps a DEGRADED side there. -/
theorem streakFail_degraded (hn : (s.side d).cfg.head.linkFailLimit ≤ min 255 ((s.side d).head.streak + 1))
    (hh : (s.side d).head.health = .degraded) :
    (streakFail d s).faults = s.faults ∧
      (streakFail d s).side d =
        { s.side d with
          head :=
            { (s.side d).head with streak := min 255 ((s.side d).head.streak + 1), goodFrames := 0, cause := 7 } } := by
  rw [streakFail_eq, if_pos hn, degrade, show ((counted d s).side d).head.health = .degraded by simpa [counted] using hh]
  exact ⟨by simp [counted], by simp [counted]⟩

theorem other_streakFail : (streakFail d s).side d.other = s.side d.other := by
  rw [streakFail_eq, degrade]
  split
  · split <;> simp [counted]
  · simp [counted]

theorem cfg_streakFail : ((streakFail d s).side d).cfg = (s.side d).cfg := by
  rw [streakFail_eq, degrade]
  split
  · split <;> simp [counted]
  · simp [counted]

theorem expo_streakFail : ((streakFail d s).side d).expo = (s.side d).expo := by
  rw [streakFail_eq, degrade]
  split
  · split <;> simp [counted]
  · simp [counted]

/-! ### The owner and the confirmation (R60, R141, R147) -/

/-- What the hand-over to an owner other than a head controller leaves. -/
theorem outcomeOwner_leaves (a : Attempt) (s : State) (h : e.kind ≠ .probe) :
    (outcomeOwner e a s).faults = s.faults ∧ (outcomeOwner e a s).side e.side.other = s.side e.side.other ∧
      ((outcomeOwner e a s).side e.side).head = (s.side e.side).head ∧
      ((outcomeOwner e a s).side e.side).cfg = (s.side e.side).cfg ∧
      ((outcomeOwner e a s).side e.side).expo.confirmed = (s.side e.side).expo.confirmed ∧
      ((outcomeOwner e a s).side e.side).expo.settle = (s.side e.side).expo.settle := by
  rw [outcomeOwner]
  split
  next hk => exact absurd hk h
  · simp
  · simp

theorem outcomeOwner_exposure (a : Attempt) (s : State) (h : e.kind = .exposure) :
    ((outcomeOwner e a s).side e.side).expo.request = false ∧ (outcomeOwner e a s).link = s.link := by
  rw [outcomeOwner, h]
  simp

/-- The result of an attempt as its slot holds it (R147). -/
theorem outcomeOwner_mailbox {n : Fin 6} {tag : Byte} (a : Attempt) (s : State) (h : e.kind = .mailbox n tag) :
    ((outcomeOwner e a s).side e.side).expo = (s.side e.side).expo ∧
      (outcomeOwner e a s).link.results.get n.val ⟨0, .none, 0⟩ = resultOf tag a := by
  rw [outcomeOwner, h]
  exact ⟨by simp, get_set_self _ _ _ n.isLt⟩

/-- The confirmation of an exposure changes two fields of its side (R60). -/
theorem confirmExposure_leaves (reg v : Half) (s : State) :
    (confirmExposure d reg v s).faults = s.faults ∧ (confirmExposure d reg v s).link = s.link ∧
      (confirmExposure d reg v s).side d.other = s.side d.other ∧
      (confirmExposure d reg v s).side d =
        { s.side d with
          expo :=
            { (s.side d).expo with
              confirmed := if (s.side d).cfg.expo.expoReg = reg then v.toNat else (s.side d).expo.confirmed
              settle := if (s.side d).cfg.expo.expoReg = reg then (s.side d).cfg.expo.settle
                else (s.side d).expo.settle } } := by
  rw [confirmExposure]
  split
  · simp
  · simp

/-! ### A final outcome, put together (R141) -/

/-- The fault event of a failed attempt. -/
def failureKind : Attempt → FaultKind
  | .refused => .linkRefused
  | .badCheck => .linkBadCheck
  | .noAnswer => .linkNoAnswer
  | .done _ => .linkNoAnswer

theorem finalOutcome_done (v : Half) :
    finalOutcome e (.done v) s = outcomeConfirm e (.done v) (outcomeOwner e (.done v) (streakDone e.side s)) := rfl

theorem finalOutcome_failed {a : Attempt} (h : ∀ v, a ≠ .done v) :
    finalOutcome e a s =
      outcomeOwner e a (streakFail e.side (raiseEvent (failureKind a) (scopeOf e.side) (linkDetail e) s)) := by
  cases a with
  | done v => exact absurd rfl (h v)
  | refused => rfl
  | badCheck => rfl
  | noAnswer => rfl

theorem linkDetail_eq (h : e.kind ≠ .probe) :
    linkDetail e = BitVec.ofNat 32 (65536 * (if e.kind = .exposure then 2 else 3) + e.reg.toNat) := by
  rw [linkDetail]
  cases hk : e.kind with
  | probe => exact absurd hk h
  | exposure => simp [EntryKind.code]
  | mailbox n tag => simp [EntryKind.code]

theorem outcomeConfirm_done (v : Half) (t : State) :
    outcomeConfirm e (.done v) t = if e.read = true then t else confirmExposure e.side e.reg e.data t := rfl

/-- DONE: the streak ends, and a write's DONE may confirm an exposure. -/
theorem finalOutcome_done_leaves (v : Half) (h : e.kind ≠ .probe) :
    (finalOutcome e (.done v) s).faults = s.faults ∧
      (finalOutcome e (.done v) s).side e.side.other = s.side e.side.other ∧
      ((finalOutcome e (.done v) s).side e.side).head = { (s.side e.side).head with streak := 0 } ∧
      ((finalOutcome e (.done v) s).side e.side).expo.confirmed =
        (if e.read = false ∧ (s.side e.side).cfg.expo.expoReg = e.reg then e.data.toNat
         else (s.side e.side).expo.confirmed) ∧
      ((finalOutcome e (.done v) s).side e.side).expo.settle =
        (if e.read = false ∧ (s.side e.side).cfg.expo.expoReg = e.reg then (s.side e.side).cfg.expo.settle
         else (s.side e.side).expo.settle) := by
  obtain ⟨hf, hother, hhead, hcfg, hconf, hset⟩ := outcomeOwner_leaves (.done v) (streakDone e.side s) h
  obtain ⟨-, -, hother', hside'⟩ := confirmExposure_leaves (d := e.side) e.reg e.data
    (outcomeOwner e (.done v) (streakDone e.side s))
  have hside : (streakDone e.side s).side e.side =
      { s.side e.side with head := { (s.side e.side).head with streak := 0 } } := side_updHead ..
  have hzero : (streakDone e.side s).faults = s.faults ∧
      (streakDone e.side s).side e.side.other = s.side e.side.other := ⟨by simp, side_updHead_other ..⟩
  rw [hside] at hhead hcfg hconf hset
  rw [hzero.1] at hf
  rw [hzero.2] at hother
  rw [finalOutcome_done, outcomeConfirm_done]
  cases hr : e.read with
  | true => simp [hf, hother, hhead, hconf, hset]
  | false => simp [hother', hside', hf, hother, hhead, hcfg, hconf, hset]

/-- What a final outcome leaves of its owner's request and of the link. -/
theorem finalOutcome_owner (a : Attempt) (s : State) :
    ∃ u, u.link = s.link ∧ ((u.side e.side).expo = (s.side e.side).expo) ∧
      ((finalOutcome e a s).side e.side).expo.request = ((outcomeOwner e a u).side e.side).expo.request ∧
      (finalOutcome e a s).link = (outcomeOwner e a u).link := by
  by_cases ha : ∃ v, a = .done v
  · obtain ⟨v, rfl⟩ := ha
    obtain ⟨-, hlink, -, hside⟩ := confirmExposure_leaves (d := e.side) e.reg e.data
      (outcomeOwner e (.done v) (streakDone e.side s))
    refine ⟨streakDone e.side s, by simp, by simp [streakDone], ?_, ?_⟩
    · rw [finalOutcome_done, outcomeConfirm_done]
      split
      · rfl
      · rw [hside]
    · rw [finalOutcome_done, outcomeConfirm_done]
      split
      · rfl
      · rw [hlink]
  · have hno : ∀ v, a ≠ .done v := fun v hv => ha ⟨v, hv⟩
    rw [finalOutcome_failed hno]
    exact ⟨_, by simp, by rw [expo_streakFail, side_raiseEvent], rfl, rfl⟩

end

/-- Settles O32: a final outcome at its owner and at the streak. -/
theorem finalOutcomes : Obligations.FinalOutcomes := by
  intro e a s hk d x t detail failed n
  have hdetail : linkDetail e = detail := linkDetail_eq hk
  refine ⟨?_, fun v hv => ?_, fun hno => ?_, fun hexp => ?_, fun slot tag hmail => ?_⟩
  · by_cases ha : ∃ v, a = .done v
    · obtain ⟨v, rfl⟩ := ha
      exact (finalOutcome_done_leaves v hk).2.1
    · have ht : t = _ := finalOutcome_failed fun v hv => ha ⟨v, hv⟩
      rw [ht, (outcomeOwner_leaves a _ hk).2.1, other_streakFail, side_raiseEvent]
  · subst hv
    obtain ⟨hf, -, hhead, hconf, hset⟩ := finalOutcome_done_leaves (s := s) v hk
    exact ⟨hf, hhead, hconf, hset⟩
  · have hfailed : failed = raiseEvent (failureKind a) (scopeOf e.side) (linkDetail e) s := by
      rw [hdetail]; cases a <;> rfl
    have ht : t = outcomeOwner e a (streakFail e.side failed) := by rw [hfailed]; exact finalOutcome_failed hno
    have hside : failed.side d = x := side_raiseEvent ..
    obtain ⟨hf, hother, hhead, hcfg, hconf, hset⟩ := outcomeOwner_leaves a (streakFail e.side failed) hk
    rw [ht]
    refine ⟨?_, ?_, fun hn => ?_, fun hn hh => ?_, fun hn hh => ?_⟩
    · rw [hconf, expo_streakFail, hside]
    · rw [hset, expo_streakFail, hside]
    · rw [hf, hhead, streakFail_counted (by rw [hside]; exact hn)]
      exact ⟨by simp [counted], by rw [counted, side_updHead, hside]⟩
    · obtain ⟨hf', hside'⟩ := streakFail_running (s := failed) (d := d) (by rw [hside]; exact hn) (by rw [hside]; exact hh)
      rw [hf, hhead, hf', hside', hside]
      exact ⟨rfl, rfl⟩
    · obtain ⟨hf', hside'⟩ := streakFail_degraded (s := failed) (d := d) (by rw [hside]; exact hn) (by rw [hside]; exact hh)
      rw [hf, hhead, hf', hside', hside]
      exact ⟨rfl, rfl⟩
  · obtain ⟨u, hlink, -, hreq, htlink⟩ := finalOutcome_owner (e := e) a s
    obtain ⟨hnone, hsame⟩ := outcomeOwner_exposure a u hexp
    exact ⟨hreq.trans hnone, htlink.trans (hsame.trans hlink)⟩
  · obtain ⟨u, hlink, hexpo, hreq, htlink⟩ := finalOutcome_owner (e := e) a s
    obtain ⟨hsame, hres⟩ := outcomeOwner_mailbox a u hmail
    refine ⟨hreq.trans (by rw [hsame, hexpo]), ?_⟩
    rw [htlink, hres]
    cases a <;> rfl

/-! ### The outcome of a probe (R115, R116) -/

section
variable {d : SideId} {s : State} {e : LinkEntry}

/-- A probe is a read, so its outcome confirms nothing. -/
theorem finalOutcome_probe (a : Attempt) (hk : e.kind = .probe) (hr : e.read = true) :
    finalOutcome e a s = outcomeProbe e.side a (outcomeStreak e a (outcomeEvent e a s)) := by
  rw [finalOutcome, outcomeOwner, hk]
  cases a with
  | done v => exact if_pos hr
  | refused => rfl
  | badCheck => rfl
  | noAnswer => rfl

/-- The detail of a failed probe. -/
def probeDetail : Attempt → BitVec 32
  | .done v => v.setWidth 32
  | .refused => 0x10001
  | .badCheck => 0x10002
  | .noAnswer => 0x10003

theorem outcomeProbe_failed {a : Attempt} (h : a ≠ .done (s.side d).cfg.head.idExpect) :
    outcomeProbe d a s =
      enterFailed (releaseDeferred d) d 3 (raiseEvent .probeFailed (scopeOf d) (probeDetail a) s) := by
  cases a with
  | done v => exact if_neg fun hv => h (by rw [hv])
  | refused => rfl
  | badCheck => rfl
  | noAnswer => rfl

/-- A side in RUNNING with its watchdogs started (R116). -/
def runningUp (d : SideId) (s : State) : State :=
  updSide d (fun x =>
    { x with
      head := { x.head with health := .running, cause := 0, goodFrames := 0, runCount := 0 }
      cap := { x.cap with watchdog := some s.time, expiries := 0 }
      disp := { x.disp with watchdog := some s.time, expired := false } }) s

theorem enterRunning_eq (d : SideId) (s : State) :
    enterRunning d s =
      reformCab (if (s.side d).cfg.expo.manual then runningUp d s
        else queueExposure d (s.side d).cfg.expo.eInit (runningUp d s)) := by
  have hup : startWatchdogs d (updHead d (fun h => { h with health := .running, cause := 0, goodFrames := 0, runCount := 0 }) s) =
      runningUp d s := by
    simp only [startWatchdogs, updDisp, updCap, updHead, updSide_updSide, updSide_frame]
    rfl
  have hcfg : ((runningUp d s).side d).cfg = (s.side d).cfg := by simp [runningUp]
  simp only [enterRunning, hup, hcfg]

end

/-- Settles O33: the final outcome of a probe. -/
theorem probeOutcome : Obligations.ProbeOutcome := by
  constructor
  · intro e a s hk hr hs detail counted'
    have hdetail : linkDetail e = detail := by rw [linkDetail, hk]; rfl
    have hcount : ∀ k, streakFail e.side (raiseEvent k (scopeOf e.side) (linkDetail e) s) = counted' k := fun k => by
      rw [streakFail_counted (.inr (by rw [side_raiseEvent]; exact hs)), hdetail, counted, updHead]
      exact Timers.updSide_congr _ _ rfl
    rw [finalOutcome_probe a hk hr]
    cases a with
    | done v => rfl
    | refused => exact congrArg (outcomeProbe _ _) (hcount _)
    | badCheck => exact congrArg (outcomeProbe _ _) (hcount _)
    | noAnswer => exact congrArg (outcomeProbe _ _) (hcount _)
  · intro d a s x t detail up
    refine ⟨fun ha => ?_, fun ha => ?_⟩
    · have ht : t = enterRunning d s := by
        simp only [t, ha]
        exact if_pos rfl
      rw [ht, enterRunning_eq]
      refine ⟨fun hm => ?_, fun hm => ?_⟩
      · rw [if_pos hm]; rfl
      · rw [if_neg (by simpa using hm)]
        rw [queueExposure, show ((runningUp d s).side d).cfg = (s.side d).cfg by simp [runningUp]]
        rfl
    · have hdetail : probeDetail a = detail := by cases a <;> rfl
      have ht : t = enterFailed (releaseDeferred d) d 3 (raiseEvent .probeFailed (scopeOf d) detail s) := by
        rw [← hdetail]; exact outcomeProbe_failed ha
      refine ⟨ht, fun hdef => ?_⟩
      obtain ⟨⟨htorn, hother, -, -, -, -, b, h, q, hside⟩, hcause, hrec, hstay⟩ :=
        enterFailed_torn _ d 3 _ (Failing.plain_deferred (s := raiseEvent .probeFailed (scopeOf d) detail s)
          (by rw [side_raiseEvent]; exact hdef))
      rw [ht]
      rw [side_raiseEvent] at hother hrec hstay
      refine ⟨htorn, hcause, by rw [hside]; simp [x], hother, hrec, fun hn => ?_⟩
      obtain ⟨hhealth, -, hactive⟩ := hstay hn
      exact ⟨hhealth, hactive⟩

end Sys2Proof.Proofs.Outcomes

/-! ## PROOFS: cancellation and submission -/

namespace Sys2Proof.Proofs.Cancelling

open Sys2Proof Sys2Proof.Machine Sys2Proof.Safety Sys2Proof.Laws Sys2Proof.Proofs.Steps

/-! ### CANCELLED handed to the owners (R144, R147) -/

section
variable {d : SideId} {s : State} {n : Fin 6} {tag : Byte}

/-- The result a slot holds. -/
def resultAt (n : Fin 6) (s : State) : MailResult := s.link.results.get n.val ⟨0, .none, 0⟩

theorem resultAt_handCancelled_other {e : LinkEntry} (h : LinkEntry.ofSlot n e = false) :
    resultAt n (handCancelled e s) = resultAt n s := by
  rw [LinkEntry.ofSlot] at h
  rw [handCancelled]
  cases hk : e.kind with
  | probe => rfl
  | exposure => simp [resultAt]
  | mailbox m t =>
    have hne : m.val ≠ n.val := fun hv => by simp [hk, Fin.ext hv] at h
    exact get_set_ne _ _ _ hne

theorem resultAt_handCancelled {e : LinkEntry} (h : e.kind = .mailbox n tag) :
    resultAt n (handCancelled e s) = ⟨tag, .cancelled, 0⟩ := by
  rw [handCancelled, h]
  exact get_set_self _ _ _ n.isLt

theorem resultAt_handAll_other (es : List LinkEntry) (s : State) (h : ∀ e ∈ es, LinkEntry.ofSlot n e = false) :
    resultAt n (handAll es s) = resultAt n s := by
  induction es generalizing s with
  | nil => rfl
  | cons e rest ih =>
    rw [handAll, ih _ fun x hx => h x (List.mem_cons_of_mem e hx), resultAt_handCancelled_other (h e (List.mem_cons_self ..))]

/-- A slot of which every cancelled entry has this TAG: CANCELLED once one of them has been handed on, and ever after. -/
theorem resultAt_handAll (es : List LinkEntry) (s : State)
    (hall : ∀ e ∈ es, LinkEntry.ofSlot n e = true → e.kind = .mailbox n tag)
    (h : resultAt n s = ⟨tag, .cancelled, 0⟩ ∨ ∃ e ∈ es, e.kind = .mailbox n tag) :
    resultAt n (handAll es s) = ⟨tag, .cancelled, 0⟩ := by
  induction es generalizing s with
  | nil => exact h.resolve_right (by simp)
  | cons e rest ih =>
    rw [handAll]
    refine ih _ (fun x hx => hall x (List.mem_cons_of_mem e hx)) ?_
    by_cases he : e.kind = .mailbox n tag
    · exact .inl (resultAt_handCancelled he)
    · have hno : LinkEntry.ofSlot n e = false :=
        Bool.eq_false_of_not_eq_true fun ho => he (hall e (List.mem_cons_self ..) ho)
      rw [resultAt_handCancelled_other hno]
      refine h.imp_right fun ⟨x, hx, hk⟩ => ⟨x, (List.mem_cons.mp hx).resolve_left fun hxe => he (hxe ▸ hk), hk⟩

/-- CANCELLED handed on changes the results only, of the link. -/
theorem link_handAll (es : List LinkEntry) (s : State) :
    ∃ r, (handAll es s).link = { s.link with results := r } := by
  induction es generalizing s with
  | nil => exact ⟨s.link.results, rfl⟩
  | cons e rest ih =>
    have hone : ∃ r, (handCancelled e s).link = { s.link with results := r } := by
      rw [handCancelled]
      split
      · exact ⟨_, rfl⟩
      · exact ⟨s.link.results, by simp⟩
      · exact ⟨_, rfl⟩
    obtain ⟨r, hr⟩ := hone
    obtain ⟨q, hq⟩ := ih (handCancelled e s)
    exact ⟨q, by rw [handAll, hq, hr]⟩

/-! ### The queue without a side (R144) -/

/-- The link with a side's entries gone, before their owners are told. -/
def emptied (d : SideId) (s : State) : State :=
  updLink (fun k => { k with waiting := k.waiting.filter fun e => e.side != d })
    (if (inFlightOf d s.link).isEmpty then s else updLink (cutLine (s.refSince s.link.txStart)) s)

theorem cancelSide_eq (d : SideId) (s : State) :
    cancelSide d s = handAll ((linkEntries s.link).filter fun e => e.side == d) (emptied d s) := by
  rw [linkEntries, List.filter_append, ← Kept.inFlightOf_eq]
  rfl

theorem inFlightOf_isEmpty_iff : (inFlightOf d s.link).isEmpty = true ↔ ∀ e, s.link.inFlight = some e → e.side ≠ d := by
  rw [inFlightOf]
  split
  next e he =>
    rw [he]
    split
    next h => simp [h]
    next h => simp [h]
  next he => simp [he]

/-- Where the entry in flight is not of the side, the line goes on. -/
theorem emptied_link_other (h : ∀ e, s.link.inFlight = some e → e.side ≠ d) :
    (emptied d s).link = { s.link with waiting := s.link.waiting.filter fun e => e.side != d } := by
  rw [emptied, if_pos (inFlightOf_isEmpty_iff.mpr h)]
  rfl

theorem emptied_link {e : LinkEntry} (he : s.link.inFlight = some e) (h : e.side = d) :
    (emptied d s).link =
      { cutLine (s.refSince s.link.txStart) s.link with waiting := s.link.waiting.filter fun e => e.side != d } := by
  rw [emptied, if_neg fun hn => inFlightOf_isEmpty_iff.mp hn e he h]
  simp [cutLine_queue]

theorem resultAt_emptied : resultAt n (emptied d s) = resultAt n s := by
  have hcut : ∀ t, (cutLine t s.link).results = s.link.results := fun t => by
    rw [cutLine]
    split <;> rfl
  rw [resultAt, resultAt, emptied, updLink_link]
  split
  · rfl
  · rw [updLink_link, hcut]

end

/-- Settles O34: the cancellation of a side's entries. -/
theorem cancelSide : Obligations.CancelSide := by
  intro d s k t
  have ht : t = handAll ((linkEntries k).filter fun e => e.side == d) (emptied d s) := cancelSide_eq d s
  obtain ⟨⟨b, hside⟩, hother⟩ := side_cancelSide d s
  obtain ⟨r, hlink⟩ := link_handAll ((linkEntries k).filter fun e => e.side == d) (emptied d s)
  rw [← ht] at hlink
  refine ⟨?_, by simp [t], hother, by rw [show t.side d = _ from hside], ?_, fun n h => ?_, fun n tag e he hd hk h => ?_,
    fun h => ?_, fun e he hd => ?_⟩
  · by_cases h : ∀ e, k.inFlight = some e → e.side ≠ d
    · rw [hlink, emptied_link_other h]
    · push Not at h
      obtain ⟨e, he, hd⟩ := h
      rw [hlink, emptied_link he hd]
  · refine (Kept.request_cancelSide d s).trans ?_
    cases (linkEntries s.link).any (isExposure d) <;> simp
  · refine Eq.trans (?_ : resultAt n t = _) (resultAt_emptied (d := d) (s := s))
    rw [ht]
    refine resultAt_handAll_other _ _ fun e he => ?_
    obtain ⟨hin, hd⟩ := List.mem_filter.mp he
    exact h e hin (by simpa using hd)
  · refine (?_ : resultAt n t = _)
    rw [ht]
    refine resultAt_handAll _ _ (fun x hx ho => ?_) (.inr ⟨e, List.mem_filter.mpr ⟨he, by simp [hd]⟩, hk⟩)
    rw [h x (List.mem_filter.mp hx).1 ho, hk]
  · rw [hlink, emptied_link_other h]
    exact ⟨rfl, rfl⟩
  · rw [hlink, emptied_link he hd]
    refine ⟨(cutLine_queue _ _).1, fun hl => ?_, fun hl => ?_, fun hl => ?_⟩
    · rw [cutLine, show s.link.line = .sending from hl]
      exact ⟨rfl, rfl⟩
    · rcases hl with hl | hl
      · rw [cutLine, show s.link.line = .awaiting from hl]
      · rw [cutLine, show s.link.line = .receiving from hl]
    · rw [cutLine, show s.link.line = .guard from hl]

/-! ### Submissions (R145, R146) -/

section
variable {s : State} {n : Fin 6} {tag : Byte}

/-- A slot is busy while it has an entry. -/
theorem slotBusy_iff (n : Fin 6) (k : Link) : slotBusy n k = true ↔ ∃ e ∈ linkEntries k, LinkEntry.ofSlot n e = true := by
  rw [slotBusy, linkEntries]
  cases k.inFlight with
  | none => simp
  | some e => simp [or_and_right, exists_or]

theorem linkServed_iff (h : Health) : h.linkServed = true ↔ h ∈ [.probing, .running, .degraded, .failed] := by
  cases h <;> decide

/-- The merged beat of a TAG holds it, and is a form of the image. -/
theorem get_tagOff (h : Image.wf s.snoop.image = true) :
    Image.get (Image.mergeBeat s.snoop.image (tagOff n.val) ⟨tag.setWidth 64, 1⟩) (tagOff n.val) = tag := by
  rw [get_mergeBeat h]
  have hbyte : (⟨tag.setWidth 64, 1⟩ : Beat).byte 0 = tag := by
    refine BitVec.eq_of_getLsbD_eq fun i hi => ?_
    simp only [Beat.byte, BitVec.getLsbD_extractLsb', BitVec.getLsbD_setWidth]
    simp [hi, show i < 64 by omega]
  have hin : tagOff n.val < Config.imageBytes := by
    have := n.isLt
    simp only [tagOff, slotOff, Config.imageBytes]
    omega
  rw [Nat.sub_self, hbyte, if_pos ⟨le_refl _, by omega, by simp [Beat.strobed], hin⟩]

theorem side_mergeOp (off : Nat) (b : Beat) (s : State) (e : SideId) : (mergeOp off b s).side e = s.side e := by
  cases e <;> rfl

/-- A merge of the pending image flags nothing. -/
theorem publish_merge (off : Nat) (b : Beat) (s : State) : publish s (mergeOp off b s) = mergeOp off b s :=
  publish_same rfl rfl rfl rfl

/-- The slot's own part of a submission, of a TAG that the image holds. -/
theorem submitSlot_zero (h : Image.get s.snoop.image (tagOff n.val) = 0) : submitSlot n s = s := if_pos h

theorem submitSlot_busy (hg : Image.get s.snoop.image (tagOff n.val) = tag) (h : tag ≠ 0)
    (hb : slotBusy n s.link = true) : submitSlot n s = setResult n ⟨tag, .busy, 0⟩ s := by
  simp only [submitSlot, hg, if_neg h, if_pos hb]

theorem submitSlot_refused (hg : Image.get s.snoop.image (tagOff n.val) = tag) (h : tag ≠ 0)
    (hb : ¬slotBusy n s.link = true)
    (hs : ¬(s.side (slotSide s.snoop.image n.val)).head.health.linkServed = true) :
    submitSlot n s = setResult n ⟨tag, .refusedState, 0⟩ s := by
  simp only [submitSlot, hg, if_neg h, if_neg hb, if_neg hs]

theorem submitSlot_pending (hg : Image.get s.snoop.image (tagOff n.val) = tag) (h : tag ≠ 0)
    (hb : ¬slotBusy n s.link = true)
    (hs : (s.side (slotSide s.snoop.image n.val)).head.health.linkServed = true) :
    submitSlot n s = enqueueEntry (slotEntry s.snoop.image n tag) (setResult n ⟨tag, .pending, 0⟩ s) := by
  simp only [submitSlot, hg, if_neg h, if_neg hb, if_pos hs]

theorem act_submission (hr : s.inReset = false) :
    exec (.mailboxSubmission n tag) s =
      .next (publish s (submitSlot n (mergeOp (tagOff n.val) ⟨tag.setWidth 64, 1⟩ s))) := by
  rw [exec_mailboxSubmission, act_live _ hr, snoopBeat_tag]

end

/-- Settles O35: a mailbox submission. -/
theorem mailboxSubmission : Obligations.MailboxSubmission := by
  intro s n tag at' m s1 d read result busy hr hw
  have hget : Image.get (mergeOp (tagOff n.val) ⟨tag.setWidth 64, 1⟩ s).snoop.image (tagOff n.val) = tag := get_tagOff hw
  have hbusy : slotBusy n (mergeOp (tagOff n.val) ⟨tag.setWidth 64, 1⟩ s).link = true ↔ busy := slotBusy_iff n s.link
  have hserved : ((mergeOp (tagOff n.val) ⟨tag.setWidth 64, 1⟩ s).side
      (slotSide (mergeOp (tagOff n.val) ⟨tag.setWidth 64, 1⟩ s).snoop.image n.val)).head.health.linkServed = true ↔
      (s.side d).head.health ∈ [.probing, .running, .degraded, .failed] := by
    rw [← linkServed_iff, side_mergeOp]
    rfl
  refine ⟨fun h0 => ?_, fun h0 hb => ?_, fun h0 hb hs => ?_, fun h0 hb hs => ?_⟩
  · rw [act_submission hr, submitSlot_zero (hget.trans h0), publish_merge]
    rfl
  · rw [act_submission hr, submitSlot_busy hget h0 (hbusy.mpr hb)]
    rfl
  · rw [act_submission hr, submitSlot_refused hget h0 (mt hbusy.mp hb) (mt hserved.mp hs)]
    rfl
  · rw [act_submission hr, submitSlot_pending hget h0 (mt hbusy.mp hb) (hserved.mpr hs)]
    rfl

end Sys2Proof.Proofs.Cancelling

/-! ## PROOFS: beats of the settings block -/

namespace Sys2Proof.Proofs.Beats

open Sys2Proof Sys2Proof.Machine Sys2Proof.Safety Sys2Proof.Laws Sys2Proof.Proofs.Steps

section
variable {off : Nat} {strb : BitVec 8}

/-- A beat strobes a byte in `lo` to `hi` − 1. -/
def Strobes (off : Nat) (strb : BitVec 8) (lo hi : Nat) : Prop :=
  ∃ k, k < 8 ∧ strb.getLsbD k = true ∧ lo ≤ off + k ∧ off + k < hi

theorem when_strobes {lo hi : Nat} (f : State → State) (s : State) (h : Strobes off strb lo hi) :
    when (hits (strobedOffsets off strb) lo hi) f s = f s := if_pos ((hits_iff off strb lo hi).mpr h)

theorem when_not_strobes {lo hi : Nat} (f : State → State) (s : State) (h : ¬Strobes off strb lo hi) :
    when (hits (strobedOffsets off strb) lo hi) f s = s := if_neg (mt (hits_iff off strb lo hi).mp h)

/-- The slots of which the TAG byte is strobed act, in their order. -/
theorem slotActions_eq (os : List Nat) (ns : List (Fin 6)) (s : State) :
    slotActions os ns s =
      (ns.filter fun n => hits os (tagOff n.val) (tagOff n.val + 1)).foldl (fun u n => submitSlot n u) s := by
  induction ns generalizing s with
  | nil => rfl
  | cons n rest ih =>
    rw [slotActions, ih, List.filter_cons, when]
    split <;> rfl

end

/-- Settles O37: the order in which the fields of a beat act. -/
theorem beatActionOrder : Obligations.BeatActionOrder := by
  intro s off data strb m on hr
  let os := strobedOffsets off.toNat strb
  let tags : List (Fin 6) := [0, 1, 2, 3, 4, 5].filter fun n => hits os (tagOff n.val) (tagOff n.val + 1)
  refine ⟨_, _, _, _, _, _, tags, rfl,
    fun h => when_strobes globalApplyOp _ h, fun h => when_not_strobes globalApplyOp _ h,
    fun h => when_strobes ringReadOp _ h, fun h => when_not_strobes ringReadOp _ h,
    fun h => when_strobes commandOp _ h, fun h => when_not_strobes commandOp _ h,
    fun h => when_strobes (sideApply .left) _ h, fun h => when_not_strobes (sideApply .left) _ h,
    fun h => when_strobes (sideApply .right) _ h, fun h => when_not_strobes (sideApply .right) _ h, ?_, fun n => ?_, ?_⟩
  · exact List.Pairwise.filter _ (by decide)
  · have hall : n ∈ ([0, 1, 2, 3, 4, 5] : List (Fin 6)) := by revert n; decide
    have hfrom : tagOff n.val = 0xA08 + 16 * n.val := by rw [tagOff, slotOff]; omega
    have hto : tagOff n.val + 1 = 0xA09 + 16 * n.val := by rw [tagOff, slotOff]; omega
    rw [List.mem_filter, hto, hfrom]
    exact (and_iff_right hall).trans (hits_iff off.toNat strb _ _)
  · rw [exec_settingsWrite, act_live _ hr, snoopBeat, snoopActions, slotActions_eq]
    rfl

/-- A beat that strobes no field that acts is merged only. -/
theorem snoopBeat_merges {off : Nat} {b : Beat} (s : State)
    (h : ∀ k < 8, b.strb.getLsbD k = true → ¬Form.acts (off + k)) : snoopBeat off b s = mergeOp off b s := by
  have hmiss : ∀ lo hi, (∀ o, lo ≤ o → o < hi → Form.acts o) → hits (strobedOffsets off b.strb) lo hi = false :=
    fun lo hi hacts => Bool.eq_false_of_not_eq_true fun hh => by
      obtain ⟨k, hk, hon, hlo, hhi⟩ := (hits_iff _ _ _ _).mp hh
      exact h k hk hon (hacts _ hlo hhi)
  have htag : ∀ n : Fin 6, hits (strobedOffsets off b.strb) (tagOff n.val) (tagOff n.val + 1) = false := fun n =>
    hmiss _ _ fun o hlo hhi => .inr (.inr (.inr (.inr ⟨n.val, n.isLt, by rw [tagOff, slotOff] at hlo hhi; omega⟩)))
  rw [snoopBeat, snoopActions, slotActions_none htag]
  simp only [when]
  rw [hmiss 0x000 0x004 fun o _ _ => .inl (by omega), hmiss 0x004 0x006 fun o _ _ => .inl (by omega),
    hmiss 0x008 0x00C fun o _ _ => .inr (.inl (by omega)), hmiss 0x200 0x204 fun o _ _ => .inr (.inr (.inl (by omega))),
    hmiss 0x600 0x604 fun o _ _ => .inr (.inr (.inr (.inl (by omega))))]
  rfl

/-- Settles O36: a settings write. -/
theorem settingsWriteMerges : Obligations.SettingsWriteMerges := by
  intro s off data strb m hw
  refine ⟨wf_mergeBeat hw _ _, fun o => ?_, fun hr hwf => ?_⟩
  · rw [get_mergeBeat hw]
    rfl
  · obtain ⟨-, -, hquiet⟩ := (Form.settingsWrite off data strb).1.mp hwf
    rw [exec_settingsWrite, act_live _ hr, snoopBeat_merges s hquiet, Cancelling.publish_merge]
    rfl

end Sys2Proof.Proofs.Beats

/-! ## PROOFS: the read index and the applies -/

namespace Sys2Proof.Proofs.Settings

open Sys2Proof Sys2Proof.Machine Sys2Proof.Safety Sys2Proof.Laws Sys2Proof.Proofs.Steps

/-! ### The read index (R160, R167) -/

theorem readIndexOk_iff (s : State) (v : Half) :
    readIndexOk s v = true ↔ (s.inj.w - v).toNat ≤ ringCount s.snoop.cfg.ringSize ∧
      (recordInFlight s.inj = true → (s.inj.w + 1 - v).toNat ≤ ringCount s.snoop.cfg.ringSize) := by
  simp only [readIndexOk, Bool.and_eq_true, Bool.or_eq_true, Bool.not_eq_true', decide_eq_true_iff]
  cases recordInFlight s.inj <;> simp

/-- The read index is taken, and ATTN_N released where it has caught up. -/
theorem ringReadOp_taken {s : State} (h : readIndexOk s (Image.half s.snoop.image 4) = true) :
    ringReadOp s =
      { s with
        inj :=
          { s.inj with
            r := Image.half s.snoop.image 4
            attn := if Image.half s.snoop.image 4 = s.inj.w then false else s.inj.attn } } := by
  have hattn : ∀ v : Half, (s.inj.attn && v != s.inj.w) = if v = s.inj.w then false else s.inj.attn := fun v => by
    by_cases h : v = s.inj.w
    · simp [h]
    · simp [h]
  refine (if_pos h).trans ?_
  rw [hattn]

theorem ringReadOp_refused {s : State} (h : ¬readIndexOk s (Image.half s.snoop.image 4) = true) : ringReadOp s = s :=
  if_neg h

/-- Settles O40: a write to RING_READ. -/
theorem ringReadResult : Obligations.RingReadResult := by
  intro s v strb m s1 new n taken hr hstrb
  have hok : readIndexOk (mergeOp 0 ⟨v.setWidth 64 <<< 32, strb.setWidth 8 <<< 4⟩ s) new = true ↔ taken :=
    readIndexOk_iff _ _
  have hexec : exec (.ringRead v strb) s =
      .next (publish s (ringReadOp (mergeOp 0 ⟨v.setWidth 64 <<< 32, strb.setWidth 8 <<< 4⟩ s))) := by
    rw [exec_ringRead, act_live _ hr, snoopBeat_ring v strb hstrb]
  refine ⟨fun ht => ?_, fun ht => ?_⟩
  · rw [hexec, ringReadOp_taken (hok.mpr ht)]
    rfl
  · rw [hexec, ringReadOp_refused (mt hok.mp ht), Cancelling.publish_merge]
    rfl

end Sys2Proof.Proofs.Settings

/-! ## PROOFS: the global apply -/

namespace Sys2Proof.Proofs.GlobalApply

open Sys2Proof Sys2Proof.Machine Sys2Proof.Safety Sys2Proof.Laws Sys2Proof.Proofs.Steps

/-! ### Fields of the image, byte by byte (R189) -/

section
variable (m : Image) (o : Nat)

theorem field_one : Image.field m o 1 = (Image.get m o).toNat := by
  simp [Image.field, natOfBytes, List.range_succ]

theorem field_two : Image.field m o 2 = (Image.get m o).toNat + 256 * (Image.get m (o + 1)).toNat := by
  simp [Image.field, natOfBytes, List.range_succ]

theorem field_four :
    Image.field m o 4 =
      (Image.get m o).toNat + 256 * (Image.get m (o + 1)).toNat +
        65536 * ((Image.get m (o + 2)).toNat + 256 * (Image.get m (o + 2 + 1)).toNat) := by
  simp [Image.field, natOfBytes, List.range_succ]
  ring

end

/-! ### The requirements (R186) -/

theorem ringOk_iff (g : GlobalCfg) :
    ringOk g = true ↔ g.ringSize ≤ 5 ∧ g.ringBase % 32 = 0 ∧
      (g.ringSize = 0 ∨ g.ringBase + 32 * (8 * 2 ^ g.ringSize) ≤ 4294967296) := by
  simp only [ringOk, Bool.and_eq_true, Bool.or_eq_true, decide_eq_true_iff, beq_iff_eq, and_assoc]
  refine and_congr_right fun h5 => and_congr_right fun _ => ?_
  by_cases h0 : g.ringSize = 0
  · simp [h0]
  · have hcount : ringCount g.ringSize = 8 * 2 ^ g.ringSize := if_pos ⟨by omega, h5⟩
    exact iff_of_eq (congrArg (fun n => g.ringSize = 0 ∨ g.ringBase + 32 * n ≤ 4294967296) hcount)

theorem globalReason_eq (g : GlobalCfg) :
    globalReason g = if ringOk g = true then (if 50 ≤ g.blPeriod ∧ g.blPeriod ≤ 5000 ∧ 1 ≤ g.linkTimeout then 0 else 13)
      else 12 := by
  simp [globalReason, firstBroken, inRange, and_assoc]

/-! ### The injector and the backlight in service (R162, R184) -/

section
variable (g : GlobalCfg) (s : State)

theorem serving_eq :
    Kept.serving g s =
      { s with
        snoop := { s.snoop with cfg := g, reject := 0 }
        faults :=
          { s.faults with
            edges :=
              if ({ s with snoop := { s.snoop with cfg := g } } : State).faultAsserted = s.faultAsserted then s.faults.edges
              else s.faults.edges ++ [({ s with snoop := { s.snoop with cfg := g } } : State).faultAsserted] }
        inj :=
          if s.inj.serving then s.inj
          else { s.inj with serving := true, flagGlobal := true, flagFaults := true, flagLeft := true, flagRight := true }
        backlight :=
          if s.inj.serving = true ∨ s.backlight.running = true then s.backlight
          else { s.backlight with running := true, rampTimer := some s.time } } := by
  have hpin : ({ s with snoop := { s.snoop with cfg := g, reject := 0 } } : State).faultAsserted =
      ({ s with snoop := { s.snoop with cfg := g } } : State).faultAsserted := rfl
  rw [Kept.serving, Resets.followPin_eq, hpin, startService]
  cases hs : s.inj.serving with
  | true => simp
  | false => cases hb : s.backlight.running <;> simp [startBacklight, hb]

/-- A monitor with its target re-formed and its bypass taken (R103, R106). -/
def aimed (d : SideId) (m : Monitor) : Monitor :=
  { m with target := targetOf s d, cur := if bypassOn s.snoop.cfg d then bypassDuty s.snoop.cfg d else m.cur }

/-- The state with both monitors aimed. -/
def aimedState (f : Bool) : State :=
  { s with
    backlight := { s.backlight with left := aimed s .left s.backlight.left, right := aimed s .right s.backlight.right }
    inj := { s.inj with flagGlobal := f } }

theorem reformTarget_eq (d : SideId) :
    ∃ f, reformTarget d s =
      updMonitor d (fun m => { m with target := targetOf s d }) { s with inj := { s.inj with flagGlobal := f } } := by
  by_cases h : (s.monitor d).target = targetOf s d
  · refine ⟨s.inj.flagGlobal, (Lights.reformTarget_of_same h).trans ?_⟩
    rw [← h]
    cases d <;> rfl
  · exact ⟨true, Lights.reformTarget_of_change h⟩

theorem takeBypass_eq (d : SideId) :
    takeBypass d s =
      updMonitor d (fun m => { m with cur := if bypassOn s.snoop.cfg d then bypassDuty s.snoop.cfg d else m.cur }) s := by
  rw [takeBypass]
  split
  · rfl
  · cases d <;> rfl

theorem aimed_eq :
    ∃ f, takeBypass .right (takeBypass .left (reformTarget .right (reformTarget .left s))) = aimedState s f := by
  obtain ⟨f, hf⟩ := reformTarget_eq s .left
  obtain ⟨f', hf'⟩ := reformTarget_eq (reformTarget .left s) .right
  refine ⟨f', ?_⟩
  rw [takeBypass_eq, takeBypass_eq, hf', hf]
  rfl

/-- What a target is formed from. -/
theorem targetOf_congr {s t : State} {d : SideId} (hc : t.cab = s.cab) (hn : t.snoop.cfg = s.snoop.cfg)
    (hs : t.side d = s.side d) : targetOf t d = targetOf s d := by
  rw [targetOf, targetOf, hc, hn, hs]

/-- A monitor after a global apply: aimed, and stepped where the ramp timer is due (R108). -/
def appliedMonitor (d : SideId) (m : Monitor) : Monitor :=
  if rampDue s then tickMonitor s.snoop.cfg d (aimed s d m) else aimed s d m

/-- The backlight unit after a global apply. -/
def appliedLight : Backlight :=
  { s.backlight with
    left := appliedMonitor s .left s.backlight.left
    right := appliedMonitor s .right s.backlight.right
    rampTimer := if rampDue s then some s.time else s.backlight.rampTimer }

theorem backlightApply_eq :
    ∃ f, backlightApply s = { s with backlight := appliedLight s, inj := { s.inj with flagGlobal := f } } := by
  obtain ⟨f, hf⟩ := aimed_eq s
  have hdue : rampDue (aimedState s f) = rampDue s := rfl
  simp only [backlightApply, hf, hdue, appliedLight, appliedMonitor]
  cases rampDue s with
  | true =>
    simp only [if_true, rampTickOp, Lights.flagGlobal_when]
    exact ⟨_, rfl⟩
  | false => exact ⟨f, rfl⟩

/-- A duty after a global apply, as the ramp timer and the bypass have it. -/
theorem appliedMonitor_spec (d : SideId) (m : Monitor) :
    (appliedMonitor s d m).target = targetOf s d ∧ (appliedMonitor s d m).out = m.out ∧
      (appliedMonitor s d m).high = m.high ∧
      (bypassOn s.snoop.cfg d = true → (appliedMonitor s d m).cur = bypassDuty s.snoop.cfg d) ∧
      (bypassOn s.snoop.cfg d = false → ¬rampDue s = true → (appliedMonitor s d m).cur = m.cur) ∧
      (bypassOn s.snoop.cfg d = false → rampDue s = true →
        (appliedMonitor s d m).cur =
          if m.cur < targetOf s d then min (targetOf s d) (m.cur + s.snoop.cfg.rampStep)
          else if targetOf s d < m.cur then max (targetOf s d) (m.cur - s.snoop.cfg.rampStep)
          else m.cur) := by
  rw [appliedMonitor]
  cases hdue : rampDue s with
  | true =>
    rw [if_pos rfl, Lights.tickMonitor_eq]
    cases hbyp : bypassOn s.snoop.cfg d with
    | true => simp [aimed, Lights.nextDuty, hbyp]
    | false => simp [aimed, Lights.nextDuty, hbyp]
  | false =>
    cases hbyp : bypassOn s.snoop.cfg d with
    | true => simp [aimed, hbyp]
    | false => simp [aimed, hbyp]

/-! ### The ring, and the lamp level (R161, R184) -/

/-- The ring stays where its place and its size do. -/
theorem withRing_same (h : s.snoop.cfg.ringBase = g.ringBase ∧ s.snoop.cfg.ringSize = g.ringSize) :
    Kept.withRing g s = Kept.serving g s := if_neg (by simp [h])

theorem withRing_changed (h : ¬(s.snoop.cfg.ringBase = g.ringBase ∧ s.snoop.cfg.ringSize = g.ringSize)) :
    Kept.withRing g s = reconfigureRing (Kept.serving g s) :=
  if_pos (by simpa [← not_and_or] using h)

/-- What the ring's reconfiguration leaves. -/
theorem reconfigureRing_eq :
    reconfigureRing s =
      { s with
        inj :=
          { s.inj with w := 0, r := 0, attn := false, inflight := s.inj.inflight.map staleBurst, flagGlobal := true }
        snoop := { s.snoop with image := Image.put (Image.put s.snoop.image 4 0) 5 0 } } := rfl

theorem currentRecord_stale (i : Injector) :
    currentRecord { i with inflight := i.inflight.map staleBurst } = false := by
  rw [currentRecord]
  cases i.inflight with
  | none => rfl
  | some b =>
    rcases hk : b.kind with _ | _
    · simp [staleBurst, hk]
    · simp [staleBurst, hk]

/-- The state with the lamp level read anew where its polarity has changed. -/
theorem lampRestart_eq (old : GlobalCfg) (hg : s.snoop.cfg = g) :
    (if old.lampPol != g.lampPol then lampRestart s else s) =
      { s with
        lamp :=
          { s.lamp with
            measure :=
              if old.lampPol = g.lampPol then s.lamp.measure
              else if (s.lamp.pin != g.lampPol) = s.lamp.on then none else some s.time } } := by
  by_cases h : old.lampPol = g.lampPol
  · simp [h]
  · simp [h, lampRestart, Resets.lampCompare_eq, hg]

/-- The settings in service, the ring aside. -/
theorem withRing_leaves :
    (Kept.withRing g s).snoop.cfg = g ∧ (Kept.withRing g s).snoop.reject = 0 ∧
      (Kept.withRing g s).lamp = s.lamp ∧ (Kept.withRing g s).time = s.time ∧
      (Kept.withRing g s).faults = (Kept.serving g s).faults ∧
      (Kept.withRing g s).backlight = (Kept.serving g s).backlight ∧ (∀ d, (Kept.withRing g s).side d = s.side d) ∧
      (Kept.withRing g s).link = s.link ∧ (Kept.withRing g s).path = s.path ∧ (Kept.withRing g s).cab = s.cab ∧
      (Kept.withRing g s).inj.seq = s.inj.seq ∧ (Kept.withRing g s).inj.serving = true ∧
      (s.inj.serving = false → (Kept.withRing g s).inj.flagFaults = true ∧ (Kept.withRing g s).inj.flagLeft = true ∧
        (Kept.withRing g s).inj.flagRight = true) := by
  have hinj : (Kept.serving g s).inj.seq = s.inj.seq ∧ (Kept.serving g s).inj.serving = true ∧
      (s.inj.serving = false → (Kept.serving g s).inj.flagFaults = true ∧ (Kept.serving g s).inj.flagLeft = true ∧
        (Kept.serving g s).inj.flagRight = true) := by
    rw [serving_eq]
    cases hs : s.inj.serving with
    | true => simp [hs]
    | false => simp
  by_cases h : s.snoop.cfg.ringBase = g.ringBase ∧ s.snoop.cfg.ringSize = g.ringSize
  · rw [withRing_same g s h]
    refine ⟨?_, ?_, ?_, ?_, rfl, rfl, fun d => ?_, ?_, ?_, ?_, hinj⟩
    · rw [serving_eq]
    · rw [serving_eq]
    · rw [serving_eq]
    · rw [serving_eq]
    · rw [serving_eq]; cases d <;> rfl
    · rw [serving_eq]
    · rw [serving_eq]
    · rw [serving_eq]
  · rw [withRing_changed g s h, reconfigureRing_eq]
    refine ⟨?_, ?_, ?_, ?_, rfl, rfl, fun d => ?_, ?_, ?_, ?_, hinj⟩
    · rw [serving_eq]
    · rw [serving_eq]
    · rw [serving_eq]
    · rw [serving_eq]
    · rw [serving_eq]; cases d <;> rfl
    · rw [serving_eq]
    · rw [serving_eq]
    · rw [serving_eq]

/-- The ring where its place and its size stay. -/
theorem withRing_kept (h : s.snoop.cfg.ringBase = g.ringBase ∧ s.snoop.cfg.ringSize = g.ringSize) :
    (Kept.withRing g s).inj.w = s.inj.w ∧ (Kept.withRing g s).inj.r = s.inj.r ∧
      (Kept.withRing g s).inj.attn = s.inj.attn ∧ (Kept.withRing g s).inj.inflight = s.inj.inflight ∧
      (Kept.withRing g s).snoop.image = s.snoop.image := by
  rw [withRing_same g s h, serving_eq]
  cases hs : s.inj.serving with
  | true => simp
  | false => simp

/-- The ring where its place or its size changes. -/
theorem withRing_new (h : ¬(s.snoop.cfg.ringBase = g.ringBase ∧ s.snoop.cfg.ringSize = g.ringSize)) :
    (Kept.withRing g s).inj.w = 0 ∧ (Kept.withRing g s).inj.r = 0 ∧ (Kept.withRing g s).inj.attn = false ∧
      currentRecord (Kept.withRing g s).inj = false ∧
      (Kept.withRing g s).snoop.image = Image.put (Image.put s.snoop.image 4 0) 5 0 := by
  rw [withRing_changed g s h, reconfigureRing_eq]
  refine ⟨rfl, rfl, rfl, currentRecord_stale _, ?_⟩
  rw [serving_eq]

/-- A valid global apply, after the ring: the backlight and the lamp level (R108, R184). -/
theorem adoptGlobal_final :
    adoptGlobal g s =
      { Kept.withRing g s with
        backlight := appliedLight (Kept.withRing g s)
        inj := { (Kept.withRing g s).inj with flagGlobal := true }
        lamp :=
          { s.lamp with
            measure :=
              if s.snoop.cfg.lampPol = g.lampPol then s.lamp.measure
              else if (s.lamp.pin != g.lampPol) = s.lamp.on then none else some s.time } } := by
  obtain ⟨f, hf⟩ := backlightApply_eq (Kept.withRing g s)
  obtain ⟨hcfg, -, hlamp, htime, -⟩ := withRing_leaves g s
  have hcfg' : (backlightApply (Kept.withRing g s)).snoop.cfg = g := by rw [hf]; exact hcfg
  rw [Kept.adoptGlobal_eq, lampRestart_eq _ _ _ hcfg', hf]
  simp only [hlamp, htime]
  rfl

end

/-- Settles O38: a write to GLOBAL_APPLY. -/
theorem globalApplyResult : Obligations.GlobalApplyResult := by
  intro s v strb m s1 g reason byte two four bit ringOk' timesOk
  have hring : ringOk g = true ↔ ringOk' := ringOk_iff g
  have hreason : reason = if ringOk g = true then (if timesOk then 0 else 13) else 12 := globalReason_eq g
  have hexec : s.inReset = false → strb ≠ 0 →
      exec (.globalApply v strb) s = .next (publish s (globalApplyOp s1)) := fun hr hstrb => by
    rw [exec_globalApply, act_live _ hr, snoopBeat_global v strb hstrb]
    rfl
  refine ⟨?_, ?_, ?_, ?_, fun hr hstrb => ⟨fun hne => ?_, fun h0 => ?_⟩⟩
  · simp only [g, pendingGlobal, field_one, field_two, field_four]
    rfl
  · rw [hreason, ← hring]
    split_ifs <;> simp_all
  · rw [hreason, ← hring]
    split_ifs <;> simp_all
  · rw [hreason, ← hring]
    split_ifs <;> simp_all
  · rw [hexec hr hstrb, globalApplyOp]
    exact congrArg (fun t => Host.Outcome.next (publish s t)) (if_neg hne)
  · refine ⟨publish s (adoptGlobal g s1), (hexec hr hstrb).trans ?_, ?_⟩
    · exact congrArg (fun t => Host.Outcome.next (publish s t)) (if_pos h0)
    obtain ⟨hcfg, hrej, -, htime, hfaults, hlight, hside, hlink, hpath, hcab, hseq, hserv, hflags⟩ := withRing_leaves g s1
    generalize hW : Kept.withRing g s1 = W at *
    have hfinal := adoptGlobal_final g s1
    rw [hW] at hfinal
    rw [hfinal]
    have hbacklight : W.backlight =
        if s.inj.serving = true ∨ s.backlight.running = true then s.backlight
        else { s.backlight with running := true, rampTimer := some s.time } := hlight.trans (by rw [serving_eq])
    have hedges : W.faults = { s.faults with
        edges :=
          if ({ s with snoop := { s.snoop with cfg := g } } : State).faultAsserted = s.faultAsserted then s.faults.edges
          else s.faults.edges ++ [({ s with snoop := { s.snoop with cfg := g } } : State).faultAsserted] } :=
      hfaults.trans (by rw [serving_eq]; rfl)
    have htarget : ∀ d, targetOf (publish s { W with
        backlight := appliedLight W
        inj := { W.inj with flagGlobal := true }
        lamp :=
          { s1.lamp with
            measure :=
              if s1.snoop.cfg.lampPol = g.lampPol then s1.lamp.measure
              else if (s1.lamp.pin != g.lampPol) = s1.lamp.on then none else some s1.time } }) d = targetOf W d := by
      refine fun d => targetOf_congr (by simp) (by simp) ?_
      rw [side_publish]
      cases d <;> rfl
    refine ⟨by simpa using hcfg, by simpa using hrej, by simpa using hserv, by simp [publish_flags], fun h => ?_, ?_,
      by simp [s1], by simpa using hedges, fun d => ?_, by simpa using hlink, by simpa using hpath, by simpa using hcab,
      by simpa using hseq, fun h => ?_, fun h => ?_⟩
    · obtain ⟨h1, h2, h3⟩ := hflags h
      simp [publish_flags, h1, h2, h3]
    · intro b timer due monitor
      have htimer : W.backlight.rampTimer = timer := by
        rw [hbacklight]
        simp only [timer]
        split <;> rfl
      have hmonitors : W.backlight.left = b.left ∧ W.backlight.right = b.right ∧
          W.backlight.running = (b.running || !s.inj.serving) ∧ W.backlight.periodStart = b.periodStart ∧
          W.backlight.periodLen = b.periodLen := by
        rw [hbacklight]
        cases hs : s.inj.serving with
        | true => simp [b]
        | false => cases hb : s.backlight.running <;> simp [b, hb]
      obtain ⟨hl, hr', hrun, hstart, hlen⟩ := hmonitors
      have hdue : rampDue W = true ↔ due := by
        rw [Steps.rampDue_iff, htimer, hcfg, htime]
      have hmonitor : ∀ d, monitor d (bypassOn g d) (bypassDuty g d) (s.monitor d) (appliedMonitor W d (s.monitor d)) := by
        intro d
        obtain ⟨htgt, hout, hhigh, hbyp, hkeep, hstep⟩ := appliedMonitor_spec W d (s.monitor d)
        rw [hcfg] at hbyp hkeep hstep
        rw [← htgt] at hstep
        refine ⟨?_, hout, hhigh, hbyp, fun h hd => hkeep h (mt hdue.mp hd), fun h hd => hstep h (hdue.mpr hd)⟩
        rw [htgt, ← htarget]
      refine ⟨?_, ?_, by simpa [appliedLight] using hrun, fun hd => ?_, fun hd => ?_, by simpa [appliedLight] using hstart,
        by simpa [appliedLight] using hlen⟩
      · have hleft : monitor .left g.bypL g.bypDutyL b.left (appliedMonitor W .left b.left) := hmonitor .left
        simpa [appliedLight, hl] using hleft
      · have hright : monitor .right g.bypR g.bypDutyR b.right (appliedMonitor W .right b.right) := hmonitor .right
        simpa [appliedLight, hr'] using hright
      · simp [appliedLight, mt hdue.mp hd, htimer]
      · simp [appliedLight, hdue.mpr hd, htime, s1]
    · rw [side_publish]
      exact (by cases d <;> rfl : _ = W.side d).trans ((hside d).trans (by cases d <;> rfl))
    · have hring := withRing_kept g s1 h
      rw [hW] at hring
      simpa using hring
    · have hring := withRing_new g s1 h
      rw [hW] at hring
      simpa [currentRecord] using hring

end Sys2Proof.Proofs.GlobalApply

/-! ## PROOFS: the requirements of a side apply -/

namespace Sys2Proof.Proofs.Requirements

open Sys2Proof Sys2Proof.Machine Sys2Proof.Safety Sys2Proof.Laws Sys2Proof.Proofs.Steps

/-! ### The first requirement that is broken (R186) -/

theorem firstBroken_eq_zero {l : List (Nat × Bool)} (hpos : ∀ p ∈ l, p.1 ≠ 0) :
    firstBroken l = 0 ↔ ∀ p ∈ l, p.2 = true := by
  induction l with
  | nil => simp [firstBroken]
  | cons p rest ih =>
    obtain ⟨code, ok⟩ := p
    have ih := ih fun q hq => hpos q (List.mem_cons_of_mem _ hq)
    have hcode : code ≠ 0 := hpos (code, ok) (List.mem_cons_self ..)
    cases ok with
    | true => simpa [firstBroken] using ih
    | false => simp [firstBroken, hcode]

/-- The code found is of a requirement that is broken, and no requirement with a lower code is. -/
theorem firstBroken_found {l : List (Nat × Bool)} (hsorted : l.Pairwise fun p q => p.1 < q.1) (h : firstBroken l ≠ 0) :
    (firstBroken l, false) ∈ l ∧ ∀ p ∈ l, p.1 < firstBroken l → p.2 = true := by
  induction l with
  | nil => exact absurd rfl h
  | cons p rest ih =>
    obtain ⟨code, ok⟩ := p
    obtain ⟨hfirst, hrest⟩ := List.pairwise_cons.mp hsorted
    cases ok with
    | true =>
      obtain ⟨hmem, hlow⟩ := ih hrest h
      exact ⟨List.mem_cons_of_mem _ hmem, fun q hq hlt => (List.mem_cons.mp hq).elim (fun he => by rw [he])
        fun hq => hlow q hq hlt⟩
    | false =>
      refine ⟨List.mem_cons_self .., fun q hq hlt => ?_⟩
      have hlt : q.1 < code := hlt
      rcases List.mem_cons.mp hq with rfl | hq
      · exact absurd hlt (lt_irrefl _)
      · exact absurd (hfirst q hq) (by simpa using hlt.le)

/-! ### The tests, in the statements' words -/

theorem inRange_iff (lo hi v : Nat) : inRange lo hi v = true ↔ lo ≤ v ∧ v ≤ hi := by simp [inRange]

theorem maskOk_iff (m : Addr) : maskOk m = true ↔ ∃ k, 12 ≤ k ∧ k ≤ 28 ∧ m.toNat = 2 ^ 32 - 2 ^ k := by
  simp only [maskOk, List.any_eq_true, List.mem_range, beq_iff_eq]
  constructor
  · rintro ⟨k, hk, hm⟩
    exact ⟨k + 12, by omega, by omega, hm⟩
  · rintro ⟨k, h12, h28, hm⟩
    exact ⟨k - 12, by omega, by rwa [Nat.sub_add_cancel h12]⟩

/-- Two ranges keep apart. -/
def Apart (x y : Range) : Prop := x.hi < y.lo ∨ y.hi < x.lo

theorem not_overlaps_iff (x y : Range) : (!x.overlaps y) = true ↔ Apart x y := by
  simp only [Range.overlaps, Apart]
  simp
  omega

theorem disjointAll_iff (l : List Range) : disjointAll l = true ↔ l.Pairwise Apart := by
  induction l with
  | nil => simp [disjointAll]
  | cons r rest ih => simp only [disjointAll, Bool.and_eq_true, List.all_eq_true, not_overlaps_iff, ih, List.pairwise_cons]

theorem disjointFrom_iff (xs ys : List Range) : disjointFrom xs ys = true ↔ ∀ x ∈ xs, ∀ y ∈ ys, Apart x y := by
  simp only [disjointFrom, List.all_eq_true, not_overlaps_iff]

/-- The settings of which a code's requirement speaks, tested (R186). -/
def requirements (x : SideCfg) (other : Side) (block : Range) : List (Nat × Bool) :=
  [(1, maskOk x.cap.capMask && maskOk x.cap.dispMask),
   (2, disjointAll (cfgWindows x.cap) && disjointFrom (cfgWindows x.cap) (block :: activeWindows other)),
   (3, geometryOk x.cap),
   (4, decide (x.cap.area ≤ windowSize x.cap.capMask) && decide (x.cap.area ≤ windowSize x.cap.dispMask)),
   (5, areasOk x.cap (cfgWindows x.cap ++ block :: activeWindows other)), (6, roiOk x.cap x.dev), (7, kneesOk x.dev),
   (8, sceneOk x.scene), (9, expoOk x.expo), (10, camOk x.head other.cfg.head), (11, glareOk x.glare), (13, timingOk x)]

theorem sideReason_eq (x : SideCfg) (other : Side) (block : Range) :
    sideReason x other block = firstBroken (requirements x other block) := rfl

section
variable (x : SideCfg) (other : Side) (block : Range)

theorem windowsOk_iff :
    (disjointAll (cfgWindows x.cap) && disjointFrom (cfgWindows x.cap) (block :: activeWindows other)) = true ↔
      meets x other block 2 := by
  rw [Bool.and_eq_true, disjointAll_iff, disjointFrom_iff]
  rfl

theorem areasOk_iff :
    areasOk x.cap (cfgWindows x.cap ++ block :: activeWindows other) = true ↔ meets x other block 5 := by
  simp only [areasOk, Bool.and_eq_true, disjointAll_iff, disjointFrom_iff, List.all_eq_true, decide_eq_true_iff, beq_iff_eq,
    List.forall_mem_map, and_assoc]
  rfl

theorem timingOk_iff : timingOk x = true ↔ meets x other block 13 := by
  simp only [timingOk, Bool.and_eq_true, inRange_iff, and_assoc, meets, Nat.zero_le, true_and]

/-- Each test is of its code's requirement. -/
theorem requirements_iff : ∀ p ∈ requirements x other block, p.2 = true ↔ meets x other block p.1 := by
  simp only [requirements, List.forall_mem_cons, List.not_mem_nil, false_imp_iff, implies_true, and_true]
  refine ⟨?_, windowsOk_iff x other block, ?_, ?_, areasOk_iff x other block, ?_, ?_, ?_, ?_, ?_, ?_,
    timingOk_iff x other block⟩
  · simp only [Bool.and_eq_true, maskOk_iff, meets]
  · simp only [geometryOk, Bool.and_eq_true, inRange_iff, decide_eq_true_iff, beq_iff_eq, and_assoc, meets]
  · simp only [Bool.and_eq_true, decide_eq_true_iff, meets]
    rfl
  · simp only [roiOk, Bool.and_eq_true, decide_eq_true_iff, and_assoc, meets]
  · simp only [kneesOk, Bool.and_eq_true, decide_eq_true_iff, and_assoc, meets]
  · simp only [sceneOk, Bool.and_eq_true, inRange_iff, decide_eq_true_iff, and_assoc, meets]
  · simp only [expoOk, Bool.and_eq_true, decide_eq_true_iff, and_assoc, meets]
  · simp only [camOk, Bool.and_eq_true, inRange_iff, bne_iff_ne, meets]
  · simp only [glareOk, Bool.and_eq_true, decide_eq_true_iff, meets]

/-- A code of no test requires nothing. -/
theorem meets_of_untested {code : Nat} (h : ∀ p ∈ requirements x other block, p.1 ≠ code) : meets x other block code := by
  have hcode : code = 0 ∨ code = 12 ∨ 14 ≤ code := by
    simp only [requirements, List.forall_mem_cons] at h
    omega
  rcases hcode with rfl | rfl | hge
  · trivial
  · trivial
  · obtain ⟨n, rfl⟩ := Nat.exists_eq_add_of_le' hge
    trivial

/-- A requirement holds where its test passes. -/
theorem meets_of_tested {code : Nat} (h : ∀ p ∈ requirements x other block, p.1 = code → p.2 = true) :
    meets x other block code := by
  by_cases hin : ∃ p ∈ requirements x other block, p.1 = code
  · obtain ⟨p, hp, rfl⟩ := hin
    exact (requirements_iff x other block p hp).mp (h p hp rfl)
  · exact meets_of_untested x other block fun p hp hpc => hin ⟨p, hp, hpc⟩

theorem sideReason_zero : sideReason x other block = 0 ↔ ∀ code, meets x other block code := by
  rw [sideReason_eq, firstBroken_eq_zero (by simp [requirements])]
  constructor
  · exact fun h code => meets_of_tested x other block fun p hp _ => h p hp
  · exact fun h p hp => (requirements_iff x other block p hp).mpr (h p.1)

theorem sideReason_found (h : sideReason x other block ≠ 0) :
    ¬meets x other block (sideReason x other block) ∧ ∀ code < sideReason x other block, meets x other block code := by
  rw [sideReason_eq] at h ⊢
  obtain ⟨hmem, hlow⟩ := firstBroken_found (by simp [requirements]) h
  refine ⟨fun hmeets => ?_, fun code hcode => meets_of_tested x other block fun p hp hpc => hlow p hp (hpc ▸ hcode)⟩
  have hok := (requirements_iff x other block _ hmem).mpr hmeets
  cases hok

end
end Sys2Proof.Proofs.Requirements

/-! ## PROOFS: side applies -/

namespace Sys2Proof.Proofs.SideApply

open Sys2Proof Sys2Proof.Machine Sys2Proof.Safety Sys2Proof.Laws Sys2Proof.Proofs.Steps

section
variable {release : State → State} {d : SideId} {s : State}

/-! ### With no frame in progress nothing is released (R18, R20) -/

theorem teardownRelease_noFrame (h : (s.side d).cap.fip = none) : teardownRelease release d s = teardown d s :=
  if_neg (by simp [h])

theorem plain_noFrame (h : (s.side d).cap.fip = none) : Failing.Plain release d s :=
  fun _ _ hf => teardownRelease_noFrame (hf.elim (·.trans h) id)

theorem leaveUp_noFrame (was : Bool) (h : (s.side d).cap.fip = none) : leaveUp release was d s = leaveUp id was d s := by
  rw [leaveUp, leaveUp, teardownRelease_noFrame (by simpa using h), teardownRelease_noFrame (by simpa using h)]

theorem recoveryTest_noFrame (h : (s.side d).cap.fip = none) : recoveryTest release d s = recoveryTest id d s := by
  have hrec : ∀ f, enterRecovering release d (updHead d f s) = enterRecovering id d (updHead d f s) := fun f =>
    leaveUp_noFrame _ (by simpa using h)
  simp only [recoveryTest, hrec]

theorem enterFailed_noFrame (code : Nat) (h : (s.side d).cap.fip = none) :
    enterFailed release d code s = enterFailed id d code s := by
  rw [Failing.enterFailed_plain code (plain_noFrame h), Failing.enterFailed_plain code (plain_noFrame h)]
  exact recoveryTest_noFrame (Failing.side_failedState code).2.2.2.2.1

theorem frameExpiry_noFrame (h : (s.side d).cap.fip = none) : frameExpiry release d s = frameExpiry id d s := by
  have hfip : ((Timers.frameExpired d s).side d).cap.fip = none := by rw [Failing.side_frameExpired]; exact h
  rw [Timers.frameExpiry_eq, Timers.frameExpiry_eq, failRunning, failRunning, enterFailed_noFrame 1 hfip]

/-! ### What the watchdogs' expiries leave of the settings -/

theorem inReset_leaveUp (was : Bool) (h : teardownRelease release d (clearHealth d s) = teardown d (clearHealth d s)) :
    (leaveUp release was d s).inReset = s.inReset := by
  simp only [leaveUp, h]
  cases was <;> simp

theorem inReset_enterFailed (code : Nat) (h : (s.side d).cap.fip = none) :
    (enterFailed release d code s).inReset = s.inReset := by
  have hstate : (Failing.failedState d code s).inReset = s.inReset := by
    simp [Failing.failedState, Failing.failedDown, Kept.failedNow]
  have hfip := (Failing.side_failedState (d := d) (s := s) code).2.2.2.2.1
  rw [Failing.enterFailed_plain code (plain_noFrame h), recoveryTest]
  split
  · split
    · rw [enterRecovering, inReset_leaveUp _ (teardownRelease_noFrame (by simpa using hfip))]
      simpa using hstate
    · simpa using hstate
  · exact hstate

/-- What a watchdog's expiry leaves: the settings, the other side, the snoop and the time. -/
def SettingsStay (d : SideId) (s t : State) : Prop :=
  (t.side d).cfg = (s.side d).cfg ∧ (t.side d).configured = (s.side d).configured ∧
    (t.side d).reject = (s.side d).reject ∧ t.side d.other = s.side d.other ∧ t.snoop = s.snoop ∧ t.time = s.time ∧
    t.inReset = s.inReset

theorem SettingsStay.refl : SettingsStay d s s := ⟨rfl, rfl, rfl, rfl, rfl, rfl, rfl⟩

theorem SettingsStay.trans {t u : State} (h : SettingsStay d s t) (h' : SettingsStay d t u) : SettingsStay d s u := by
  obtain ⟨h1, h2, h3, h4, h5, h6, h7⟩ := h
  obtain ⟨k1, k2, k3, k4, k5, k6, k7⟩ := h'
  exact ⟨k1.trans h1, k2.trans h2, k3.trans h3, k4.trans h4, k5.trans h5, k6.trans h6, k7.trans h7⟩

theorem settings_frameExpiry (h : (s.side d).cap.fip = none) : SettingsStay d s (frameExpiry release d s) := by
  have hexpired : SettingsStay d s (Timers.frameExpired d s) := by simp [SettingsStay, Timers.frameExpired]
  have hfip : ((Timers.frameExpired d s).side d).cap.fip = none := by rw [Failing.side_frameExpired]; exact h
  have hfailed : SettingsStay d (Timers.frameExpired d s) (enterFailed release d 1 (Timers.frameExpired d s)) := by
    obtain ⟨⟨-, hother, hsnoop, -, -, htime, b, hd, q, hside⟩, -⟩ :=
      enterFailed_torn release d 1 (Timers.frameExpired d s) (plain_noFrame hfip)
    exact ⟨by rw [hside], by rw [hside], by rw [hside], hother, hsnoop, htime, inReset_enterFailed 1 hfip⟩
  rw [Timers.frameExpiry_eq, failRunning]
  split
  · split
    · exact hexpired.trans hfailed
    · exact hexpired
  · exact hexpired

theorem settings_displayExpiry {w : Time} (h : (s.side d).disp.watchdog = some w) : SettingsStay d s (displayExpiry d s) := by
  rw [Timers.displayExpiry_eq d s h]
  simp [SettingsStay]

/-! ### The comparison of the watchdogs (R185) -/

/-- The frame watchdog compared. -/
def frameCompared (d : SideId) (s : State) : State := if frameDue d s then frameExpiry (releaseDeferred d) d s else s

/-- The display watchdog compared. -/
def displayCompared (d : SideId) (s : State) : State := if displayDue d s then displayExpiry d s else s

theorem compareWatchdogs_noFrame (h : (s.side d).cap.fip = none) :
    compareWatchdogs d s = displayCompared d (frameCompared d s) := by
  rw [frameCompared, frameExpiry_noFrame h]
  rfl

theorem settings_frameCompared (h : (s.side d).cap.fip = none) : SettingsStay d s (frameCompared d s) := by
  rw [frameCompared]
  split
  · exact settings_frameExpiry h
  · exact .refl

theorem settings_displayCompared : SettingsStay d s (displayCompared d s) := by
  rw [displayCompared]
  split
  next h =>
    obtain ⟨-, -, w, hw, -⟩ := (Steps.displayDue_iff d s).mp h
    exact settings_displayExpiry hw
  · exact .refl

theorem exec_frameMissing_compared (hr : s.inReset = false) :
    exec (.frameMissing d) s = .next (publish s (frameCompared d s)) := act_live _ hr

theorem exec_displayIdle_compared (hr : s.inReset = false) :
    exec (.displayIdle d) s = .next (publish s (displayCompared d s)) := act_live _ hr

/-! ### A valid apply (R185) -/

theorem geometryChange_iff (a b : CaptureCfg) :
    geometryChange a b = true ↔
      ¬(a.capCode = b.capCode ∧ a.capMask = b.capMask ∧ a.dispCode = b.dispCode ∧ a.dispMask = b.dispMask ∧
        a.bufBase = b.bufBase ∧ a.fallback = b.fallback ∧ a.width = b.width ∧ a.height = b.height ∧ a.pitch = b.pitch) := by
  simp only [geometryChange, Bool.or_eq_true, bne_iff_ne, decide_eq_true_iff, not_and_or, or_assoc, ne_eq]

theorem tornDownTable_teardown : tornDownTable d (teardown d s) := by
  refine ⟨?_, ?_, ?_, ?_, ?_, ?_, isActive_clearCond ..⟩
  · rw [side_teardown]
  · rw [side_teardown]
  · rw [side_teardown]
  · rw [side_teardown]
  · rw [side_teardown]
  · rw [side_teardown]

/-- The settings installed (R185, steps 1, 2 and 4). -/
def installed (d : SideId) (c : SideCfg) (s : State) : State := updSide d (fun x => adoptSide x c) s

/-- The table torn down at a geometry change (R185, step 3). -/
def tornInstalled (d : SideId) (c : SideCfg) (s : State) : State :=
  if !(s.side d).configured || geometryChange (s.side d).cfg.cap c.cap then teardown d (installed d c s)
  else installed d c s

/-- The watchdogs compared (R185, step 6). -/
def comparedInstalled (d : SideId) (c : SideCfg) (s : State) : State :=
  displayCompared d (frameCompared d (tornInstalled d c s))

theorem fip_tornInstalled (c : SideCfg) (h : (s.side d).cap.fip = none) :
    ((tornInstalled d c s).side d).cap.fip = none := by
  rw [tornInstalled]
  split
  · rw [side_teardown]
  · simpa [installed, adoptSide] using h

theorem applySide_eq (c : SideCfg) (h : (s.side d).cap.fip = none) :
    applySide d c s =
      flagPage .global (flagPage (pageOf d)
        (if !(s.side d).configured && c.head.autoStart then powerUp d (comparedInstalled d c s)
         else comparedInstalled d c s)) := by
  have hcmp : compareWatchdogs d (tornInstalled d c s) = comparedInstalled d c s :=
    compareWatchdogs_noFrame (fip_tornInstalled c h)
  rw [← hcmp]
  rfl

/-- A side with the settings installed, its watchdogs compared. -/
theorem comparedInstalled_leaves (c : SideCfg) (h : (s.side d).cap.fip = none) :
    ((comparedInstalled d c s).side d).cfg = c ∧ ((comparedInstalled d c s).side d).configured = true ∧
      ((comparedInstalled d c s).side d).reject = 0 ∧ (comparedInstalled d c s).side d.other = s.side d.other ∧
      (comparedInstalled d c s).snoop = s.snoop ∧ (comparedInstalled d c s).time = s.time := by
  obtain ⟨hcfg, hconf, hrej, hother, hsnoop, htime, -⟩ :=
    (settings_frameCompared (fip_tornInstalled c h)).trans (settings_displayCompared (s := frameCompared d (tornInstalled d c s)))
  have htorn : ((tornInstalled d c s).side d).cfg = c ∧ ((tornInstalled d c s).side d).configured = true ∧
      ((tornInstalled d c s).side d).reject = 0 ∧ (tornInstalled d c s).side d.other = s.side d.other ∧
      (tornInstalled d c s).snoop = s.snoop ∧ (tornInstalled d c s).time = s.time := by
    rw [tornInstalled]
    split
    · simp [installed, adoptSide]
    · simp [installed, adoptSide]
  obtain ⟨k1, k2, k3, k4, k5, k6⟩ := htorn
  exact ⟨hcfg.trans k1, hconf.trans k2, hrej.trans k3, hother.trans k4, hsnoop.trans k5, htime.trans k6⟩

theorem applySide_applied (c : SideCfg) (hr : s.inReset = false) (h : (s.side d).cap.fip = none) :
    applied d c s (applySide d c s) := by
  obtain ⟨hcfg, hconf, hrej, hother, hsnoop, htime⟩ := comparedInstalled_leaves c h
  have hinReset : (tornInstalled d c s).inReset = false := by
    rw [tornInstalled]
    split <;> simpa [installed] using hr
  have hinReset' : (frameCompared d (tornInstalled d c s)).inReset = false :=
    (settings_frameCompared (fip_tornInstalled c h)).2.2.2.2.2.2.trans hinReset
  generalize h5 : (if !(s.side d).configured && c.head.autoStart then powerUp d (comparedInstalled d c s)
    else comparedInstalled d c s) = s5
  have hs5 : (s5.side d).cfg = c ∧ (s5.side d).configured = true ∧ (s5.side d).reject = 0 ∧
      s5.side d.other = s.side d.other ∧ s5.snoop = s.snoop := by
    rw [← h5]
    split
    · rw [Commands.powerUp_eq]
      simp [hcfg, hconf, hrej, hother, hsnoop]
    · exact ⟨hcfg, hconf, hrej, hother, hsnoop⟩
  obtain ⟨k1, k2, k3, k4, k5⟩ := hs5
  refine ⟨tornInstalled d c s, frameCompared d (tornInstalled d c s), comparedInstalled d c s, s5, fun ht => ?_,
    fun ht => ?_, exec_frameMissing_compared hinReset, exec_displayIdle_compared hinReset', fun hp => ?_, fun hp => ?_,
    ?_, ?_, ?_, ?_, ?_, ?_⟩
  · have htorn : tornInstalled d c s = teardown d (installed d c s) := if_pos (by simpa [geometryChange_iff] using ht)
    exact ⟨htorn, htorn ▸ tornDownTable_teardown⟩
  · exact if_neg (by simpa [geometryChange_iff] using ht)
  · rw [← h5, if_pos (by simpa using hp), Commands.powerUp_eq]
    exact Timers.updSide_congr d _ (by rw [hcfg, htime])
  · rw [← h5]
    exact if_neg (by simpa using hp)
  · rw [applySide_eq c h, h5]; simpa using k1
  · rw [applySide_eq c h, h5]; simpa using k2
  · rw [applySide_eq c h, h5]; simpa using k3
  · rw [applySide_eq c h, h5]; simpa using k4
  · rw [applySide_eq c h, h5]; simpa using k5
  · rw [applySide_eq c h, h5]
    cases d <;> rfl

/-! ### The word of an apply (R185, R187) -/

theorem applyNow_valid (h : sideApplyReason d s = 0) : applyNow d s = applySide d (pendingSide d s.snoop.image) s := if_pos h

theorem applyNow_refused (h : sideApplyReason d s ≠ 0) :
    applyNow d s =
      flagPage .global (updSide d (fun x => { x with reject := sideApplyReason d s })
        (raiseEvent .configRejected (scopeOf d) (BitVec.ofNat 32 (sideApplyReason d s)) s)) := if_neg h

theorem sideApply_refused (h : sideApplyReason d s ≠ 0) :
    sideApply d s =
      flagPage .global (updSide d (fun x => { x with reject := sideApplyReason d s, deferred := false })
        (raiseEvent .configRejected (scopeOf d) (BitVec.ofNat 32 (sideApplyReason d s)) s)) := by
  refine (if_neg h).trans ?_
  rw [applyNow_refused h]
  cases d <;> rfl

theorem sideApply_deferred (h : sideApplyReason d s = 0) (hf : (s.side d).cap.fip.isSome = true) :
    sideApply d s = updSide d (fun x => { x with deferred := true }) s := by
  rw [sideApply, if_pos h, if_pos hf, setDeferred]

theorem sideApply_applied (h : sideApplyReason d s = 0) (hf : (s.side d).cap.fip = none) :
    sideApply d s = applySide d (pendingSide d s.snoop.image) s := by
  rw [sideApply, if_pos h, if_neg (by simp [hf]), applyNow_valid h]

theorem releaseDeferred_deferred (h : (s.side d).deferred = true) :
    releaseDeferred d s = applyNow d (updSide d (fun x => { x with deferred := false }) s) := if_pos h

end

/-- Settles O39: a write to a side's APPLY word, and the release of a deferred apply. -/
theorem sideApplyResult : Obligations.SideApplyResult := by
  refine ⟨fun d m => ?_, fun c other block => ⟨Requirements.sideReason_zero c other block,
    Requirements.sideReason_found c other block⟩, fun s d v strb => ?_, fun s d => ?_⟩
  · intro area byte two four bit addr
    have harea : area = sideArea d := by cases d <;> rfl
    simp only [pendingSide, pendingCapture, pendingDev, pendingTone, pendingExpo, pendingGlare, pendingScene, pendingDisp,
      pendingHead, Image.addr, Image.half, Image.bit, Image.bits3, clampNat, Config.linMax, Config.toneMax,
      GlobalApply.field_one, GlobalApply.field_two, GlobalApply.field_four, Nat.add_assoc, byte, two, four, bit, addr,
      harea]
  · intro off m s1 x c reason hr hstrb
    have hs1 : mergeOp (sideArea d) ⟨v.setWidth 64, strb.setWidth 8⟩ s = s1 := by cases d <;> rfl
    have hexec : exec (.apply d v strb) s = .next (publish s (sideApply d s1)) := by
      rw [exec_apply, act_live _ hr, snoopBeat_apply d v strb hstrb, hs1]
    have hreason : sideApplyReason d s1 = reason := by cases d <;> rfl
    have hside : s1.side d = s.side d := by cases d <;> rfl
    refine ⟨fun hne => ?_, fun h0 hf => ?_, fun h0 hf => ⟨_, ?_, applySide_applied c hr (by rw [hside]; exact hf)⟩⟩
    · rw [hexec, sideApply_refused (by rw [hreason]; exact hne), hreason]
    · rw [hexec, sideApply_deferred (hreason.trans h0) (by rw [hside]; exact hf)]
    · rw [hexec, sideApply_applied (hreason.trans h0) (by rw [hside]; exact hf)]
  · intro s1 c reason
    have hreason : sideApplyReason d s1 = reason := by cases d <;> rfl
    have himage : pendingSide d s1.snoop.image = c := by cases d <;> rfl
    refine ⟨fun h => if_neg (by simp [h]), fun h hne => ?_, fun h h0 hr hf => ?_⟩
    · rw [releaseDeferred_deferred h, applyNow_refused (by rw [hreason]; exact hne), hreason]
    · rw [releaseDeferred_deferred h, applyNow_valid (hreason.trans h0), himage]
      exact applySide_applied c (by simpa [s1] using hr) (by simpa [s1] using hf)

end Sys2Proof.Proofs.SideApply

/-! ## PROOFS: the report injector -/

namespace Sys2Proof.Proofs.Injecting

open Sys2Proof Sys2Proof.Machine Sys2Proof.Safety Sys2Proof.Laws Sys2Proof.Proofs.Steps

/-! ### What the beats of a record and of a section hold (R163, R165, R189) -/

/-- A field as its offset, its width and its value. -/
def tripleOf (f : FieldVal) : Nat × Nat × Nat := (f.off, f.width, f.val)

/-- Beats that hold fields hold 0 wherever no field is. -/
theorem beatsHold_zeros {beats : List Beat} {n : Nat} {gs hs : List (Nat × Nat × Nat)} (h : beatsHold beats n gs)
    (hsub : ∀ g ∈ gs, g ∈ hs)
    (hzero : ∀ f ∈ hs, f ∈ gs ∨ f.2.2 = 0 ∧ f.1 + f.2.1 ≤ 8 * n ∧ ∀ g ∈ gs, f.1 + f.2.1 ≤ g.1 ∨ g.1 + g.2.1 ≤ f.1) :
    beatsHold beats n hs := by
  obtain ⟨hlen, hstrb, hval, hout⟩ := h
  refine ⟨hlen, hstrb, fun f hf => ?_, fun o ho hf => hout o ho fun g hg => hf g (hsub g hg)⟩
  rcases hzero f hf with hg | ⟨h0, hin, hapart⟩
  · exact hval f hg
  · rw [h0, Nat.zero_mod]
    refine List.sum_eq_zero fun x hx => ?_
    obtain ⟨k, hk, rfl⟩ := List.mem_map.mp hx
    have hk := List.mem_range.mp hk
    rw [hout (f.1 + k) (by omega) fun g hg => by have := hapart g hg; omega, Nat.mul_zero]

/-- The beats of a report's record. -/
theorem beatsHold_report (sq : BitVec 32) (r : Report) :
    beatsHold (recordBeats (reportFields sq r)) 4 ((reportFields sq r).map tripleOf) :=
  beatsHold_fields 4 [(0, 4), (4, 4), (8, 1), (9, 1), (10, 1), (11, 1), (12, 2), (14, 2), (16, 4), (20, 4)]
    (List.Sublist.refl _) (by decide) (by decide)

/-- The beats of an OVERFLOW record. -/
theorem beatsHold_overflow (sq : BitVec 32) (now : Time) (lost : Nat) :
    beatsHold (recordBeats (overflowFields sq now lost)) 4
      [(0, 4, sq.toNat), (4, 4, now.toNat), (8, 1, 0), (9, 1, 2), (10, 1, 3), (11, 1, 3), (12, 2, 0), (14, 2, 0),
       (16, 4, lost), (20, 4, 0)] := by
  refine beatsHold_zeros (gs := (overflowFields sq now lost).map tripleOf)
    (beatsHold_fields 4 [(0, 4), (4, 4), (9, 1), (10, 1), (11, 1), (16, 4)] (List.Sublist.refl _) (by decide) (by decide))
    ?_ ?_
  · simp [overflowFields, tripleOf]
  · simp [overflowFields, tripleOf]

/-! ### The sections' fields -/

/-- The places of a buffer record. -/
def bufPlaces (n : Nat) : List (Nat × Nat) :=
  [(0x20 + 16 * n, 1), (0x21 + 16 * n, 1), (0x22 + 16 * n, 2), (0x24 + 16 * n, 4), (0x28 + 16 * n, 4)]

/-- The places of a side's section. -/
def sidePlaces : List (Nat × Nat) :=
  [(0x00, 1), (0x01, 1), (0x02, 1), (0x03, 1), (0x04, 1), (0x05, 1), (0x06, 1), (0x07, 1), (0x15, 1), (0x08, 2),
    (0x0C, 4), (0x10, 4)] ++ [(0x14, 1), (0x18, 4)] ++ (List.range 3).flatMap bufPlaces ++
    [(0x50, 1), (0x51, 1), (0x52, 1), (0x54, 2), (0x56, 2), (0x58, 2), (0x5A, 2), (0x5C, 1), (0x60, 4), (0x64, 1),
      (0x68, 4)] ++ [(0x6C, 4), (0x70, 4)] ++ (List.range 21).map fun e => (0x80 + 2 * e, 2)

theorem bufFields_places (n : Nat) (b : Buf) : ((bufFields n b).map placeOf).Sublist (bufPlaces n) := by
  rw [bufFields, bufPlaces, List.map_cons]
  refine List.Sublist.cons_cons _ ?_
  cases b.info with
  | none => exact List.nil_sublist _
  | some f => exact List.Sublist.refl _

theorem sideFields_places (d : SideId) (s : State) : ((sideFields d s).map placeOf).Sublist sidePlaces := by
  have hbufs : (((List.range 3).flatMap fun n => bufFields n ((s.side d).cap.bufs.get n .free)).map placeOf).Sublist
      ((List.range 3).flatMap bufPlaces) := by
    simp only [Published.range3_flatMap, List.map_append, List.append_nil]
    exact (bufFields_places 0 _).append ((bufFields_places 1 _).append (bufFields_places 2 _))
  simp only [sideFields, sidePlaces, Published.fipFields_eq, Published.statsFields_eq, List.map_append, List.map_map]
  exact (((((List.Sublist.refl _).append (List.Sublist.refl _)).append hbufs).append (List.Sublist.refl _)).append
    (List.Sublist.refl _)).append (List.Sublist.refl _)

/-- The places of the FAULTS section. -/
def faultPlaces : List (Nat × Nat) := (List.range 40).flatMap fun n => [(4 * n, 1), (4 * n + 2, 2)]

theorem faultFields_places (s : State) : (faultFields s).map placeOf = faultPlaces := by
  rw [faultFields, List.map_flatMap]
  rfl

/-- The places of the GLOBAL section. -/
def globalPlaces : List (Nat × Nat) :=
  [(0x00, 4), (0x08, 2), (0x0C, 2), (0x04, 1), (0x05, 1), (0x06, 1), (0x0A, 2), (0x0E, 2), (0x10, 1), (0x14, 2), (0x16, 2),
    (0x18, 4), (0x1C, 2), (0x1E, 1), (0x20, 1), (0x21, 1), (0x24, 4), (0x28, 1), (0x2C, 1), (0x2D, 1), (0x2E, 1)] ++
    (List.range 6).flatMap fun n => [(0x30 + 4 * n, 1), (0x31 + 4 * n, 1), (0x32 + 4 * n, 2)]

theorem globalFields_places (s : State) : (globalQuiet s ++ globalNoted s).map placeOf = globalPlaces := by
  rw [globalNoted, List.map_append, List.map_append, List.map_flatMap]
  rfl

theorem sidePlaces_apart : sidePlaces.Pairwise fun a b => a.1 + a.2 ≤ b.1 ∨ b.1 + b.2 ≤ a.1 := by decide +kernel

theorem faultPlaces_apart : faultPlaces.Pairwise fun a b => a.1 + a.2 ≤ b.1 ∨ b.1 + b.2 ≤ a.1 := by decide +kernel

theorem globalPlaces_apart : globalPlaces.Pairwise fun a b => a.1 + a.2 ≤ b.1 ∨ b.1 + b.2 ≤ a.1 := by decide +kernel

/-- The beats of a section hold its fields. -/
theorem beatsHold_page (p : PageId) (s : State) : beatsHold (pageBeats p s) 32 ((pageFields p s).map tripleOf) := by
  cases p with
  | global => exact beatsHold_fields 32 globalPlaces (globalFields_places s ▸ List.Sublist.refl _) globalPlaces_apart (by decide)
  | faults => exact beatsHold_fields 32 faultPlaces (faultFields_places s ▸ List.Sublist.refl _) faultPlaces_apart (by decide)
  | left => exact beatsHold_fields 32 sidePlaces (sideFields_places .left s) sidePlaces_apart (by decide)
  | right => exact beatsHold_fields 32 sidePlaces (sideFields_places .right s) sidePlaces_apart (by decide)

/-- The fields of a buffer record, by its state. -/
theorem bufFields_eq (n : Nat) (b : Buf) :
    (bufFields n b).map tripleOf =
      match b with
      | .free => [(0x20 + 16 * n, 1, 0)]
      | .filling => [(0x20 + 16 * n, 1, 1)]
      | .ready f => (0x20 + 16 * n, 1, 2) :: frameFields n f
      | .shown f => (0x20 + 16 * n, 1, 3) :: frameFields n f := by
  cases b <;> rfl

theorem levelBits_eq (f : Nat → Bool) : levelBits f = (f 0).toNat + 2 * (f 1).toNat + 4 * (f 2).toNat := by
  simp only [levelBits, natOfBits]
  cases f 0 <;> cases f 1 <;> cases f 2 <;> rfl

/-- The sequence levels of EN1 to EN3 as bits (R126). -/
theorem seqBits_eq (q : Sequencer) :
    levelBits (seqLevel q) =
      (if 0 < q.step then 1 else 0) + (if 1 < q.step then 2 else 0) + if 2 < q.step then 4 else 0 := by
  simp only [levelBits_eq, seqLevel, Bool.toNat]
  by_cases h0 : 0 < q.step <;> by_cases h1 : 1 < q.step <;> by_cases h2 : 2 < q.step <;> simp [h0, h1, h2]

theorem bitPair_eq (a b : Bool) : natOfBits [a, b] = a.toNat + 2 * b.toNat := by
  cases a <;> cases b <;> rfl

/-! ### Issue (R162 to R165) -/

section
variable {s : State}

theorem act_recordIssue (hr : s.inReset = false) (hg : noGrantAtOnce s) (h : recordDue s = true) :
    exec .ringRecordIssue s = .next (publish s (issueRing s)) := by
  rw [exec_ringRecordIssue, act_live _ hr, if_pos h, grantNow_idle ((noGrantAtOnce_iff s).mp hg)]

theorem act_sectionIssue (hr : s.inReset = false) (hg : noGrantAtOnce s) (h : sectionDue s = true) :
    exec .sectionIssue s = .next (publish s (issueSection s)) := by
  rw [exec_sectionIssue, act_live _ hr, if_pos h, grantNow_idle ((noGrantAtOnce_iff s).mp hg)]

theorem issueRing_report {r : Report} {rest : List Report} (h0 : s.faults.lost = 0) (hq : s.faults.queue = r :: rest) :
    issueRing s =
      issueRecord (.ringRecord false 0 r.level false) (reportFields s.inj.seq r)
        { s with faults := { s.faults with queue := rest } } := by
  rw [issueRing, if_neg (by omega), hq]

theorem issueSection_eq {p : PageId} (h : firstFlagged s.inj = some p) :
    issueSection s =
      issueBurst (.page p) (blockBase s.anchor + BitVec.ofNat 32 (pageOff p)) (pageBeats p s) (unflagPage p s) := by
  rw [issueSection, h]

end

/-- Settles O41: what the injector issues. -/
theorem injectorIssues : Obligations.InjectorIssues := by
  intro s i room free pendingRecord slot record sideFields' fields hr hg
  have hrecord : recordDue s = true ↔ free ∧ room ∧ pendingRecord := recordDue_iff s
  have hsection : sectionDue s = true ↔ free ∧ ¬(room ∧ pendingRecord) ∧ ∃ p, firstFlagged i = some p := sectionDue_iff s
  have hside : ∀ d, (sideFields d s).map tripleOf = sideFields' d := fun d => by
    rw [sideFields]
    simp only [List.map_append]
    refine congrArg₂ (· ++ ·) (congrArg₂ (· ++ ·) (congrArg₂ (· ++ ·) (congrArg₂ (· ++ ·) (congrArg₂ (· ++ ·) ?_ ?_) ?_) ?_)
      ?_) ?_
    · rw [seqBits_eq, levelBits_eq]
      rfl
    · cases (s.side d).cap.fip <;> rfl
    · rw [List.map_flatMap]
      refine congrArg (List.flatMap · _) (funext fun n => ?_)
      cases (s.side d).cap.bufs.get n .free <;> rfl
    · cases (s.side d).scene.candidate <;> rfl
    · cases (s.side d).coll.last <;> rfl
    · rw [List.map_map]
      rfl
  have hfields : ∀ p, (pageFields p s).map tripleOf = fields p := fun p => by
    cases p with
    | left => exact hside .left
    | right => exact hside .right
    | faults => exact List.map_flatMap
    | global =>
      rw [pageFields, List.map_append, globalNoted, List.map_append, List.map_flatMap, ← List.append_assoc]
      refine congrArg (· ++ _) ?_
      rw [bitPair_eq, Published.linkDepth_eq]
      rfl
  refine ⟨fun hf hroom hl => ?_, fun hf hroom h0 r rest hq => ?_, fun h => ?_, fun hf hn p hp => ?_, fun h => ?_⟩
  · refine ⟨_, beatsHold_overflow s.inj.seq s.time s.faults.lost, ?_⟩
    rw [act_recordIssue hr hg (hrecord.mpr ⟨hf, hroom, .inl hl⟩), issueRing, if_pos hl]
    rfl
  · refine ⟨_, beatsHold_report s.inj.seq r, ?_⟩
    rw [act_recordIssue hr hg (hrecord.mpr ⟨hf, hroom, .inr (by simp [hq])⟩), issueRing_report h0 hq]
    rfl
  · exact (exec_ringRecordIssue s).trans (act_none _ (if_neg (mt hrecord.mp h)))
  · refine ⟨_, hfields p ▸ beatsHold_page p s, ?_⟩
    rw [act_sectionIssue hr hg (hsection.mpr ⟨hf, hn, p, hp⟩), issueSection_eq hp]
    cases p <;> rfl
  · refine (exec_sectionIssue s).trans (act_none _ (if_neg fun hd => ?_))
    obtain ⟨hf, hn, p, hp⟩ := hsection.mp hd
    rcases h with h | h | h
    · exact h hf
    · exact hn h
    · rw [h] at hp; cases hp

end Sys2Proof.Proofs.Injecting

/-! ## PROOFS: responses to the injector -/

namespace Sys2Proof.Proofs.Injected

open Sys2Proof Sys2Proof.Machine Sys2Proof.Safety Sys2Proof.Laws Sys2Proof.Proofs.Steps

section
variable {s : State} {b : InjBurst}

/-- The injected burst has been answered, and holds the write channels no more (R162, R180). -/
theorem endInjected_eq (s : State) :
    endInjected s =
      { s with
        inj := { s.inj with inflight := none }
        path := { s.path with tail := if s.path.tail = some .injector then none else s.path.tail } } := by
  have htail : (updInj (fun i => { i with inflight := none }) s).path.tail = s.path.tail := by simp
  simp only [endInjected, htail]
  split
  next h => rfl
  next h => rfl

theorem reportPath_error {r : Resp} (h : r = .slverr ∨ r = .decerr) (a : Addr) (s : State) :
    reportPath r a s = raiseCond .reportPath .global a s := if_pos ((isError_iff r).mpr h)

theorem reportPath_ok {r : Resp} (h : ¬(r = .slverr ∨ r = .decerr)) (a : Addr) (s : State) :
    reportPath r a s = clearCond .reportPath .global s := if_neg (mt (isError_iff r).mp h)

theorem ringResponseOp_record {o : Bool} {c l : Nat} {st : Bool} (hi : s.inj.inflight = some b) (hg : b.granted = true)
    (hk : b.kind = .ringRecord o c l st) (r : Resp) : ringResponseOp r s = recordResponse o c l st b.addr r s := by
  simp only [ringResponseOp, hi, hk]
  exact if_pos hg

theorem ringResponseOp_page {p : PageId} (hi : s.inj.inflight = some b) (hk : b.kind = .page p) (r : Resp) :
    ringResponseOp r s = s := by
  simp only [ringResponseOp, hi, hk]

theorem pageResponseOp_page {p : PageId} (hi : s.inj.inflight = some b) (hg : b.granted = true) (hk : b.kind = .page p)
    (r : Resp) : pageResponseOp r s = sectionResponseOp p b.addr r s := by
  simp only [pageResponseOp, hi, hk]
  exact if_pos hg

theorem pageResponseOp_record {o : Bool} {c l : Nat} {st : Bool} (hi : s.inj.inflight = some b)
    (hk : b.kind = .ringRecord o c l st) (r : Resp) : pageResponseOp r s = s := by
  simp only [pageResponseOp, hi, hk]

/-- A record that did not land gives its count back. -/
theorem recordResponse_lost {o : Bool} {c l : Nat} {st : Bool} {r : Resp} (a : Addr) (h : st = true ∨ r.isError = true) :
    recordResponse o c l st a r s = reportPath r a (addLost (if o then c else 1) (endInjected s)) := by
  rw [recordResponse, if_pos (by simpa using h)]
  rfl

theorem recordResponse_landed {o : Bool} {c l : Nat} {r : Resp} (a : Addr) (h : ¬r.isError = true) :
    recordResponse o c l false a r s = reportPath r a (landRecord l (endInjected s)) := by
  rw [recordResponse, if_neg (by simpa using h)]

end

/-- Settles O42: the response to an injected burst. -/
theorem injectedResponses : Obligations.InjectedResponses := by
  intro s b done failed landed lose hr hi hg r error
  have hdone : endInjected s = done := endInjected_eq s
  have herr : r.isError = true ↔ error := isError_iff r
  have hring : exec (.ringRecordResponse r) s = .next (publish s (ringResponseOp r s)) := by
    rw [exec_ringRecordResponse, act_live _ hr]
  have hpage : exec (.sectionResponse r) s = .next (publish s (pageResponseOp r s)) := by
    rw [exec_sectionResponse, act_live _ hr]
  refine ⟨fun carried overflow level stale hk => ⟨fun he => ?_, fun he hst => ?_, fun he hst => ?_, ?_⟩,
    fun p hk => ⟨fun he => ?_, fun he => ?_, ?_⟩⟩
  · rw [hring, ringResponseOp_record hi hg hk, recordResponse_lost _ (.inr (herr.mpr he)), reportPath_error he, hdone]
    rfl
  · rw [hring, ringResponseOp_record hi hg hk, recordResponse_lost _ (.inl hst), reportPath_ok he, hdone]
    rfl
  · rw [hring, ringResponseOp_record hi hg hk, hst, recordResponse_landed _ (mt herr.mp he), reportPath_ok he, hdone]
    rfl
  · rw [hpage, pageResponseOp_record hi hk, publish_self]
  · rw [hpage, pageResponseOp_page hi hg hk, sectionResponseOp, if_pos (herr.mpr he), reportPath_error he, hdone]
  · rw [hpage, pageResponseOp_page hi hg hk, sectionResponseOp, if_neg (mt herr.mp he), reportPath_ok he, hdone]
  · rw [hring, ringResponseOp_page hi hk, publish_self]

end Sys2Proof.Proofs.Injected

/-! ## PROOFS: bursts -/

namespace Sys2Proof.Proofs.Bursts

open Sys2Proof Sys2Proof.Machine Sys2Proof.Safety Sys2Proof.Laws Sys2Proof.Proofs.Steps

section
variable (b : Burst)

/-! ### Sizes and multiples -/

theorem bytes_cases (z : BeatSize) : z.bytes = 1 ∨ z.bytes = 2 ∨ z.bytes = 4 ∨ z.bytes = 8 := by
  cases z <;> simp [BeatSize.bytes]

theorem bytes_pos (z : BeatSize) : 0 < z.bytes := by
  rcases bytes_cases z with h | h | h | h <;> omega

theorem len_pos : 0 < b.len := Nat.succ_pos _

/-- An address lies in its aligned beat. -/
theorem aligned_le (A : Nat) {S : Nat} (hS : 0 < S) : A / S * S ≤ A ∧ A < A / S * S + S := by
  have h := Nat.div_add_mod' A S
  have hlt := Nat.mod_lt A hS
  omega

/-- The wrap region holds a whole number of beats, and begins with one. -/
theorem wrapBase_eq : wrapBase b = b.addr.toNat / b.size.bytes / b.len * b.len * b.size.bytes := by
  rw [wrapBase, burstSpan, ← Nat.div_div_eq_div_mul, Nat.mul_assoc, Nat.mul_comm b.len]

/-- The number of the first beat within the wrap region. -/
theorem wrap_units :
    ∃ p q, wrapBase b = p * b.size.bytes ∧ burstAligned b = (p + q) * b.size.bytes ∧ q < b.len := by
  refine ⟨b.addr.toNat / b.size.bytes / b.len * b.len, b.addr.toNat / b.size.bytes % b.len, wrapBase_eq b, ?_,
    Nat.mod_lt _ (len_pos b)⟩
  rw [Nat.div_add_mod', burstAligned]

/-! ### Byte ranges (R172) -/

theorem byteRange_le : (byteRange b).1 ≤ (byteRange b).2 := by
  have hS := bytes_pos b.size
  obtain ⟨hle, hlt⟩ := aligned_le b.addr.toNat hS
  have hspan : b.size.bytes ≤ b.len * b.size.bytes := Nat.le_mul_of_pos_left _ (len_pos b)
  rw [byteRange]
  cases b.kind with
  | fixed => simp only [burstStart, burstAligned]; omega
  | incr => simp only [burstStart, burstAligned]; omega
  | wrap =>
    have hpos : 0 < burstSpan b := Nat.mul_pos hS (len_pos b)
    simp only; omega

theorem touches_iff {w : Range} (hw : w.lo ≤ w.hi) :
    touches b w = true ↔ ∃ a, (byteRange b).1 ≤ a ∧ a ≤ (byteRange b).2 ∧ w.lo ≤ a ∧ a ≤ w.hi := by
  have hb := byteRange_le b
  simp only [touches, Bool.and_eq_true, decide_eq_true_iff]
  constructor
  · exact fun ⟨h1, h2⟩ => ⟨max (byteRange b).1 w.lo, by omega, by omega, by omega, by omega⟩
  · rintro ⟨a, h1, h2, h3, h4⟩
    omega

/-! ### Beats (R172) -/

section
variable {b} {n : Nat}

theorem beatAddr_start (h : n = 0 ∨ b.kind = .fixed) : beatAddr b n = b.addr.toNat := by
  rw [beatAddr]
  split
  · rfl
  next hn => rw [h.resolve_left hn]; rfl

theorem beatAddr_incr (hn : 0 < n) (hk : b.kind = .incr) : beatAddr b n = burstAligned b + n * b.size.bytes := by
  rw [beatAddr, if_neg (by omega), hk]

theorem beatAddr_wrap (hn : 0 < n) (hk : b.kind = .wrap) :
    beatAddr b n =
      if wrapBase b + burstSpan b ≤ burstAligned b + n * b.size.bytes then
        burstAligned b + n * b.size.bytes - burstSpan b
      else burstAligned b + n * b.size.bytes := by
  rw [beatAddr, if_neg (by omega), hk]

/-- An address that is a whole number of beats into a region of `m` beats from `base` lies there with its beat. -/
theorem unit_within {S base m u : Nat} (hS : 0 < S) (h1 : base ≤ u) (h2 : u < base + m) :
    base * S ≤ u * S ∧ u * S / S * S + S - 1 ≤ base * S + m * S - 1 := by
  have h3 : u * S + S ≤ base * S + m * S := by
    rw [← Nat.add_mul, ← Nat.succ_mul]
    exact Nat.mul_le_mul_right S h2
  rw [Nat.mul_div_cancel u hS]
  exact ⟨Nat.mul_le_mul_right S h1, by omega⟩

theorem byteRange_fixed (h : b.kind = .fixed) :
    byteRange b = (b.addr.toNat, burstAligned b + b.size.bytes - 1) := by
  rw [byteRange, h]; rfl

theorem byteRange_incr (h : b.kind = .incr) :
    byteRange b = (b.addr.toNat, burstAligned b + b.len * b.size.bytes - 1) := by
  rw [byteRange, h]; rfl

theorem byteRange_wrap (h : b.kind = .wrap) :
    byteRange b = (wrapBase b, wrapBase b + b.size.bytes * b.len - 1) := by
  rw [byteRange, h]; rfl

/-- A later beat of a wrapping burst is a whole number of beats into its region. -/
theorem beatAddr_wrap_unit (hn : 0 < n) (hlen : n < b.len) (hk : b.kind = .wrap) :
    ∃ p u, wrapBase b = p * b.size.bytes ∧ beatAddr b n = u * b.size.bytes ∧ p ≤ u ∧ u < p + b.len := by
  have hS := bytes_pos b.size
  obtain ⟨p, q, hbase, haligned, hq⟩ := wrap_units b
  have hend : wrapBase b + burstSpan b = (p + b.len) * b.size.bytes := by
    rw [hbase, burstSpan, Nat.mul_comm b.size.bytes, Nat.add_mul]
  have hbeat : burstAligned b + n * b.size.bytes = (p + q + n) * b.size.bytes := by rw [haligned, Nat.add_mul _ n]
  rw [beatAddr_wrap hn hk, hend, hbeat]
  split
  next h =>
    have hle := Nat.le_of_mul_le_mul_right h hS
    refine ⟨p, p + q + n - b.len, hbase, ?_, by omega, by omega⟩
    rw [burstSpan, Nat.mul_comm b.size.bytes, Nat.sub_mul]
  next h =>
    have hlt : p + q + n < p + b.len := Nat.lt_of_not_le fun hle => h (Nat.mul_le_mul_right _ hle)
    exact ⟨p, p + q + n, hbase, rfl, by omega, hlt⟩

/-- The first beat lies in the byte range. -/
theorem start_within : (byteRange b).1 ≤ b.addr.toNat ∧
    b.addr.toNat / b.size.bytes * b.size.bytes + b.size.bytes - 1 ≤ (byteRange b).2 := by
  have hS := bytes_pos b.size
  obtain ⟨hle, -⟩ := aligned_le b.addr.toNat hS
  have hspan : b.size.bytes ≤ b.len * b.size.bytes := Nat.le_mul_of_pos_left _ (len_pos b)
  cases hk : b.kind with
  | fixed => rw [byteRange_fixed hk]; exact ⟨le_refl _, le_refl _⟩
  | incr =>
    rw [byteRange_incr hk, burstAligned]
    exact ⟨le_refl _, by dsimp only; omega⟩
  | wrap =>
    obtain ⟨p, q, hbase, haligned, hq⟩ := wrap_units b
    obtain ⟨hlo, hhi⟩ := unit_within (S := b.size.bytes) (base := p) (m := b.len) (u := p + q) hS (by omega) (by omega)
    rw [Nat.mul_div_cancel _ hS, ← haligned, ← hbase, Nat.mul_comm b.len] at hhi
    rw [← haligned, ← hbase] at hlo
    rw [byteRange_wrap hk]
    exact ⟨hlo.trans hle, hhi⟩

/-- Every beat lies in the byte range. -/
theorem beat_within (hn : n < b.len) :
    (byteRange b).1 ≤ beatAddr b n ∧
      beatAddr b n / b.size.bytes * b.size.bytes + b.size.bytes - 1 ≤ (byteRange b).2 := by
  have hS := bytes_pos b.size
  by_cases hstart : n = 0 ∨ b.kind = .fixed
  · rw [beatAddr_start hstart]
    exact start_within
  · have hpos : 0 < n := by omega
    cases hk : b.kind with
    | fixed => exact absurd (.inr hk) hstart
    | incr =>
      have hbeat : beatAddr b n = (b.addr.toNat / b.size.bytes + n) * b.size.bytes := by
        rw [beatAddr_incr hpos hk, burstAligned, Nat.add_mul]
      obtain ⟨-, hhi⟩ := unit_within (S := b.size.bytes) (base := b.addr.toNat / b.size.bytes) (m := b.len)
        (u := b.addr.toNat / b.size.bytes + n) hS (by omega) (by omega)
      obtain ⟨-, hlt⟩ := aligned_le b.addr.toNat hS
      have hone : b.size.bytes ≤ n * b.size.bytes := Nat.le_mul_of_pos_left _ hpos
      rw [byteRange_incr hk, hbeat]
      refine ⟨?_, hhi⟩
      dsimp only
      rw [Nat.add_mul]
      omega
    | wrap =>
      obtain ⟨p, u, hbase, hbeat, hpu, hup⟩ := beatAddr_wrap_unit hpos hn hk
      obtain ⟨hlo, hhi⟩ := unit_within (S := b.size.bytes) (m := b.len) hS hpu hup
      rw [byteRange_wrap hk, hbeat, hbase, Nat.mul_comm b.size.bytes]
      exact ⟨hlo, hhi⟩

/-! ### Lanes, and the split at 4 KiB (R172, R176) -/

theorem inLane_iff (k : Nat) :
    inLane b n k = true ↔
      beatAddr b n % 8 ≤ k ∧ k ≤ beatAddr b n / b.size.bytes * b.size.bytes % 8 + b.size.bytes - 1 := by
  rw [inLane, Bool.and_eq_true, decide_eq_true_eq, decide_eq_true_eq, laneLo, laneHi]

theorem lenM1_eq (b : Burst) : BitVec.ofNat 8 (b.len - 1) = b.lenM1 := by
  rw [Burst.len, Nat.add_sub_cancel, BitVec.ofNat_toNat, BitVec.setWidth_eq]

/-- The beats below the boundary, as many as there are or as reach up to it. -/
theorem beatsBelow_cases (b : Burst) (a : Addr) :
    let first := a.toNat / b.size.bytes * b.size.bytes
    let edge := (a.toNat / 4096 + 1) * 4096
    (first + b.len * b.size.bytes ≤ edge → beatsBelow b a = b.len) ∧
      (edge < first + b.len * b.size.bytes →
        0 < beatsBelow b a ∧ beatsBelow b a < b.len ∧ first + beatsBelow b a * b.size.bytes = edge) := by
  intro first edge
  simp only [beatsBelow, first, edge]
  rcases bytes_cases b.size with h | h | h | h
  · rw [h]; omega
  · rw [h]; omega
  · rw [h]; omega
  · rw [h]; omega

end

end

/-- Settles O43: beats, lanes and byte ranges, and the split at 4 KiB. -/
theorem burstGeometry : Obligations.BurstGeometry := by
  intro b A S As B
  refine ⟨byteRange_fixed, byteRange_incr, byteRange_wrap, fun w hw => touches_iff b hw, fun n hn => ?_, fun a => ?_⟩
  · obtain ⟨hlo, hhi⟩ := beat_within hn
    refine ⟨beatAddr_start, beatAddr_incr, fun h0 hk hlt => ?_, fun h0 hk hle => ?_, hlo, hhi, fun k hk =>
      ⟨inLane_iff k, fun bt => maskBeat_spec b n bt k hk⟩⟩
    · exact (beatAddr_wrap h0 hk).trans (if_neg (Nat.not_le.mpr hlt))
    · exact (beatAddr_wrap h0 hk).trans (if_pos hle)
  · intro first edge part
    obtain ⟨hwhole, hsplit⟩ := beatsBelow_cases b a
    refine ⟨fun h => ?_, fun h => ?_⟩
    · rw [redirected, if_pos (hwhole h), ← lenM1_eq]
    · obtain ⟨hpos, hlt, hedge⟩ := hsplit h
      exact ⟨beatsBelow b a, hpos, hlt, hedge, if_neg hlt.ne⟩

end Sys2Proof.Proofs.Bursts

/-! ## PROOFS: windows and decoding -/

namespace Sys2Proof.Proofs.Decoding

open Sys2Proof Sys2Proof.Machine Sys2Proof.Safety Sys2Proof.Laws Sys2Proof.Proofs.Steps

/-! ### A window under a mask that validation accepts (R173, R186) -/

section
variable {mask : Addr} {k : Nat}

theorem toNat_not_mask (hk : k ≤ 28) (hm : mask.toNat = 2 ^ 32 - 2 ^ k) : (~~~mask).toNat = 2 ^ k - 1 := by
  have hle : 2 ^ k ≤ 2 ^ 28 := Nat.pow_le_pow_right (by decide) hk
  have hpos : 0 < 2 ^ k := Nat.two_pow_pos k
  rw [BitVec.toNat_not, hm]
  omega

theorem toNat_and_not_mask (hk : k ≤ 28) (hm : mask.toNat = 2 ^ 32 - 2 ^ k) (a : Addr) :
    (a &&& ~~~mask).toNat = a.toNat % 2 ^ k := by
  rw [BitVec.toNat_and, toNat_not_mask hk hm, Nat.and_two_pow_sub_one_eq_mod]

theorem toNat_and_mask (hk : k ≤ 28) (hm : mask.toNat = 2 ^ 32 - 2 ^ k) (a : Addr) :
    (a &&& mask).toNat = a.toNat / 2 ^ k * 2 ^ k := by
  have hdisjoint : (a &&& mask) &&& (a &&& ~~~mask) = 0#32 := by ext i; simp +contextual
  have hsum : (a &&& mask) + (a &&& ~~~mask) = a := by
    rw [BitVec.add_eq_or_of_and_eq_zero _ _ hdisjoint]
    ext i
    simp only [BitVec.getElem_or, BitVec.getElem_and, BitVec.getElem_not]
    cases a[i] <;> cases mask[i] <;> rfl
  have hle : (a &&& mask).toNat ≤ a.toNat := by rw [BitVec.toNat_and]; exact Nat.and_le_left
  have hnat := congrArg BitVec.toNat hsum
  rw [BitVec.toNat_add, toNat_and_not_mask hk hm] at hnat
  have hdiv := Nat.div_add_mod' a.toNat (2 ^ k)
  have hlt := a.isLt
  have hmod := Nat.mod_le a.toNat (2 ^ k)
  omega

theorem window_lo (hk : k ≤ 28) (hm : mask.toNat = 2 ^ 32 - 2 ^ k) (code : Addr) :
    (window code mask).lo = code.toNat / 2 ^ k * 2 ^ k := toNat_and_mask hk hm code

theorem window_hi (hk : k ≤ 28) (hm : mask.toNat = 2 ^ 32 - 2 ^ k) (code : Addr) :
    (window code mask).hi = code.toNat / 2 ^ k * 2 ^ k + 2 ^ k - 1 := by
  have hdisjoint : (code &&& mask) &&& ~~~mask = 0#32 := by ext i; simp
  have hor := BitVec.add_eq_or_of_and_eq_zero _ _ hdisjoint
  show ((code &&& mask) ||| ~~~mask).toNat = _
  rw [← hor, BitVec.toNat_add, toNat_and_mask hk hm, toNat_not_mask hk hm]
  have hpos : 0 < 2 ^ k := Nat.two_pow_pos k
  have hdvd : 2 ^ k ∣ 2 ^ 32 := Nat.pow_dvd_pow 2 (by omega)
  obtain ⟨m, hm'⟩ := hdvd
  have hq : code.toNat / 2 ^ k < m := by
    rw [Nat.div_lt_iff_lt_mul hpos, Nat.mul_comm, ← hm']
    exact code.isLt
  have hfit : code.toNat / 2 ^ k * 2 ^ k + 2 ^ k ≤ 2 ^ 32 := by
    rw [hm', Nat.mul_comm _ m, ← Nat.succ_mul]
    exact Nat.mul_le_mul_right _ hq
  omega

theorem window_iff (hk : k ≤ 28) (hm : mask.toNat = 2 ^ 32 - 2 ^ k) (code a : Addr) :
    (window code mask).lo ≤ a.toNat ∧ a.toNat ≤ (window code mask).hi ↔ a &&& mask = code &&& mask := by
  have hpos : 0 < 2 ^ k := Nat.two_pow_pos k
  rw [window_lo hk hm, window_hi hk hm, ← BitVec.toNat_inj, toNat_and_mask hk hm, toNat_and_mask hk hm,
    Nat.mul_left_inj hpos.ne']
  constructor
  · rintro ⟨hlo, hhi⟩
    exact Nat.div_eq_of_lt_le hlo (by rw [Nat.succ_mul]; omega)
  · intro h
    obtain ⟨hle, hlt⟩ := Bursts.aligned_le a.toNat hpos
    rw [h] at hle hlt
    omega

end

/-! ### Decoding (R173, R174) -/

section
variable (b : Burst) (s : State)

/-- A side's capture or display window. -/
def winOf (d : SideId) (capture : Bool) : Range :=
  let c := (s.side d).cfg.cap
  if capture then window c.capCode c.capMask else window c.dispCode c.dispMask

/-- A decoded window is touched. -/
def Hits (d : SideId) (capture : Bool) : Prop := (s.side d).configured = true ∧ touches b (winOf s d capture) = true

/-- A burst lies whole in a decoded window. -/
def LiesIn (d : SideId) (capture : Bool) : Prop :=
  (s.side d).configured = true ∧ b.kind = .incr ∧ (winOf s d capture).lo ≤ (byteRange b).1 ∧
    (byteRange b).2 ≤ (winOf s d capture).hi

theorem mem_sideWindows {d : SideId} {w : Win} :
    w ∈ sideWindows d (s.side d) ↔ (s.side d).configured = true ∧ ∃ c, w = ⟨d, c, winOf s d c⟩ := by
  rw [sideWindows]
  split
  next h => simp [h, winOf, or_comm]
  next h => simp [h]

theorem mem_windows {w : Win} :
    w ∈ windows s ↔ ∃ d c, (s.side d).configured = true ∧ w = ⟨d, c, winOf s d c⟩ := by
  have hside : ∀ d, w ∈ sideWindows d (s.side d) ↔ _ := fun d => mem_sideWindows s
  rw [windows, List.mem_append, show s.left = s.side .left from rfl, show s.right = s.side .right from rfl, hside, hside]
  constructor
  · rintro (⟨h, c, hw⟩ | ⟨h, c, hw⟩)
    · exact ⟨.left, c, h, hw⟩
    · exact ⟨.right, c, h, hw⟩
  · rintro ⟨d, c, h, hw⟩
    cases d with
    | left => exact .inl ⟨h, c, hw⟩
    | right => exact .inr ⟨h, c, hw⟩

theorem hits_of_liesIn {d : SideId} {c : Bool} (h : LiesIn b s d c) : Hits b s d c := by
  obtain ⟨hconf, -, hlo, hhi⟩ := h
  have hb := Bursts.byteRange_le b
  refine ⟨hconf, ?_⟩
  simp only [touches, Bool.and_eq_true, decide_eq_true_iff]
  omega

theorem any_touched_iff : ((windows s).any fun w => touches b w.range) = true ↔ ∃ d c, Hits b s d c := by
  rw [List.any_eq_true]
  constructor
  · rintro ⟨w, hw, ht⟩
    obtain ⟨d, c, hconf, rfl⟩ := (mem_windows s).mp hw
    exact ⟨d, c, hconf, ht⟩
  · rintro ⟨d, c, hconf, ht⟩
    exact ⟨_, (mem_windows s).mpr ⟨d, c, hconf, rfl⟩, ht⟩

/-- What a burst decodes into in a side's window. -/
def decodedIn (d : SideId) (c : Bool) : Decoded :=
  if c then .capture d (b.addr.toNat - (winOf s d c).lo) else .display d (b.addr.toNat - (winOf s d c).lo)

theorem decodedIn_ne (d : SideId) (c : Bool) : decodedIn b s d c ≠ .plain ∧ decodedIn b s d c ≠ .split := by
  cases c
  · exact ⟨nofun, nofun⟩
  · exact ⟨nofun, nofun⟩

variable {d d' : SideId} {c : Bool} {off : Nat}

theorem decodedIn_capture (h : decodedIn b s d c = .capture d' off) :
    d = d' ∧ c = true ∧ off = b.addr.toNat - (winOf s d true).lo := by
  cases c with
  | true => injection h with h1 h2; exact ⟨h1, rfl, h2.symm⟩
  | false => cases h

theorem decodedIn_display (h : decodedIn b s d c = .display d' off) :
    d = d' ∧ c = false ∧ off = b.addr.toNat - (winOf s d false).lo := by
  cases c with
  | true => cases h
  | false => injection h with h1 h2; exact ⟨h1, rfl, h2.symm⟩

/-- A burst is decoded into a window it lies whole in; with none, it is split or plain. -/
theorem decodeBurst_cases :
    (∃ d c, LiesIn b s d c ∧ decodeBurst b s = decodedIn b s d c) ∨
      (∀ d c, ¬LiesIn b s d c) ∧
        ((∃ d c, Hits b s d c) ∧ decodeBurst b s = .split ∨ (∀ d c, ¬Hits b s d c) ∧ decodeBurst b s = .plain) := by
  rw [decodeBurst]
  split
  next w hw =>
    obtain ⟨d, c, hconf, rfl⟩ := (mem_windows s).mp (List.mem_of_find?_eq_some hw)
    have hin := List.find?_some hw
    simp only [within, Bool.and_eq_true, beq_iff_eq, decide_eq_true_iff] at hin
    exact .inl ⟨d, c, ⟨hconf, hin⟩, rfl⟩
  next hnone =>
    have hno : ∀ d c, ¬LiesIn b s d c := fun d c ⟨hconf, hin⟩ => by
      have := List.find?_eq_none.mp hnone ⟨d, c, winOf s d c⟩ ((mem_windows s).mpr ⟨d, c, hconf, rfl⟩)
      simp only [within, Bool.and_eq_true, beq_iff_eq, decide_eq_true_iff] at this
      exact this hin
    refine .inr ⟨hno, ?_⟩
    by_cases hany : ∃ d c, Hits b s d c
    · exact .inl ⟨hany, if_pos ((any_touched_iff b s).mpr hany)⟩
    · exact .inr ⟨fun d c h => hany ⟨d, c, h⟩, if_neg (mt (any_touched_iff b s).mp hany)⟩

end

/-- Settles O44: windows and decoding. -/
theorem windowDecoding : Obligations.WindowDecoding := by
  refine ⟨fun code mask a k h12 h28 hm => ⟨window_iff h28 hm code a, fun h => ?_⟩, fun b s => ?_⟩
  · have hlo : (window code mask).lo = a.toNat / 2 ^ k * 2 ^ k := by
      rw [← toNat_and_mask h28 hm, h]; rfl
    have hdiv := Nat.div_add_mod' a.toNat (2 ^ k)
    rw [hlo, toNat_and_not_mask h28 hm]
    omega
  · intro win hit into
    have hcases : (∃ d c, into d c ∧ decodeBurst b s = decodedIn b s d c) ∨
        (∀ d c, ¬into d c) ∧
          ((∃ d c, hit d c) ∧ decodeBurst b s = .split ∨ (∀ d c, ¬hit d c) ∧ decodeBurst b s = .plain) :=
      decodeBurst_cases b s
    have hhit : ∀ {d c}, into d c → hit d c := fun h => hits_of_liesIn b s h
    rcases hcases with ⟨d, c, hin, hdec⟩ | ⟨hno, ⟨hany, hdec⟩ | ⟨hnone, hdec⟩⟩
    · refine ⟨?_, ?_, fun d' off h => ?_, fun d' off h => ?_, fun d' c' hin' huniq => ?_⟩
      · exact ⟨fun h => absurd (hdec.symm.trans h) (decodedIn_ne b s d c).1, fun h => absurd (hhit hin) (h d c)⟩
      · exact ⟨fun h => absurd (hdec.symm.trans h) (decodedIn_ne b s d c).2, fun h => absurd hin (h.2 d c)⟩
      · obtain ⟨rfl, rfl, hoff⟩ := decodedIn_capture b s (hdec.symm.trans h)
        exact ⟨hin, hoff⟩
      · obtain ⟨rfl, rfl, hoff⟩ := decodedIn_display b s (hdec.symm.trans h)
        exact ⟨hin, hoff⟩
      · obtain ⟨rfl, rfl⟩ := huniq d c hin
        exact hdec
    · rw [hdec]
      exact ⟨⟨nofun, fun h => by obtain ⟨d, c, hh⟩ := hany; exact absurd hh (h d c)⟩, ⟨fun _ => ⟨hany, hno⟩, fun _ => rfl⟩,
        nofun, nofun, fun d c hin => absurd hin (hno d c)⟩
    · rw [hdec]
      exact ⟨⟨fun _ => hnone, fun _ => rfl⟩, ⟨nofun, fun ⟨⟨d, c, hh⟩, _⟩ => absurd hh (hnone d c)⟩,
        nofun, nofun, fun d c hin => absurd hin (hno d c)⟩

end Sys2Proof.Proofs.Decoding

/-! ## PROOFS: write addresses -/

namespace Sys2Proof.Proofs.WriteAddresses

open Sys2Proof Sys2Proof.Machine Sys2Proof.Safety Sys2Proof.Laws Sys2Proof.Proofs.Steps

/-! ### A write address at the port (R171) -/

/-- One that cannot be taken yet waits at the port, and nothing changes. -/
theorem exec_writeBurstTaken_closed {s : State} (b : Burst) (hng : noGrantFirst s) (h : ¬writeOpen s) :
    exec (.writeBurstTaken b) s = .next s :=
  (exec_writeBurstTaken b s).trans (act_none _ (by
    rw [settleGrants_of_noGrantFirst hng]
    exact if_neg (mt (writeFree_iff s).mp h)))

/-- Taking a burst touches the memory path alone, of which no part is published. -/
theorem publish_writeTaken (b : Burst) (o : WOwner) (r : WRoute) (s : State) :
    publish s (writeTaken b o r s) = writeTaken b o r s :=
  publish_path s _ _ _

/-- A capture write of a side that is out of service, or beyond its frame area, is absorbed (R3, R9). -/
theorem arriveWrite_capture_absorbed {b : Burst} {s : State} {d off} (h : decodeBurst b s = .capture d off)
    (hout : (s.side d).inService = false ∨ (s.side d).cfg.cap.area ≤ off) :
    arriveWrite b s = writeTaken b .part .absorbed s := by
  have hheld : ¬line0Held d off s = true := fun hh => by
    obtain ⟨hin, harea, -, -⟩ := (line0Held_iff d off s).mp hh
    rcases hout with hout | hout
    · exact Bool.noConfusion (hin.symm.trans hout)
    · exact absurd harea (Nat.not_lt.mpr hout)
  have habs : (!(s.side d).inService || decide ((s.side d).cfg.cap.area ≤ off)) = true := by
    simpa using hout
  rw [arriveWrite_capture h, if_neg hheld, captureWrite]
  exact if_pos habs

/-- A capture write that is neither absorbed nor held goes by the line it starts. -/
theorem arriveWrite_capture_handled {b : Burst} {s : State} {d off} (h : decodeBurst b s = .capture d off)
    (hin : (s.side d).inService = true) (harea : off < (s.side d).cfg.cap.area)
    (hheld : ¬(startsLine (s.side d).cfg.cap off 0 ∧ line0Waits (s.side d))) :
    arriveWrite b s =
      match lineStart (s.side d).cfg.cap off, (s.side d).cap.fip with
      | some 0, some f => handleWrite takeAbsorbed b (truncateFrame d f s)
      | some 0, none => takeIntoFrame d off b (startFrame d s)
      | some (n + 1), some f => takeIntoFrame d off b (lineStarted d (n + 1) f s)
      | some (_ + 1), none => takeOrphan d off b s
      | none, some _ => takeIntoFrame d off b s
      | none, none => takeOrphan d off b s := by
  have hnot : ¬line0Held d off s = true := fun hh => by
    obtain ⟨-, -, hl, hw⟩ := (line0Held_iff d off s).mp hh
    exact hheld ⟨hl, hw⟩
  have hserved : ¬(!(s.side d).inService || decide ((s.side d).cfg.cap.area ≤ off)) = true := by
    simp [hin, harea]
  rw [arriveWrite_capture h, if_neg hnot, captureWrite]
  exact (if_neg hserved).trans rfl

/-- With no frame in progress, a write inside the frame area that does not start line 0 is an orphan (R8, R9). -/
theorem arriveWrite_orphan {b : Burst} {s : State} {d off} (h : decodeBurst b s = .capture d off)
    (hin : (s.side d).inService = true) (harea : off < (s.side d).cfg.cap.area) (hfip : (s.side d).cap.fip = none)
    (hline : ¬startsLine (s.side d).cfg.cap off 0) :
    arriveWrite b s =
      writeTaken b .part .absorbed (raiseEvent .orphanWrite (scopeOf d) (BitVec.ofNat 32 off) s) := by
  rw [arriveWrite_capture_handled h hin harea (fun hl => hline hl.1), hfip]
  cases hl : lineStart (s.side d).cfg.cap off with
  | none => rfl
  | some l =>
    cases l with
    | zero => exact absurd ((lineStart_iff harea 0).mp hl) hline
    | succ l => rfl

/-- Settles O45: a write burst that is no frame material, by what it is decoded into. -/
theorem writeBurstTaken : Obligations.WriteBurstTaken := by
  intro b s hr hng
  have hopen := fun h : writeOpen s => exec_writeBurstTaken_open b s hng.1 h hr
  refine ⟨exec_writeBurstTaken_closed b hng, fun h hd => ?_, fun h hd => ?_, fun h d off hd => ?_, fun h d off hd => ⟨fun hout => ?_, fun hin harea hfip hline => ?_⟩⟩
  · rw [hopen h, arriveWrite, handleWrite, hd]
    exact congrArg Host.Outcome.next (publish_writeTaken b _ _ s)
  · rw [hopen h, arriveWrite, handleWrite, hd]
    rfl
  · rw [hopen h, arriveWrite, handleWrite, hd]
    rfl
  · rw [hopen h, arriveWrite_capture_absorbed hd hout, publish_writeTaken]
  · rw [hopen h, arriveWrite_orphan hd hin harea hfip hline]

end Sys2Proof.Proofs.WriteAddresses

/-! ## PROOFS: a deferred apply and the write channel -/

namespace Sys2Proof.Proofs.FreeChannel

open Sys2Proof Sys2Proof.Machine Sys2Proof.Safety Sys2Proof.Laws Sys2Proof.Proofs.Steps Sys2Proof.Proofs.SideApply

/-- What decides whether a write address can be taken, and whether a grant comes first, stays: the write channel and its
tail, the held address, the number of entries, the burst in flight and RESET_N. -/
def ChannelStays (s t : State) : Prop :=
  t.path.cur = s.path.cur ∧ t.path.tail = s.path.tail ∧ t.path.heldWrite = s.path.heldWrite ∧
    t.path.writes.length = s.path.writes.length ∧ t.inj.inflight = s.inj.inflight ∧ t.inReset = s.inReset

section
variable {d : SideId} {s t : State} {release : State → State}

theorem ChannelStays.refl : ChannelStays s s := ⟨rfl, rfl, rfl, rfl, rfl, rfl⟩

theorem ChannelStays.trans {u : State} (h : ChannelStays s t) (h' : ChannelStays t u) : ChannelStays s u := by
  obtain ⟨h1, h2, h3, h4, h5, h6⟩ := h
  obtain ⟨k1, k2, k3, k4, k5, k6⟩ := h'
  exact ⟨k1.trans h1, k2.trans h2, k3.trans h3, k4.trans h4, k5.trans h5, k6.trans h6⟩

theorem ChannelStays.of_same (hp : t.path = s.path) (hi : t.inj.inflight = s.inj.inflight) (hr : t.inReset = s.inReset) :
    ChannelStays s t := by
  simp [ChannelStays, hp, hi, hr]

theorem ChannelStays.cur_none (h : ChannelStays s t) (hc : s.path.cur = none) : t.path.cur = none := h.1.trans hc

theorem ChannelStays.open (h : ChannelStays s t) : writeOpen t ↔ writeOpen s := by
  obtain ⟨hcur, -, hheld, hlen, -, -⟩ := h
  rw [writeOpen, writeOpen, hcur, hheld, hlen]

theorem ChannelStays.noGrantAtOnce (h : ChannelStays s t) : noGrantAtOnce t ↔ noGrantAtOnce s := by
  obtain ⟨hcur, htail, -, -, hinj, -⟩ := h
  rw [Safety.noGrantAtOnce, Safety.noGrantAtOnce, noGrantDue, noGrantDue, hcur, htail, hinj]

/-! ### The burst in flight -/

@[simp] theorem inflight_reformTarget : (reformTarget d s).inj.inflight = s.inj.inflight := by
  rw [reformTarget]
  split
  · rfl
  · simp

@[simp] theorem inflight_reformCab : (reformCab s).inj.inflight = s.inj.inflight := by
  rw [reformCab]
  split
  · rfl
  · simp

/-! ### A side that leaves its up states with the channel free -/

theorem path_teardown (hc : s.path.cur = none) :
    (teardown d s).path = { s.path with writes := s.path.writes.map (orphanEntry d) } := by
  simp [teardown, orphanWrites, discardCur, hc]

theorem channel_teardown (hc : s.path.cur = none) : ChannelStays s (teardown d s) := by
  simp [ChannelStays, path_teardown hc]

theorem channel_leaveUp (was : Bool) (hf : (s.side d).cap.fip = none) (hc : s.path.cur = none) :
    ChannelStays s (leaveUp release was d s) := by
  have hclear : ChannelStays s (clearHealth d s) := .of_same (by simp) (by simp) (by simp)
  refine (hclear.trans (channel_teardown (d := d) (hclear.cur_none hc))).trans ?_
  rw [leaveUp, teardownRelease_noFrame (by simpa using hf)]
  cases was <;> exact .of_same (by simp) (by simp) (by simp)

theorem channel_failedState (code : Nat) (hc : s.path.cur = none) : ChannelStays s (Failing.failedState d code s) := by
  rw [Failing.failedState, Failing.failedDown]
  generalize hu : raiseCond .sideFailed (scopeOf d) (BitVec.ofNat 32 code)
    (clearCond .sideDegraded (scopeOf d) (Kept.failedNow d code s)) = u
  have hfail : ChannelStays s u := by
    rw [← hu]
    exact .of_same (by simp [Kept.failedNow]) (by simp [Kept.failedNow]) (by simp [Kept.failedNow])
  exact (hfail.trans (channel_teardown (d := d) (hfail.cur_none hc))).trans (.of_same (by simp) (by simp) (by simp))

theorem channel_enterFailed (code : Nat) (hf : (s.side d).cap.fip = none) (hc : s.path.cur = none) :
    ChannelStays s (enterFailed release d code s) := by
  have hstate := channel_failedState (d := d) code hc
  have hfip := (Failing.side_failedState (d := d) (s := s) code).2.2.2.2.1
  rw [Failing.enterFailed_plain code (plain_noFrame hf), recoveryTest]
  split
  · split
    · rw [enterRecovering]
      refine (hstate.trans (.of_same ?_ ?_ ?_)).trans (channel_leaveUp _ ?_ ?_)
      · simp
      · simp
      · simp
      · simpa using hfip
      · simpa using hstate.cur_none hc
    · exact hstate.trans (.of_same (by simp) (by simp) (by simp))
  · exact hstate

/-! ### The deferred apply -/

theorem channel_frameCompared (hf : (s.side d).cap.fip = none) (hc : s.path.cur = none) :
    ChannelStays s (frameCompared d s) := by
  have hexpired : ChannelStays s (Timers.frameExpired d s) :=
    .of_same (by simp [Timers.frameExpired]) (by simp [Timers.frameExpired]) (by simp [Timers.frameExpired])
  have hfip : ((Timers.frameExpired d s).side d).cap.fip = none := by rw [Failing.side_frameExpired]; exact hf
  rw [frameCompared, Timers.frameExpiry_eq, failRunning]
  split
  · split
    · split
      · exact hexpired.trans (channel_enterFailed 1 hfip (hexpired.cur_none hc))
      · exact hexpired
    · exact hexpired
  · exact .refl

theorem channel_displayCompared : ChannelStays s (displayCompared d s) := by
  rw [displayCompared]
  split
  · exact .of_same (by simp) (by simp) (by simp)
  · exact .refl

theorem channel_tornInstalled (c : SideCfg) (hc : s.path.cur = none) : ChannelStays s (tornInstalled d c s) := by
  have hin : ChannelStays s (installed d c s) := .of_same (by simp [installed]) (by simp [installed]) (by simp [installed])
  rw [tornInstalled]
  split
  · exact hin.trans (channel_teardown (hin.cur_none hc))
  · exact hin

theorem channel_applySide (c : SideCfg) (hf : (s.side d).cap.fip = none) (hc : s.path.cur = none) :
    ChannelStays s (applySide d c s) := by
  have htorn := channel_tornInstalled (d := d) c hc
  have hcompared : ChannelStays s (comparedInstalled d c s) :=
    (htorn.trans (channel_frameCompared (fip_tornInstalled c hf) (htorn.cur_none hc))).trans channel_displayCompared
  rw [applySide_eq c hf]
  refine hcompared.trans ?_
  split
  · exact .of_same (by simp) (by simp) (by simp)
  · exact .of_same (by simp) (by simp) (by simp)

theorem channel_releaseDeferred (hf : (s.side d).cap.fip = none) (hc : s.path.cur = none) :
    ChannelStays s (releaseDeferred d s) := by
  rw [releaseDeferred]
  split
  · have hset : ChannelStays s (setDeferred d false s) :=
      .of_same (by simp [setDeferred]) (by simp [setDeferred]) (by simp [setDeferred])
    rw [applyNow]
    split
    · exact hset.trans (channel_applySide _ (by simpa [setDeferred] using hf) (hset.cur_none hc))
    · exact hset.trans (.of_same (by simp [refuseSide]) (by simp [refuseSide]) (by simp [refuseSide]))
  · exact .refl

end

end Sys2Proof.Proofs.FreeChannel

/-! ## PROOFS: frame material -/

namespace Sys2Proof.Proofs.FrameMaterial

open Sys2Proof Sys2Proof.Machine Sys2Proof.Safety Sys2Proof.Laws Sys2Proof.Proofs.Steps Sys2Proof.Proofs.WriteAddresses
open Sys2Proof.Proofs.FreeChannel

/-! ### The FREE buffers (R6) -/

theorem firstFree_eq_some {t : Table Buf 3} {n : Nat} (hn : n < 3) (h : t.get n .filling = .free)
    (hl : ∀ m < n, t.get m .filling ≠ .free) : firstFree t = some n := by
  rw [firstFree, List.find?_range_eq_some]
  exact ⟨by simp [h], by simpa using hn, fun m hm => by simpa using hl m hm⟩

theorem firstFree_eq_none {t : Table Buf 3} (h : ∀ n < 3, t.get n .filling ≠ .free) : firstFree t = none := by
  rw [firstFree, List.find?_eq_none]
  exact fun n hn => by simpa using h n (by simpa using hn)

section
variable {b : Burst} {s : State} {d : SideId} {off : Nat}

/-! ### A write taken into the frame in progress (R11, R176) -/

/-- A write taken as material of frame `f`: redirected to its buffer, and counted as outstanding. -/
def material (d : SideId) (off : Nat) (b : Burst) (f : Fip) (s : State) : State :=
  writeTaken b (.capture d true)
    (.capture d ((s.side d).cfg.cap.bufBase.get f.buf 0 + BitVec.ofNat 32 off) off)
    (updSide d (fun y => { y with cap := { y.cap with fip := some { f with outstanding := f.outstanding + 1 } } }) s)

theorem takeIntoFrame_eq {f : Fip} (h : (s.side d).cap.fip = some f) :
    takeIntoFrame d off b s = material d off b f s := by
  have hcount : updFip d (fun f => { f with outstanding := f.outstanding + 1 }) s =
      updSide d (fun y => { y with cap := { y.cap with fip := some { f with outstanding := f.outstanding + 1 } } }) s := by
    rw [updFip, updCap]
    exact Timers.updSide_congr d s (by simp [h])
  rw [takeIntoFrame, h]
  simp only [takeMaterial, hcount]
  rfl

theorem takeIntoFrame_none (h : (s.side d).cap.fip = none) : takeIntoFrame d off b s = writeTaken b .part .absorbed s := by
  rw [takeIntoFrame, h]
  rfl

/-- A line counted first: the record that the write is taken into has the line. -/
theorem takeIntoFrame_counted {f : Fip} {l : Nat} (h : (s.side d).cap.fip = some f) (hl : f.highest < l) :
    takeIntoFrame d off b (lineStarted d l f s) = material d off b { f with lines := f.lines + 1, highest := l } s := by
  rw [lineStarted, if_neg (Nat.not_le.mpr hl),
    takeIntoFrame_eq (f := { f with lines := f.lines + 1, highest := l }) (by simp [updFip, updCap, h])]
  simp only [material, updFip, updCap, updSide_updSide, side_updSide]

/-- A line start out of order first: LINE_ORDER, and the write is taken into the record as it was. -/
theorem takeIntoFrame_disordered {f : Fip} {l : Nat} (h : (s.side d).cap.fip = some f) (hl : l ≤ f.highest) :
    takeIntoFrame d off b (lineStarted d l f s) =
      material d off b f (raiseEvent .lineOrder (scopeOf d) (BitVec.ofNat 32 l) s) := by
  rw [lineStarted, if_pos hl]
  exact takeIntoFrame_eq (by simpa using h)

/-- A frame started first, in the lowest FREE buffer. -/
theorem takeIntoFrame_started {n : Nat} (h : firstFree (s.side d).cap.bufs = some n) :
    takeIntoFrame d off b (startFrame d s) =
      material d off b (freshFip n s.time)
        (updSide d (fun y =>
          { y with
            cap := { y.cap with bufs := y.cap.bufs.set n .filling }
            coll := { y.coll with acc := some (Stats.fresh y.scene.state), snap := takeSnapshot y } }) s) := by
  rw [startFrame, h]
  rw [takeIntoFrame_eq (f := freshFip n s.time) (by simp [startSide])]
  simp only [material, startSide, updSide_updSide, side_updSide]

/-! ### A frame truncated by a repeated line 0 (R7) -/

theorem orphanEntry_eq (e : WEntry) :
    orphanEntry d e = if e.owner = .capture d true then { e with owner := .capture d false } else e := by
  rw [orphanEntry]
  cases ho : e.owner with
  | pass => rw [if_neg nofun]
  | part => rw [if_neg nofun]
  | capture d' live =>
    by_cases hd : d' = d
    · subst hd
      cases live with
      | true => simp
      | false =>
        rw [if_neg (by simp)]
        simp [← ho]
    · have hne : ¬WOwner.capture d' live = .capture d true := fun h => hd (WOwner.capture.inj h).1
      simp only [if_neg hd]
      rw [if_neg hne, ← ho]

theorem truncateFrame_eq (f : Fip) :
    truncateFrame d f s =
      releaseDeferred d
        { frameRejected d f (raiseEvent .lineShortfall (scopeOf d) (BitVec.ofNat 32 f.lines) s) with
          path :=
            { (frameRejected d f (raiseEvent .lineShortfall (scopeOf d) (BitVec.ofNat 32 f.lines) s)).path with
              writes :=
                (frameRejected d f (raiseEvent .lineShortfall (scopeOf d) (BitVec.ofNat 32 f.lines) s)).path.writes.map
                  fun e => if e.owner = .capture d true then { e with owner := .capture d false } else e } } := by
  rw [truncateFrame, orphanWrites, funext (orphanEntry_eq (d := d))]
  rfl

theorem channel_truncateFrame (f : Fip) (hc : s.path.cur = none) : ChannelStays s (truncateFrame d f s) := by
  rw [truncateFrame]
  generalize hu : orphanWrites d (rejectFrame d f (raiseEvent .lineShortfall (scopeOf d) (BitVec.ofNat 32 f.lines) s)) = u
  have hrejected : ChannelStays s u := by
    rw [← hu]
    simp [ChannelStays, rejectFrame, orphanWrites]
  exact hrejected.trans
    (channel_releaseDeferred (by rw [← hu]; simp [rejectFrame]) (hrejected.cur_none hc))

/-- With no frame in progress on the side it is decoded into, a write is not handled afresh. -/
theorem handleWrite_noFrame (again again' : Burst → State → State) {t : State}
    (h : ∀ d off, decodeBurst b t = .capture d off → (t.side d).cap.fip = none) :
    handleWrite again b t = handleWrite again' b t := by
  rw [handleWrite, handleWrite]
  split
  · rfl
  · rfl
  · rfl
  next d off hd =>
    have hline : captureWrite again d off b t = captureWrite again' d off b t := by
      rw [captureWrite, captureWrite, h d off hd]
      rcases lineStart (t.side d).cfg.cap off with _ | _ | l
      · rfl
      · rfl
      · rfl
    rw [hline]

end

/-- Settles O46: a capture write inside the frame area of a side in service. -/
theorem captureWriteTaken : Obligations.CaptureWriteTaken := by
  intro b s d off x c held mat hr hng hopen hd hin harea
  have harrive := exec_writeBurstTaken_open b s hng hopen hr
  have hhandled := arriveWrite_capture_handled hd hin harea
  refine ⟨fun hl hw => ?_, fun f hf => ⟨fun hnone => ?_, fun l hpos hl hle => ?_, fun l hlt hl => ?_, fun hclosing hl => ?_⟩,
    fun hnf hl hw => ⟨fun n hn hfree hlow => ?_, fun hfull => ?_⟩⟩
  · rw [harrive, arriveWrite_capture hd, if_pos ((line0Held_iff d off s).mpr ⟨hin, harea, hl, hw⟩)]
    exact congrArg Host.Outcome.next (publish_path s _ _ _)
  · rw [harrive, hhandled (fun h => hnone 0 h.1), (lineStart_none_iff harea).mpr hnone, hf]
    simp only [takeIntoFrame_eq hf]
    rfl
  · obtain ⟨n, rfl⟩ := Nat.exists_eq_add_of_lt hpos
    rw [harrive, hhandled (fun h => absurd (h.1.2.symm.trans hl.2) (by omega)), (lineStart_iff harea _).mpr hl, hf]
    simp only [Nat.zero_add]
    rw [takeIntoFrame_disordered hf (by simpa using hle)]
    simp [material, mat, c, x]
  · obtain ⟨n, rfl⟩ := Nat.exists_eq_add_of_lt (Nat.zero_lt_of_lt hlt)
    rw [harrive, hhandled (fun h => absurd (h.1.2.symm.trans hl.2) (by omega)), (lineStart_iff harea _).mpr hl, hf]
    simp only [Nat.zero_add]
    rw [takeIntoFrame_counted hf (by simpa using hlt)]
    simp [material, mat, c, x]
  · intro gone t hnf
    have ht : truncateFrame d f s = t := truncateFrame_eq f
    have hstays : ChannelStays s t := ht ▸ channel_truncateFrame f hopen.1
    have hnotHeld : ¬(startsLine (s.side d).cfg.cap off 0 ∧ line0Waits (s.side d)) := fun ⟨_, hw⟩ => by
      rcases hw with ⟨g, hg, hc⟩ | ⟨hnone, -⟩
      · rw [hf] at hg
        rw [← Option.some.inj hg, hclosing] at hc
        exact Bool.noConfusion hc
      · exact absurd (hf.symm.trans hnone) nofun
    refine ⟨arriveWrite b t, exec_writeBurstTaken_open b t (hstays.noGrantAtOnce.mpr hng) (hstays.open.mpr hopen)
      (hstays.2.2.2.2.2.trans hr), ?_⟩
    rw [harrive, hhandled hnotHeld, (lineStart_iff harea 0).mpr hl, hf, arriveWrite,
      handleWrite_noFrame _ takeAbsorbed hnf]
    simp only [ht]
  · rw [harrive, hhandled (fun h => hw h.2), (lineStart_iff harea 0).mpr hl, hnf]
    simp only
    rw [takeIntoFrame_started (firstFree_eq_some hn hfree hlow)]
    simp [material, mat, c, x, freshFip, takeSnapshot]
  · have hstart : startFrame d s = s := by rw [startFrame, firstFree_eq_none hfull]
    rw [harrive, hhandled (fun h => hw h.2), (lineStart_iff harea 0).mpr hl, hnf]
    simp only [hstart]
    rw [takeIntoFrame_none hnf, publish_writeTaken]

end Sys2Proof.Proofs.FrameMaterial

/-! ## PROOFS: the held addresses -/

namespace Sys2Proof.Proofs.HeldAddresses

open Sys2Proof Sys2Proof.Machine Sys2Proof.Safety Sys2Proof.Laws Sys2Proof.Proofs.Steps

section
variable {b : Burst} {s : State} {d : SideId}

/-! ### The held write address (R13, R171) -/

/-- The held write address is taken out of the port. -/
def withoutHeldWrite (s : State) : State := { s with path := { s.path with heldWrite := none } }

/-- The held read address is taken out of the port. -/
def withoutHeldRead (s : State) : State := { s with path := { s.path with heldRead := none } }

/-- A held address that its side still holds: a line-0 write that waits. -/
def StillHeld (b : Burst) (s : State) : Prop :=
  ∃ d' off, decodeBurst b s = .capture d' off ∧ (s.side d').inService = true ∧ off < (s.side d').cfg.cap.area ∧
    startsLine (s.side d').cfg.cap off 0 ∧ line0Waits (s.side d')

theorem heldWriteDue_none (h : s.path.heldWrite = none) : heldWriteDue s = false := by rw [heldWriteDue, h]

theorem heldWriteDue_some (h : s.path.heldWrite = some (d, b)) : heldWriteDue s = true ↔ ¬StillHeld b s := by
  rw [heldWriteDue, h]
  simp only [StillHeld]
  split
  next d' off hd =>
    rw [Bool.not_eq_true', ← Bool.not_eq_true, not_iff_not, line0Held_iff]
    constructor
    · exact fun hw => ⟨d', off, hd, hw⟩
    · rintro ⟨_, _, hd', hw⟩
      obtain ⟨rfl, rfl⟩ := Decoded.capture.inj (hd.symm.trans hd')
      exact hw
  next hd => simp [hd]
  next hd => simp [hd]
  next hd => simp [hd]

/-- With the write channel free the arbiter looks at the injected burst and the tail alone, not at the held address. -/
theorem grantNow_withoutHeldWrite (hc : s.path.cur = none) :
    grantNow (withoutHeldWrite s) = withoutHeldWrite (grantNow s) := by
  have hwaits : passWaits s.path = false := by rw [passWaits, hc]
  have hwaits' : passWaits (withoutHeldWrite s).path = false := by rw [passWaits]; simp [withoutHeldWrite, hc]
  have hop : grantOp (withoutHeldWrite s) = withoutHeldWrite (grantOp s) := by
    simp only [grantOp, hwaits, hwaits', Bool.false_eq_true, if_false]
    cases hi : s.inj.inflight with
    | none => simp [grantInjected, withoutHeldWrite, hi]
    | some i => simp [grantInjected, withoutHeldWrite, hi, sendDown, updPath, updInj]
  have hsame : grantAtOnce (withoutHeldWrite s) = grantAtOnce s := by
    simp only [grantAtOnce, grantDue, hwaits, hwaits']
    rfl
  rw [grantNow, grantNow, hsame, hop]
  split
  · rfl
  · rfl

theorem cur_grantNow_none (hc : s.path.cur = none) :
    (grantNow s).path.cur = none ∧ (grantNow s).path.writes = s.path.writes := by
  have hop : grantOp s = grantInjected s := by
    simp [grantOp, show passWaits s.path = false by rw [passWaits, hc]]
  rw [grantNow, hop]
  split
  · exact ⟨by simpa using hc, by simp⟩
  · exact ⟨hc, rfl⟩

/-- An address that can be taken is taken after the grant that the free channels make at once. -/
theorem exec_writeBurstTaken_granted (hr : s.inReset = false) (hopen : writeOpen s) :
    exec (.writeBurstTaken b) s = .next (publish s (arriveWrite b (grantNow s))) := by
  obtain ⟨hc, hheld, hlen⟩ := hopen
  obtain ⟨hcur, hwrites⟩ := cur_grantNow_none hc
  have hfree : writeFree (grantNow s).path = true :=
    (writeFree_iff (grantNow s)).mpr ⟨hcur, by simpa using hheld, by rw [hwrites]; exact hlen⟩
  refine (exec_writeBurstTaken b s).trans (act_next _ hr ?_)
  rw [← settleGrants_grantNow, settleGrants_idle (grantAtOnce_grantNow s) (.inr hfree), offerWrite, if_pos hfree]

/-- A held write address that is released is handled as one that is taken now. -/
theorem exec_heldLine0WriteTaken_released (hr : s.inReset = false) (h : s.path.heldWrite = some (d, b))
    (hfree : ¬StillHeld b s) (hc : s.path.cur = none) :
    exec .heldLine0WriteTaken s = .next (publish s (arriveWrite b (grantNow (withoutHeldWrite s)))) := by
  have hheld : (grantNow s).path.heldWrite = some (d, b) := by simpa using h
  rw [grantNow_withoutHeldWrite hc]
  refine act_next _ hr ?_
  rw [if_pos ((heldWriteDue_some h).mpr hfree), heldWriteOp, hheld]
  rfl

/-! ### The held read address (R88, R171) -/

theorem exec_readBurstTaken_open (hr : s.inReset = false) (h : readOpen s) :
    exec (.readBurstTaken b) s = .next (publish s (arriveRead b s)) :=
  act_next _ hr (by rw [if_pos ((readFree_iff s).mpr h)])

theorem exec_heldFrameStartTaken_released (hr : s.inReset = false) (h : s.path.heldRead = some (d, b))
    (hz : (s.side d).disp.outstanding = 0) :
    exec .heldFrameStartTaken s = .next (publish s (arriveRead b (withoutHeldRead s))) := by
  refine act_next _ hr ?_
  rw [if_pos ((heldReadDue_iff s).mpr ⟨d, b, h, hz⟩), heldReadOp, h]
  rfl

end

/-- Settles O47: a held address stays, or is handled as one that is taken when it is released. -/
theorem heldReleases : Obligations.HeldReleases := by
  intro s hr
  refine ⟨fun h => ?_, fun d b h => ?_, fun h => ?_, fun d b h => ?_⟩
  · exact (exec_heldLine0WriteTaken s).trans (act_none _ (if_neg (by simp [heldWriteDue_none h])))
  · refine ⟨fun hw => ?_, fun hw hopen => ?_⟩
    · exact (exec_heldLine0WriteTaken s).trans (act_none _ (if_neg fun hdue => (heldWriteDue_some h).mp hdue hw))
    · exact ⟨_, exec_writeBurstTaken_granted hr hopen, exec_heldLine0WriteTaken_released hr h hw hopen.1⟩
  · refine (exec_heldFrameStartTaken s).trans (act_none _ (if_neg fun hdue => ?_))
    obtain ⟨d, b, hh, -⟩ := (heldReadDue_iff s).mp hdue
    exact absurd (h.symm.trans hh) nofun
  · refine ⟨fun hpos => ?_, fun hz hopen => ?_⟩
    · refine (exec_heldFrameStartTaken s).trans (act_none _ (if_neg fun hdue => ?_))
      obtain ⟨d', b', hh, hz⟩ := (heldReadDue_iff s).mp hdue
      obtain ⟨rfl, rfl⟩ := Prod.mk.inj (Option.some.inj (h.symm.trans hh))
      omega
    · exact ⟨_, exec_readBurstTaken_open hr hopen, exec_heldFrameStartTaken_released hr h hz⟩

end Sys2Proof.Proofs.HeldAddresses

/-! ## PROOFS: write data -/

namespace Sys2Proof.Proofs.WriteData

open Sys2Proof Sys2Proof.Machine Sys2Proof.Safety Sys2Proof.Laws Sys2Proof.Proofs.Steps

section
variable {s : State} {c : CurWrite} {bt : Beat}

/-- A fault is noted without a look at the memory path. -/
theorem raiseEvent_updPath (k : FaultKind) (sc : Scope) (det : BitVec 32) (f : Path → Path) (s : State) :
    raiseEvent k sc det (updPath f s) = updPath f (raiseEvent k sc det s) := by
  have hfaults : (raiseEvent k sc det (updPath f s)).faults = (raiseEvent k sc det s).faults :=
    raiseEvent_congr k sc det rfl rfl rfl (by cases sc <;> rfl)
  rw [raiseEvent_writes, raiseEvent_writes k sc det s, hfaults]
  rfl

theorem notePartial_updPath (d : SideId) (o : Option Nat) (f : Path → Path) (s : State) :
    notePartial d o (updPath f s) = updPath f (notePartial d o s) := by
  cases o with
  | none => rfl
  | some off => exact raiseEvent_updPath ..

/-! ### A beat of a passed-through burst (R170, R175) -/

/-- The write channel after a beat of the burst: it goes on to the next beat, or is free and the burst is being sent. -/
def beatMoved (c : CurWrite) (s : State) : State :=
  if c.taken + 1 = c.burst.len then
    { s with
      path :=
        { s.path with
          cur := none
          tail := some (.upstream c.burst.id)
          writes := modifyLast (fun e => { e with parts := [c.burst.addr] }) s.path.writes } }
  else { s with path := { s.path with cur := some { c with taken := c.taken + 1 } } }

/-- The beat has left. -/
def beatSent (c : CurWrite) (bt : Beat) (s : State) : State :=
  { beatMoved c s with down := s.down ++ [.writeData bt (decide (c.taken + 1 = c.burst.len))] }

theorem passBeat_eq : passBeat c bt s = observeBeat c.burst c.taken bt (beatSent c bt s) := by
  by_cases hl : c.taken + 1 = c.burst.len
  · simp [passBeat, beatSent, beatMoved, hl, sendDown, updPath, updCurEntry]
  · simp [passBeat, beatSent, beatMoved, hl, beq_eq_false_iff_ne.mpr hl, sendDown, updPath]

theorem publish_beatSent : publish s (beatSent c bt s) = beatSent c bt s := by
  rw [beatSent, beatMoved]
  split
  · exact publish_path s _ _ _
  · exact publish_path s _ _ _

theorem beatSent_keeps : (beatSent c bt s).anchor = s.anchor ∧ (beatSent c bt s).inReset = s.inReset := by
  rw [beatSent, beatMoved]
  split
  · exact ⟨rfl, rfl⟩
  · exact ⟨rfl, rfl⟩

/-- An offset inside the settings block fits in twelve bits. -/
theorem toNat_blockOffset {a lo : Nat} (h : a ≤ lo + 4095) : (BitVec.ofNat 12 (a - lo)).toNat = a - lo := by
  rw [BitVec.toNat_ofNat]
  exact Nat.mod_eq_of_lt (by omega)

/-! ### A beat of an absorbed or discarded burst (R177) -/

theorem dropBeat_more (hl : ¬c.taken + 1 = c.burst.len) :
    dropBeat c s = { s with path := { s.path with cur := some { c with taken := c.taken + 1 } } } := if_neg hl

theorem dropBeat_last (hl : c.taken + 1 = c.burst.len) :
    dropBeat c s =
      releaseWrites
        { s with
          path :=
            { s.path with
              cur := none
              writes := modifyLast (fun e => { e with owner := .part, ready := some .okay }) s.path.writes } } := if_pos hl

/-! ### The last beat of a capture write (R10, R13, R28, R29, R176) -/

theorem finishCapture_eq (d : SideId) (off : Nat) (beats : List Beat) (hl : c.taken + 1 = c.burst.len) :
    ∀ z, z = develop (s.side d).cfg (s.side d).coll.snap c.burst off beats
        ((s.side d).coll.acc.getD (Stats.fresh .day)) →
      finishCapture c d off beats s =
        updSide d (fun x =>
          { x with cap := { x.cap with fip := x.cap.fip.map fun f => { f with closing := f.closing || z.closing } } })
          (notePartial d z.half
            (updSide d (fun x => { x with coll := { x.coll with acc := some z.stats } })
              { s with path := { s.path with cur := some { c with taken := c.taken + 1, beats := z.beats } } })) := by
  intro z hz
  have hcommute : ∀ t : State, updSide d (fun x => { x with coll := { x.coll with acc := some z.stats } })
      { t with path := { t.path with cur := some { c with taken := c.taken + 1, beats := z.beats } } } =
      updPath (fun p => { p with cur := some { c with taken := c.taken + 1, beats := z.beats } })
        (updSide d (fun x => { x with coll := { x.coll with acc := some z.stats } }) t) := fun t => by cases d <;> rfl
  rw [hcommute, notePartial_updPath]
  simp only [finishCapture, updColl, updFip, updCap, ← hl, ← hz]
  cases d <;> rfl

end

/-- Settles O48: a write data beat, by the burst that holds the write channel. -/
theorem writeDataBeatTaken : Obligations.WriteDataBeatTaken := by
  intro data strb s hr hng bt moveTo ended
  have htake : exec (.writeDataBeatTaken data strb) s = .next (publish s (takeBeat bt s)) :=
    (exec_writeDataBeatTaken data strb s).trans (act_next _ hr (by rw [settleGrants_of_noGrantFirst hng]))
  refine ⟨fun hc => ?_, fun c hc => ?_⟩
  · rw [htake, takeBeat, hc]
    exact congrArg Host.Outcome.next (publish_self s)
  intro more last
  refine ⟨fun hover => ?_, fun hlt => ⟨fun hpass => ?_, fun hnot habs => ?_, fun d a off hcap hkept => ?_⟩⟩
  · rw [htake, takeBeat, hc]
    simp only [if_pos hover, publish_self]
  · intro adr w moved sent
    have hgranted : c.granted = true := by
      by_contra hg
      exact hng.2 c hc ⟨by simpa using hg, .inl hpass⟩
    have hsent : sent = beatSent c bt s := by
      simp only [sent, moved, beatSent, beatMoved]
      rfl
    have heff : takeBeat bt s = observeBeat c.burst c.taken bt sent := by
      rw [takeBeat, hc, hsent, ← passBeat_eq]
      simp only [if_neg (Nat.not_le.mpr hlt), hpass, hgranted, if_true]
    obtain ⟨hanchor, hreset⟩ := beatSent_keeps (c := c) (bt := bt) (s := s)
    rw [htake, heff, hsent]
    refine ⟨fun hout => ?_, fun hlo hhi => ?_⟩
    · rw [observeBeat, hanchor]
      exact congrArg Host.Outcome.next ((congrArg (publish s) (if_neg hout)).trans publish_beatSent)
    · refine ⟨maskBeat c.burst c.taken bt, _, maskBeat_spec c.burst c.taken bt,
        (exec_settingsWrite _ _ _ _).trans (act_live _ (hreset.trans hr)), ?_⟩
      have hoff : (BitVec.ofNat 12 (adr - w.lo)).toNat = adr - w.lo := toNat_blockOffset hhi
      rw [observeBeat, hanchor, hoff]
      exact congrArg (fun t => Host.Outcome.next (publish s t)) (if_pos ⟨hlo, hhi⟩)
  · have hdrop : takeBeat bt s = dropBeat c s := by
      rw [takeBeat, hc]
      simp only [if_neg (Nat.not_le.mpr hlt)]
      cases hroute : c.route with
      | pass => exact absurd hroute hnot
      | absorbed => rfl
      | capture d a off =>
        have hdisc : c.discarded = true := habs.resolve_left (by simp [hroute])
        simp [hdisc]
    rw [htake, hdrop]
    refine ⟨fun hmore => ?_, fun hlast => ?_⟩
    · rw [dropBeat_more hmore]
      exact congrArg Host.Outcome.next (publish_path s _ _ _)
    · rw [dropBeat_last hlast]
      exact congrArg Host.Outcome.next (publish_path s _ _ _)
  · have hcollect : takeBeat bt s = collectBeat c d off bt s := by
      rw [takeBeat, hc]
      simp only [if_neg (Nat.not_le.mpr hlt), hcap, hkept]
      rfl
    rw [htake, hcollect, collectBeat]
    refine ⟨fun hmore => ?_, fun hlast => ?_⟩
    · rw [if_neg hmore]
      exact congrArg Host.Outcome.next (publish_path s _ _ _)
    · rw [if_pos hlast, finishCapture_eq d off _ hlast _ rfl]
      rfl

end Sys2Proof.Proofs.WriteData

/-! ## PROOFS: read addresses -/

namespace Sys2Proof.Proofs.ReadAddresses

open Sys2Proof Sys2Proof.Machine Sys2Proof.Safety Sys2Proof.Laws Sys2Proof.Proofs.Steps

section
variable {b : Burst} {s : State} {d : SideId} {off : Nat}

/-- Taking a read touches the memory path and the ports alone, of which no part is published. -/
theorem publish_readTaken (e : REntry) (ms : List DownMsg) (s : State) :
    publish s (readTaken e ms s) = readTaken e ms s :=
  publish_path s _ _ _

/-- A read burst redirected to a downstream address is taken (R176). -/
def redirectTaken (b : Burst) (owner : ROwner) (a : Addr) (s : State) : State :=
  readTaken (redirectedEntry b owner a) ((redirected b a).map .readAddr) s

/-! ### Capture reads (R12) -/

theorem captureRead_filling {f : Fip} (hf : (s.side d).cap.fip = some f)
    (hin : lastOffset b off < (s.side d).cfg.cap.area) :
    captureRead d off b s =
      redirectTaken b (.capture d) ((s.side d).cfg.cap.bufBase.get f.buf 0 + BitVec.ofNat 32 off) s := by
  have hsource : captureSource (s.side d) b off =
      .memory ((s.side d).cfg.cap.bufBase.get f.buf 0 + BitVec.ofNat 32 off) false := by
    rw [captureSource, hf]
    exact if_neg (Nat.not_le.mpr hin)
  rw [captureRead, hsource]
  rfl

theorem captureRead_zeros (h : (s.side d).cap.fip = none ∨ (s.side d).cfg.cap.area ≤ lastOffset b off) :
    captureRead d off b s = readTaken (zeroEntry b) [] s := by
  have hsource : captureSource (s.side d) b off = .zeros := by
    rw [captureSource]
    split
    next f hf => exact if_pos (h.resolve_left (by simp [hf]))
    · rfl
  rw [captureRead, hsource]
  rfl

/-! ### Display reads (R84, R85) -/

theorem serveDisplay_outside (h : (s.side d).cfg.cap.area ≤ lastOffset b off) :
    serveDisplay d off b s = readTaken (zeroEntry b) [] s := by
  rw [serveDisplay, show displaySource (s.side d) b off = .zeros from if_pos h]
  rfl

theorem serveDisplay_shown {n : Nat} {f : FrameInfo} (hin : lastOffset b off < (s.side d).cfg.cap.area)
    (hshown : shownBuf (s.side d).cap.bufs = some (n, f)) :
    serveDisplay d off b s =
      redirectTaken b (.display d true) ((s.side d).cfg.cap.bufBase.get n 0 + BitVec.ofNat 32 off)
        (updSide d (fun x => { x with disp := { x.disp with outstanding := x.disp.outstanding + 1 } }) s) := by
  have hsource : displaySource (s.side d) b off =
      .memory ((s.side d).cfg.cap.bufBase.get n 0 + BitVec.ofNat 32 off) true := by
    rw [displaySource, hshown]
    exact if_neg (Nat.not_le.mpr hin)
  rw [serveDisplay, hsource]
  rfl

theorem serveDisplay_fallback (hin : lastOffset b off < (s.side d).cfg.cap.area)
    (hnone : shownBuf (s.side d).cap.bufs = none) (hfall : (s.side d).cfg.cap.fallback ≠ 0) :
    serveDisplay d off b s =
      redirectTaken b (.display d false) ((s.side d).cfg.cap.fallback + BitVec.ofNat 32 off) s := by
  have hsource : displaySource (s.side d) b off =
      .memory ((s.side d).cfg.cap.fallback + BitVec.ofNat 32 off) false := by
    rw [displaySource, hnone]
    exact (if_neg (Nat.not_le.mpr hin)).trans (if_neg hfall)
  rw [serveDisplay, hsource]
  rfl

theorem serveDisplay_zeros (hin : lastOffset b off < (s.side d).cfg.cap.area)
    (hnone : shownBuf (s.side d).cap.bufs = none) (hfall : (s.side d).cfg.cap.fallback = 0) :
    serveDisplay d off b s = readTaken (zeroEntry b) [] s := by
  have hsource : displaySource (s.side d) b off = .zeros := by
    rw [displaySource, hnone]
    exact (if_neg (Nat.not_le.mpr hin)).trans (if_pos hfall)
  rw [serveDisplay, hsource]
  rfl

theorem shownBuf_none {t : Table Buf 3} (h : ∀ n < 3, isShown (t.get n .free) = false) : shownBuf t = none :=
  Option.isNone_iff_eq_none.mp ((shownBuf_isNone_iff t).mpr h)

end

/-- Settles O49: a read burst that is no display frame start, by what it is decoded into. -/
theorem readBurstTaken : Obligations.ReadBurstTaken := by
  intro b s hr passed redirect zeros
  have harrive := fun h : readOpen s => HeldAddresses.exec_readBurstTaken_open (b := b) hr h
  have hzeros : publish s (zeros s) = zeros s := publish_readTaken _ _ s
  refine ⟨fun hclosed => ?_, fun h hd => ?_, fun h hd => ?_, fun h d off hd => ?_, fun h d off hd hoff => ?_⟩
  · exact (exec_readBurstTaken b s).trans (act_none _ (if_neg (mt (readFree_iff s).mp hclosed)))
  · rw [harrive h, arriveRead, hd]
    exact congrArg Host.Outcome.next (publish_readTaken _ _ s)
  · rw [harrive h, arriveRead, hd]
    rfl
  · rw [harrive h, arriveRead, hd]
    intro x lastOff
    refine ⟨fun f hf hin => ?_, fun hout => ?_⟩
    · simp only
      rw [captureRead_filling hf hin]
      exact congrArg Host.Outcome.next (publish_readTaken _ _ s)
    · simp only
      rw [captureRead_zeros hout]
      exact congrArg Host.Outcome.next hzeros
  · have hserve : arriveRead b s = serveDisplay d off b s := by
      rw [arriveRead, hd]
      exact if_neg hoff
    rw [harrive h, hserve]
    intro x lastOff nothing
    refine ⟨fun hout => ?_, fun hin => ⟨fun n hn hs hlow => ?_, fun hnone hfall => ?_,
      fun hnone hfall => ?_⟩⟩
    · rw [serveDisplay_outside hout]
      exact congrArg Host.Outcome.next hzeros
    · obtain ⟨f, -, hshown⟩ := shownBuf_eq_some hn hs hlow
      rw [serveDisplay_shown hin hshown]
      rfl
    · rw [serveDisplay_fallback hin (shownBuf_none hnone) hfall]
      exact congrArg Host.Outcome.next (publish_readTaken _ _ s)
    · rw [serveDisplay_zeros hin (shownBuf_none hnone) hfall]
      exact congrArg Host.Outcome.next hzeros

end Sys2Proof.Proofs.ReadAddresses

/-! ## PROOFS: the display frame start -/

namespace Sys2Proof.Proofs.DisplayStart

open Sys2Proof Sys2Proof.Machine Sys2Proof.Safety Sys2Proof.Laws Sys2Proof.Proofs.Steps Sys2Proof.Proofs.ReadAddresses

/-! ### The buffer table under its laws (L1, L2) -/

/-- A test that at most one buffer passes is passed by one index alone. -/
theorem index_unique {t : Table Buf 3} {q : Buf → Bool} (hfree : q .free = false) (h : t.list.countP q ≤ 1) {i j : Nat}
    (hi : i < 3) (hj : j < 3) (hqi : q (t.get i .free) = true) (hqj : q (t.get j .free) = true) : i = j := by
  by_contra hne
  have hrest := Kept.countP_set t hi .free q
  have hone := Kept.countP_set (t.set i .free) hj .free q
  rw [get_set_ne t _ _ hne] at hone
  simp only [hqi, hqj, hfree, if_true, Bool.false_eq_true, if_false] at hrest hone
  omega

theorem code_ready {b : Buf} (h : isReady b = true) : ∃ f, b = .ready f := by
  cases b with
  | ready f => exact ⟨f, rfl⟩
  | free => exact absurd h (by decide)
  | filling => exact absurd h (by decide)
  | shown f => exact absurd h (by simp [isReady, Buf.code])

theorem code_shown {b : Buf} (h : isShown b = true) : ∃ f, b = .shown f := by
  cases b with
  | shown f => exact ⟨f, rfl⟩
  | free => exact absurd h (by decide)
  | filling => exact absurd h (by decide)
  | ready f => exact absurd h (by simp [isShown, Buf.code])

section
variable {x : Side}

theorem bufferLaws_counts (h : bufferLaws x = true) :
    x.cap.bufs.list.countP isReady ≤ 1 ∧ x.cap.bufs.list.countP isShown ≤ 1 := by
  simp only [bufferLaws, Bool.and_eq_true, decide_eq_true_eq] at h
  obtain ⟨⟨⟨hr, hs⟩, -⟩, -⟩ := h
  exact ⟨hr, hs⟩

/-- A side with a buffer that is not FREE is in service. -/
theorem inService_of_buf (h : bufferLaws x = true) {n : Nat} (hn : n < 3) (hb : x.cap.bufs.get n .free ≠ .free) :
    x.inService = true := by
  simp only [bufferLaws, Bool.and_eq_true, Bool.or_eq_true, beq_iff_eq] at h
  refine h.2.resolve_right fun ⟨hfree, _⟩ => hb ?_
  rw [hfree]
  interval_cases n
  · rfl
  · rfl
  · rfl

theorem readyBuf_isSome_iff (t : Table Buf 3) : (readyBuf t).isSome = true ↔ ∃ n < 3, isReady (t.get n .free) = true := by
  constructor
  · intro h
    obtain ⟨⟨k, f⟩, hk⟩ := Option.isSome_iff_exists.mp h
    obtain ⟨hlt, hget⟩ := Kept.readyBuf_spec hk
    exact ⟨k, hlt, by rw [hget]; rfl⟩
  · rintro ⟨n, hn, hr⟩
    obtain ⟨f, hf⟩ := code_ready hr
    rw [Option.isSome_iff_ne_none]
    intro hnone
    have := List.findSome?_eq_none_iff.mp hnone n (List.mem_range.mpr hn)
    rw [hf] at this
    exact absurd this nofun

theorem readyBuf_isSome_false {t : Table Buf 3} (h : ∀ n < 3, isReady (t.get n .free) = false) :
    ¬(readyBuf t).isSome = true := fun hs => by
  obtain ⟨n, hn, hr⟩ := (readyBuf_isSome_iff t).mp hs
  exact Bool.noConfusion ((h n hn).symm.trans hr)

/-- The one SHOWN buffer. -/
theorem shownBuf_unique {t : Table Buf 3} {n : Nat} {f : FrameInfo} (hn : n < 3) (h : t.get n .free = .shown f)
    (hall : ∀ m < 3, m ≠ n → isShown (t.get m .free) = false) : shownBuf t = some (n, f) := by
  obtain ⟨g, hg, hs⟩ := shownBuf_eq_some hn (by rw [h]; rfl) (fun m hm => hall m (by omega) (by omega))
  rw [hs, Buf.shown.inj (h.symm.trans hg)]

theorem shownBuf_of_laws (hl : bufferLaws x = true) {n : Nat} {f : FrameInfo} (hn : n < 3)
    (h : x.cap.bufs.get n .free = .shown f) : shownBuf x.cap.bufs = some (n, f) :=
  shownBuf_unique hn h fun m hm hne => by
    by_contra hs
    exact hne (index_unique rfl (bufferLaws_counts hl).2 hm hn (by simpa using hs) (by rw [h]; rfl))

/-- The table after the swap: the READY buffer SHOWN, the one SHOWN before FREE (R89). -/
theorem get_swapped (hl : bufferLaws x = true) {n : Nat} {f : FrameInfo} (hn : n < 3)
    (h : x.cap.bufs.get n .free = .ready f) : ∀ m < 3, (x.cap.bufs.map swapBuf).get m .free =
      if m = n then .shown f else if isShown (x.cap.bufs.get m .free) then .free else x.cap.bufs.get m .free := by
  intro m hm
  rw [get_map _ _ .free hm]
  by_cases hmn : m = n
  · rw [if_pos hmn, hmn, h]
    rfl
  · rw [if_neg hmn]
    cases hb : x.cap.bufs.get m .free with
    | free => rfl
    | filling => rfl
    | shown g => rfl
    | ready g =>
      exact absurd (index_unique rfl (bufferLaws_counts hl).1 hm hn (by rw [hb]; rfl) (by rw [h]; rfl)) hmn

theorem shownBuf_swapped (hl : bufferLaws x = true) {n : Nat} {f : FrameInfo} (hn : n < 3)
    (h : x.cap.bufs.get n .free = .ready f) : shownBuf (x.cap.bufs.map swapBuf) = some (n, f) := by
  refine shownBuf_unique hn (by rw [get_swapped hl hn h n hn, if_pos rfl]) fun m hm hne => ?_
  rw [get_swapped hl hn h m hm, if_neg hne]
  split
  · rfl
  next hs => simpa using hs

end

/-! ### The faults of a frame start, in their order (R90 to R93, R95) -/

/-- SIDE_DEGRADED, where the side was RUNNING. -/
def degrading (x : Side) (d : SideId) (cause : BitVec 32) (u : State) : State :=
  if x.head.health = .running then raiseCond .sideDegraded (scopeOf d) cause u else u

/-- VIEW_LATE with the age. -/
def late (x : Side) (d : SideId) (age : Time) (u : State) : State :=
  if x.cfg.disp.latencyLimit < age.toNat then degrading x d 6 (raiseEvent .viewLate (scopeOf d) age u) else u

/-- DISPLAY_IDLE cleared. -/
def idle (x : Side) (d : SideId) (u : State) : State :=
  if x.inService = true then clearCond .displayIdle (scopeOf d) u else u

section
variable {x : Side} {d : SideId} {v : State}

theorem viewStale_degrading (cause : BitVec 32) :
    isActive .viewStale (scopeOf d) (degrading x d cause v) = isActive .viewStale (scopeOf d) v := by
  rw [degrading]
  split
  · exact isActive_raiseCond_other _ _ _ _ (recIndex_side_ne d (by decide) (by decide))
  · rfl

theorem viewStale_late (age : Time) :
    isActive .viewStale (scopeOf d) (late x d age v) = isActive .viewStale (scopeOf d) v := by
  rw [late]
  split
  · rw [viewStale_degrading]
    exact isActive_raiseEvent_other _ _ _ _ (recIndex_side_ne d (by decide) (by decide))
  · rfl

theorem viewStale_idle : isActive .viewStale (scopeOf d) (idle x d v) = isActive .viewStale (scopeOf d) v := by
  rw [idle]
  split
  · exact isActive_clearCond_other _ _ _ (recIndex_side_ne d (by decide) (by decide))
  · rfl

end

/-! ### The side and the faults, stage by stage -/

/-- State `u` has the side `x` and the other side `o`, and the faults, the time and the pins of `v`. -/
def Stage (d : SideId) (x o : Side) (v u : State) : Prop :=
  u.side d = x ∧ u.side d.other = o ∧ SameView (scopeOf d) u v

/-- A side that is degraded, with its cause. -/
def degradedBy (code : Nat) (x : Side) : Side :=
  { x with head := { x.head with health := .degraded, goodFrames := 0, cause := code } }

/-- A side with the age of the frame it shows, degraded where the age is above the limit. -/
def aged (age : Time) (x : Side) : Side :=
  if x.cfg.disp.latencyLimit < age.toNat then degradedBy 6 { x with disp := { x.disp with lastAge := age } }
  else { x with disp := { x.disp with lastAge := age } }

/-- A side with its buffers swapped (R89). -/
def swapped (x : Side) : Side :=
  { x with cap := { x.cap with bufs := x.cap.bufs.map swapBuf }, disp := { x.disp with repeats := 0 } }

/-- A side with a frame repeated (R90). -/
def repeated (x : Side) : Side := { x with disp := { x.disp with repeats := min 255 (x.disp.repeats + 1) } }

/-- A side with its display watchdog restarted in service (R92). -/
def restarted (now : Time) (x : Side) : Side :=
  { x with disp := if x.inService = true then { x.disp with watchdog := some now, expired := false } else x.disp }

/-- The repeat count reaches the limit with VIEW_STALE not active. -/
def Stale (d : SideId) (s : State) : Prop :=
  (s.side d).cfg.disp.staleLimit ≤ min 255 ((s.side d).disp.repeats + 1) ∧ isActive .viewStale (scopeOf d) s = false

/-- The faults where the frame is stale. -/
def staleFaults (d : SideId) (s : State) : State :=
  degrading (s.side d) d 5
    (raiseCond .viewStale (scopeOf d) (BitVec.ofNat 32 (min 255 ((s.side d).disp.repeats + 1))) s)

section
variable {x y o : Side} {d : SideId} {s u v : State}

theorem Stage.start : Stage d (s.side d) (s.side d.other) s s := ⟨rfl, rfl, .refl _ s⟩

theorem Stage.change {f : Side → Side} (h : Stage d x o v u)
    (hh : ((f x).head.health == .failed) = (x.head.health == .failed))
    (hn : (f x).cap.frameNumber = x.cap.frameNumber) : Stage d (f x) o v (updSide d f u) := by
  obtain ⟨rfl, ho, hv⟩ := h
  exact ⟨by simp, by simpa using ho, (sameView_updSide _ d f u hh hn).trans hv⟩

theorem Stage.event (k : FaultKind) (det : BitVec 32) (h : Stage d x o v u) :
    Stage d x o (raiseEvent k (scopeOf d) det v) (raiseEvent k (scopeOf d) det u) := by
  obtain ⟨hx, ho, hv⟩ := h
  exact ⟨by simpa using hx, by simpa using ho, hv.raiseEvent k det⟩

theorem Stage.raise (k : FaultKind) (det : BitVec 32) (h : Stage d x o v u) :
    Stage d x o (raiseCond k (scopeOf d) det v) (raiseCond k (scopeOf d) det u) := by
  obtain ⟨hx, ho, hv⟩ := h
  exact ⟨by simpa using hx, by simpa using ho, hv.raiseCond k det⟩

theorem Stage.clear (k : FaultKind) (h : Stage d x o v u) :
    Stage d x o (clearCond k (scopeOf d) v) (clearCond k (scopeOf d) u) := by
  obtain ⟨hx, ho, hv⟩ := h
  exact ⟨by simpa using hx, by simpa using ho, hv.clearCond k⟩

/-- A side in service as it was, or degraded since, with SIDE_DEGRADED raised where it was RUNNING. -/
def Serving (d : SideId) (x y : Side) (v : State) : Prop :=
  y.head.health = x.head.health ∧ (x.head.health = .running ∨ x.head.health = .degraded) ∨
    y.head.health = .degraded ∧ (x.head.health = .running → isActive .sideDegraded (scopeOf d) v = true)

theorem raiseCond_active (k : FaultKind) (sc : Scope) (det : BitVec 32) (h : isActive k sc v = true) :
    raiseCond k sc det v = v := if_pos h

/-- A degrading cause of a side in service. -/
theorem Stage.degrade {n : Nat} (h : Stage d y o v u) (hs : Serving d x y v) :
    Stage d (degradedBy n y) o (degrading x d (BitVec.ofNat 32 n) v) (Machine.degrade d n u) := by
  obtain ⟨rfl, ho, hv⟩ := h
  have hhead : (u.side d).head.health = .running ∨ (u.side d).head.health = .degraded →
      Stage d (degradedBy n (u.side d)) o v (updSide d (degradedBy n) u) := fun hh =>
    Stage.change ⟨rfl, ho, hv⟩ (by rcases hh with hh | hh <;> rw [hh] <;> rfl) rfl
  have hkept : (u.side d).head.health = .degraded → Machine.degrade d n u = updSide d (degradedBy n) u := fun hh => by
    rw [Machine.degrade, hh]
    exact Timers.updSide_congr d u (by simp [degradedBy, hh])
  rcases hs with ⟨hsame, hrun | hdeg⟩ | ⟨hdeg, hact⟩
  · have heq : Machine.degrade d n u =
        raiseCond .sideDegraded (scopeOf d) (BitVec.ofNat 32 n) (updSide d (degradedBy n) u) := by
      rw [Machine.degrade, hsame.trans hrun]
      rfl
    rw [heq, degrading, if_pos hrun]
    exact (hhead (.inl (hsame.trans hrun))).raise ..
  · rw [hkept (hsame.trans hdeg), degrading, if_neg (by rw [hdeg]; decide)]
    exact hhead (.inr (hsame.trans hdeg))
  · rw [hkept hdeg, degrading]
    split
    next hr => rw [raiseCond_active _ _ _ (hact hr)]; exact hhead (.inr hdeg)
    · exact hhead (.inr hdeg)

theorem serving_of_inService (h : x.inService = true) : x.head.health = .running ∨ x.head.health = .degraded := by
  rw [Side.inService] at h
  cases hh : x.head.health <;> rw [hh] at h <;> simp_all [Health.inService]

/-- Step 2, with a frame shown (R91, R95). -/
theorem Stage.age {n : Nat} {f : FrameInfo} (h : Stage d y o v u) (hs : Serving d x y v)
    (hb : shownBuf y.cap.bufs = some (n, f)) (hc : y.cfg = x.cfg) :
    Stage d (aged (u.time - f.completed) y) o (late x d (u.time - f.completed) v) (ageCheck d u) := by
  obtain ⟨hy, -⟩ := id h
  have hage := h.change (f := fun z => { z with disp := { z.disp with lastAge := u.time - f.completed } }) rfl rfl
  have hcfg : (updSide d (fun z => { z with disp := { z.disp with lastAge := u.time - f.completed } }) u).side d =
      { y with disp := { y.disp with lastAge := u.time - f.completed } } := hage.1
  simp only [ageCheck, hy, hb, updDisp, hcfg]
  rw [aged, late, ← hc]
  split
  · refine (hage.event _ _).degrade (n := 6) ?_
    rcases hs with hs | ⟨hdeg, hact⟩
    · exact .inl hs
    · refine .inr ⟨hdeg, fun hr => ?_⟩
      rw [isActive_raiseEvent_other _ _ _ _ (recIndex_side_ne d (by decide) (by decide))]
      exact hact hr
  · exact hage

theorem Stage.age_none (h : Stage d y o v u) (hb : shownBuf y.cap.bufs = none) : Stage d y o v (ageCheck d u) := by
  obtain ⟨hy, -⟩ := id h
  simp only [ageCheck, hy, hb]
  exact h

/-- Step 3 (R92, R93). -/
theorem Stage.restart (h : Stage d y o v u) (hs : y.inService = x.inService) :
    Stage d (restarted u.time y) o (idle x d v) (restartDisplay d u) := by
  obtain ⟨rfl, -⟩ := id h
  rw [restarted, restartDisplay, idle, ← hs]
  split
  · exact (h.change (f := fun z => { z with disp := { z.disp with watchdog := some u.time, expired := false } })
      rfl rfl).clear _
  · exact h

/-- Step 1 with a READY buffer (R89). -/
theorem stage_swap (hr : ∃ n < 3, isReady ((s.side d).cap.bufs.get n .free) = true) :
    Stage d (swapped (s.side d)) (s.side d.other) (clearCond .viewStale (scopeOf d) s) (swapOrRepeat d s) := by
  rw [swapOrRepeat, if_pos ((readyBuf_isSome_iff _).mpr hr)]
  exact (Stage.start.change (f := swapped) rfl rfl).clear _

theorem stage_repeat (hr : ∀ n < 3, isReady ((s.side d).cap.bufs.get n .free) = false)
    {n : Nat} {f : FrameInfo} (hb : shownBuf (s.side d).cap.bufs = some (n, f)) :
    swapOrRepeat d s = repeatFrame d s := by
  rw [swapOrRepeat, if_neg (readyBuf_isSome_false hr), if_pos (by rw [hb]; rfl)]

theorem counted_repeat : Stage d (repeated (s.side d)) (s.side d.other) s
    (updDisp d (fun p => { p with repeats := min 255 ((s.side d).disp.repeats + 1) }) s) :=
  Stage.start.change (f := fun z => { z with disp := { z.disp with repeats := min 255 ((s.side d).disp.repeats + 1) } })
    rfl rfl

theorem stale_counted_iff (p : Display → Display) (hn : isActive .viewStale (scopeOf d) (updDisp d p s) =
    isActive .viewStale (scopeOf d) s) :
    ((updDisp d p s).side d).cfg.disp.staleLimit ≤ min 255 ((s.side d).disp.repeats + 1) ∧
      isActive .viewStale (scopeOf d) (updDisp d p s) = false ↔ Stale d s := by
  rw [hn, Stale]
  simp

/-- Step 1 with a stale frame (R90, R95). -/
theorem stage_stale (h : Stale d s) (hs : (s.side d).inService = true) :
    Stage d (degradedBy 5 (repeated (s.side d))) (s.side d.other) (staleFaults d s) (repeatFrame d s) := by
  have hact := isActive_congr (s := updDisp d (fun p => { p with repeats := min 255 ((s.side d).disp.repeats + 1) }) s)
    (t := s) (by simp) .viewStale (scopeOf d)
  rw [repeatFrame]
  refine (if_pos ((stale_counted_iff _ hact).mpr h)).symm ▸ ?_
  exact (counted_repeat.raise .viewStale _).degrade (n := 5) (.inl ⟨rfl, serving_of_inService hs⟩)

theorem stage_fresh (h : ¬Stale d s) :
    Stage d (repeated (s.side d)) (s.side d.other) s (repeatFrame d s) := by
  have hact := isActive_congr (s := updDisp d (fun p => { p with repeats := min 255 ((s.side d).disp.repeats + 1) }) s)
    (t := s) (by simp) .viewStale (scopeOf d)
  rw [repeatFrame]
  exact (if_neg (mt (stale_counted_iff _ hact).mp h)).symm ▸ counted_repeat

end

end Sys2Proof.Proofs.DisplayStart

/-! ## PROOFS: what a display frame start leaves -/

namespace Sys2Proof.Proofs.DisplayStart

open Sys2Proof Sys2Proof.Machine Sys2Proof.Safety Sys2Proof.Laws Sys2Proof.Proofs.Steps Sys2Proof.Proofs.ReadAddresses

section
variable {x w : Side} {d : SideId} {s v : State} {b : Burst} {age : Time}

/-! ### The stages of a side, field by field -/

@[simp] theorem aged_cap : (aged age x).cap = x.cap := by rw [aged]; split <;> rfl

@[simp] theorem aged_cfg : (aged age x).cfg = x.cfg := by rw [aged]; split <;> rfl

@[simp] theorem aged_disp : (aged age x).disp = { x.disp with lastAge := age } := by rw [aged]; split <;> rfl

theorem aged_head_late (h : x.cfg.disp.latencyLimit < age.toNat) :
    (aged age x).head = { x.head with health := .degraded, goodFrames := 0, cause := 6 } := by rw [aged, if_pos h]; rfl

theorem aged_head_early (h : age.toNat ≤ x.cfg.disp.latencyLimit) : (aged age x).head = x.head := by
  rw [aged, if_neg (Nat.not_lt.mpr h)]

theorem inService_degradedBy (n : Nat) : (degradedBy n x).inService = true := rfl

theorem inService_aged (h : x.inService = true) : (aged age x).inService = true := by
  rw [aged]
  split
  · rfl
  · exact h

@[simp] theorem restarted_disp_rest (now : Time) :
    (restarted now x).disp.repeats = x.disp.repeats ∧ (restarted now x).disp.lastAge = x.disp.lastAge ∧
      (restarted now x).disp.outstanding = x.disp.outstanding := by
  simp only [restarted]
  split
  · exact ⟨rfl, rfl, rfl⟩
  · exact ⟨rfl, rfl, rfl⟩

theorem late_early (h : age.toNat ≤ x.cfg.disp.latencyLimit) : late x d age v = v := if_neg (Nat.not_lt.mpr h)

/-! ### The state after the frame start and the read (R84, R86, R88) -/

/-- What the steps before the watchdog's restart leave of the side: its frame, its settings and its watchdog, and whether it is in
service. -/
def SameCore (x w : Side) : Prop :=
  w.cap.fip = x.cap.fip ∧ w.cap.frameNumber = x.cap.frameNumber ∧ w.cfg = x.cfg ∧ w.disp.watchdog = x.disp.watchdog ∧
    w.disp.expired = x.disp.expired ∧ w.disp.outstanding = x.disp.outstanding ∧ w.inService = x.inService

theorem SameCore.aged (h : SameCore x w) (hs : x.inService = true) : SameCore x (aged age w) := by
  obtain ⟨h1, h2, h3, h4, h5, h6, h7⟩ := h
  simp only [SameCore, aged_cap, aged_cfg, aged_disp, inService_aged (h7.trans hs), hs]
  exact ⟨h1, h2, h3, h4, h5, h6, trivial⟩

theorem sameCore_aged_swapped (h : x.inService = true) : SameCore x (DisplayStart.aged age (swapped x)) :=
  SameCore.aged ⟨rfl, rfl, rfl, rfl, rfl, rfl, rfl⟩ h

theorem sameCore_aged_repeated (h : x.inService = true) : SameCore x (DisplayStart.aged age (repeated x)) :=
  SameCore.aged ⟨rfl, rfl, rfl, rfl, rfl, rfl, rfl⟩ h

theorem sameCore_aged_stale (h : x.inService = true) :
    SameCore x (DisplayStart.aged age (degradedBy 5 (repeated x))) :=
  SameCore.aged ⟨rfl, rfl, rfl, rfl, rfl, rfl, h.symm⟩ h

/-- The frame start came to side `w` with the faults of `v`, and the burst was taken with entry `e`, counted `k` times among
the outstanding display reads. -/
def Started (d : SideId) (s : State) (w : Side) (v : State) (k : Nat) (e : REntry) (ms : List DownMsg) (t : State) : Prop :=
  t.side d =
      { restarted s.time w with
        disp := { (restarted s.time w).disp with outstanding := (restarted s.time w).disp.outstanding + k } } ∧
    t.side d.other = s.side d.other ∧ t.faults = (idle (s.side d) d v).faults ∧ t.link = s.link ∧ t.snoop = s.snoop ∧
    t.path = (readTaken e ms s).path ∧ t.down = (readTaken e ms s).down ∧ t.up = (readTaken e ms s).up

/-- Taking a read looks at the memory path and the ports alone. -/
theorem readTaken_ports (e : REntry) (ms : List DownMsg) {t u : State} (hp : u.path = t.path) (hd : u.down = t.down)
    (hu : u.up = t.up) :
    (readTaken e ms u).path = (readTaken e ms t).path ∧ (readTaken e ms u).down = (readTaken e ms t).down ∧
      (readTaken e ms u).up = (readTaken e ms t).up := by
  simp only [readTaken, releaseReads, sendUp, updPath, hp, hd, hu, and_self]

theorem readTaken_rest (e : REntry) (ms : List DownMsg) (u : State) :
    (readTaken e ms u).faults = u.faults ∧ (readTaken e ms u).link = u.link ∧ (readTaken e ms u).snoop = u.snoop ∧
      ∀ d, (readTaken e ms u).side d = u.side d :=
  ⟨rfl, rfl, rfl, fun d => by cases d <;> rfl⟩

theorem stage_frameStart (h : Stage d w (s.side d.other) v (ageCheck d (swapOrRepeat d s))) (hc : SameCore (s.side d) w) :
    Stage d (restarted s.time w) (s.side d.other) (idle (s.side d) d v) (frameStart d s) := by
  obtain ⟨-, -, -, -, -, -, hserv⟩ := hc
  have htime : (ageCheck d (swapOrRepeat d s)).time = s.time := by simp
  rw [← htime]
  exact h.restart hserv

/-- The read taken uncounted after the frame start. -/
theorem started_uncounted (e : REntry) (ms : List DownMsg)
    (h : Stage d (restarted s.time w) (s.side d.other) (idle (s.side d) d v) (frameStart d s)) :
    Started d s w v 0 e ms (publish s (readTaken e ms (frameStart d s))) := by
  obtain ⟨hside, hother, hfaults, -⟩ := h
  obtain ⟨hf, hl, hn, hs⟩ := readTaken_rest e ms (frameStart d s)
  obtain ⟨hp, hdn, hu⟩ := readTaken_ports e ms (t := s) (u := frameStart d s) (by simp) (by simp) (by simp)
  simp only [Started, side_publish, publish_frame, hf, hl, hn, hs, hp, hdn, hu, hside, hother, hfaults]
  simp [-restarted_disp_rest]

/-- The read taken and counted after the frame start. -/
theorem started_counted (e : REntry) (ms : List DownMsg)
    (h : Stage d (restarted s.time w) (s.side d.other) (idle (s.side d) d v) (frameStart d s)) :
    Started d s w v 1 e ms (publish s (readTaken e ms
      (updSide d (fun x => { x with disp := { x.disp with outstanding := x.disp.outstanding + 1 } }) (frameStart d s)))) := by
  obtain ⟨hside, hother, hfaults, -⟩ := h
  generalize hu0 : updSide d (fun x => { x with disp := { x.disp with outstanding := x.disp.outstanding + 1 } })
    (frameStart d s) = u
  obtain ⟨hf, hl, hn, hs⟩ := readTaken_rest e ms u
  obtain ⟨hp, hdn, hu⟩ := readTaken_ports e ms (t := s) (u := u) (by simp [← hu0]) (by simp [← hu0]) (by simp [← hu0])
  have hfu : u.faults = (frameStart d s).faults := by rw [← hu0]; simp
  simp only [Started, side_publish, publish_frame, hf, hl, hn, hs, hp, hdn, hu, hfu, hfaults]
  simp [← hu0, hside, hother]

/-- The frame start of the state, by the source of the read. -/
def startTaken (d : SideId) (b : Burst) (s : State) : State := publish s (serveDisplay d 0 b (frameStart d s))

theorem lastOffset_zero : lastOffset b 0 = (byteRange b).2 - (byteRange b).1 := Nat.zero_add _

theorem started_shown (h : Stage d w (s.side d.other) v (ageCheck d (swapOrRepeat d s))) (hc : SameCore (s.side d) w)
    (hin : (byteRange b).2 - (byteRange b).1 < (s.side d).cfg.cap.area) {n : Nat} {f : FrameInfo}
    (hb : shownBuf w.cap.bufs = some (n, f)) :
    Started d s w v 1 (redirectedEntry b (.display d true) ((s.side d).cfg.cap.bufBase.get n 0))
      ((redirected b ((s.side d).cfg.cap.bufBase.get n 0)).map .readAddr) (startTaken d b s) := by
  have hstage := stage_frameStart h hc
  obtain ⟨-, -, hcfg, -⟩ := hc
  obtain ⟨hside, -⟩ := id hstage
  have hcfg' : ((frameStart d s).side d).cfg = (s.side d).cfg := by rw [hside]; exact hcfg
  rw [startTaken, serveDisplay_shown (by rw [hcfg', lastOffset_zero]; exact hin) (by rw [hside]; exact hb), hcfg',
    redirectTaken, show (s.side d).cfg.cap.bufBase.get n 0 + BitVec.ofNat 32 0 = (s.side d).cfg.cap.bufBase.get n 0 by simp]
  exact started_counted _ _ hstage

theorem started_fallback (h : Stage d w (s.side d.other) v (ageCheck d (swapOrRepeat d s))) (hc : SameCore (s.side d) w)
    (hin : (byteRange b).2 - (byteRange b).1 < (s.side d).cfg.cap.area) (hb : shownBuf w.cap.bufs = none)
    (hfall : (s.side d).cfg.cap.fallback ≠ 0) :
    Started d s w v 0 (redirectedEntry b (.display d false) (s.side d).cfg.cap.fallback)
      ((redirected b (s.side d).cfg.cap.fallback).map .readAddr) (startTaken d b s) := by
  have hstage := stage_frameStart h hc
  obtain ⟨-, -, hcfg, -⟩ := hc
  obtain ⟨hside, -⟩ := id hstage
  have hcfg' : ((frameStart d s).side d).cfg = (s.side d).cfg := by rw [hside]; exact hcfg
  rw [startTaken, serveDisplay_fallback (by rw [hcfg', lastOffset_zero]; exact hin) (by rw [hside]; exact hb)
    (by rw [hcfg']; exact hfall), hcfg', redirectTaken,
    show (s.side d).cfg.cap.fallback + BitVec.ofNat 32 0 = (s.side d).cfg.cap.fallback by simp]
  exact started_uncounted _ _ hstage

theorem started_zeros (h : Stage d w (s.side d.other) v (ageCheck d (swapOrRepeat d s))) (hc : SameCore (s.side d) w)
    (hin : (byteRange b).2 - (byteRange b).1 < (s.side d).cfg.cap.area) (hb : shownBuf w.cap.bufs = none)
    (hfall : (s.side d).cfg.cap.fallback = 0) :
    Started d s w v 0 (zeroEntry b) [] (startTaken d b s) := by
  have hstage := stage_frameStart h hc
  obtain ⟨-, -, hcfg, -⟩ := hc
  obtain ⟨hside, -⟩ := id hstage
  have hcfg' : ((frameStart d s).side d).cfg = (s.side d).cfg := by rw [hside]; exact hcfg
  rw [startTaken, serveDisplay_zeros (by rw [hcfg', lastOffset_zero]; exact hin) (by rw [hside]; exact hb)
    (by rw [hcfg']; exact hfall)]
  exact started_uncounted _ _ hstage

/-! ### The three cases: a READY buffer, a SHOWN one alone, neither (R89, R90) -/

section
variable (hl : bufferLaws (s.side d) = true)
  (hin : (byteRange b).2 - (byteRange b).1 < (s.side d).cfg.cap.area)
include hl hin

theorem started_swap {n : Nat} {f : FrameInfo} (hn : n < 3) (h : (s.side d).cap.bufs.get n .free = .ready f) :
    SameCore (s.side d) (aged (s.time - f.completed) (swapped (s.side d))) ∧
    Started d s (aged (s.time - f.completed) (swapped (s.side d)))
      (late (s.side d) d (s.time - f.completed) (clearCond .viewStale (scopeOf d) s)) 1
      (redirectedEntry b (.display d true) ((s.side d).cfg.cap.bufBase.get n 0))
      ((redirected b ((s.side d).cfg.cap.bufBase.get n 0)).map .readAddr) (startTaken d b s) := by
  have hserv := inService_of_buf hl hn (by rw [h]; nofun)
  have hcore := sameCore_aged_swapped (age := s.time - f.completed) hserv
  have hshown : shownBuf (swapped (s.side d)).cap.bufs = some (n, f) := shownBuf_swapped hl hn h
  have hstage := (stage_swap ⟨n, hn, by rw [h]; rfl⟩).age (x := s.side d)
    (.inl ⟨rfl, serving_of_inService hserv⟩) hshown rfl
  rw [show (swapOrRepeat d s).time = s.time by simp] at hstage
  exact ⟨hcore, started_shown hstage hcore hin (by rw [aged_cap]; exact hshown)⟩

variable (hready : ∀ n < 3, isReady ((s.side d).cap.bufs.get n .free) = false)
include hready

theorem started_stale {n : Nat} {f : FrameInfo} (hn : n < 3) (h : (s.side d).cap.bufs.get n .free = .shown f)
    (hstale : Stale d s) :
    SameCore (s.side d) (aged (s.time - f.completed) (degradedBy 5 (repeated (s.side d)))) ∧
    Started d s (aged (s.time - f.completed) (degradedBy 5 (repeated (s.side d))))
      (late (s.side d) d (s.time - f.completed) (staleFaults d s)) 1
      (redirectedEntry b (.display d true) ((s.side d).cfg.cap.bufBase.get n 0))
      ((redirected b ((s.side d).cfg.cap.bufBase.get n 0)).map .readAddr) (startTaken d b s) := by
  have hserv := inService_of_buf hl hn (by rw [h]; nofun)
  have hcore := sameCore_aged_stale (age := s.time - f.completed) hserv
  have hshown := shownBuf_of_laws hl hn h
  have hraised : (s.side d).head.health = .running → isActive .sideDegraded (scopeOf d) (staleFaults d s) = true :=
    fun hr => by
      rw [staleFaults, degrading, if_pos hr]
      exact isActive_raiseCond _ _ _ _
  have hrepeat := stage_stale hstale hserv
  rw [← stage_repeat hready hshown] at hrepeat
  have hstage := hrepeat.age (x := s.side d) (n := n) (f := f) (.inr ⟨rfl, hraised⟩) hshown rfl
  rw [show (swapOrRepeat d s).time = s.time by simp] at hstage
  exact ⟨hcore, started_shown hstage hcore hin (by rw [aged_cap]; exact hshown)⟩

theorem started_repeat {n : Nat} {f : FrameInfo} (hn : n < 3) (h : (s.side d).cap.bufs.get n .free = .shown f)
    (hstale : ¬Stale d s) :
    SameCore (s.side d) (aged (s.time - f.completed) (repeated (s.side d))) ∧
    Started d s (aged (s.time - f.completed) (repeated (s.side d)))
      (late (s.side d) d (s.time - f.completed) s) 1
      (redirectedEntry b (.display d true) ((s.side d).cfg.cap.bufBase.get n 0))
      ((redirected b ((s.side d).cfg.cap.bufBase.get n 0)).map .readAddr) (startTaken d b s) := by
  have hserv := inService_of_buf hl hn (by rw [h]; nofun)
  have hcore := sameCore_aged_repeated (age := s.time - f.completed) hserv
  have hshown := shownBuf_of_laws hl hn h
  have hrepeat := stage_fresh hstale
  rw [← stage_repeat hready hshown] at hrepeat
  have hstage := hrepeat.age (x := s.side d) (n := n) (f := f) (.inl ⟨rfl, serving_of_inService hserv⟩) hshown rfl
  rw [show (swapOrRepeat d s).time = s.time by simp] at hstage
  exact ⟨hcore, started_shown hstage hcore hin (by rw [aged_cap]; exact hshown)⟩

end

theorem stage_neither (hready : ∀ n < 3, isReady ((s.side d).cap.bufs.get n .free) = false)
    (hshown : ∀ n < 3, isShown ((s.side d).cap.bufs.get n .free) = false) :
    Stage d (s.side d) (s.side d.other) s (ageCheck d (swapOrRepeat d s)) := by
  have hnone := shownBuf_none hshown
  rw [swapOrRepeat, if_neg (readyBuf_isSome_false hready), if_neg (by simp [hnone])]
  exact Stage.start.age_none hnone

end

end Sys2Proof.Proofs.DisplayStart

/-! ## PROOFS: the display frame start, settled -/

namespace Sys2Proof.Proofs.DisplayStart

open Sys2Proof Sys2Proof.Machine Sys2Proof.Safety Sys2Proof.Laws Sys2Proof.Proofs.Steps Sys2Proof.Proofs.ReadAddresses

section
variable {d : SideId} {s v t : State} {w : Side} {b : Burst} {k : Nat} {e : REntry} {ms : List DownMsg}

/-- The fields of the side that the steps before the watchdog's restart have set. -/
theorem Started.fields (h : Started d s w v k e ms t) :
    (t.side d).cap = w.cap ∧ (t.side d).head = w.head ∧ (t.side d).disp.repeats = w.disp.repeats ∧
      (t.side d).disp.lastAge = w.disp.lastAge ∧ (t.side d).disp.outstanding = w.disp.outstanding + k := by
  obtain ⟨hside, -⟩ := h
  rw [hside]
  obtain ⟨hr, ha, ho⟩ := restarted_disp_rest (x := w) s.time
  exact ⟨rfl, rfl, hr, ha, congrArg (· + k) ho⟩

theorem Started.faults (h : Started d s w v k e ms t) : t.faults = (idle (s.side d) d v).faults := by
  obtain ⟨-, -, hf, -⟩ := h
  exact hf

theorem Started.entered (h : Started d s w v k e ms t) :
    t.path = (readTaken e ms s).path ∧ t.down = (readTaken e ms s).down ∧ t.up = (readTaken e ms s).up := by
  obtain ⟨-, -, -, -, -, hports⟩ := h
  exact hports

theorem Started.viewStale (h : Started d s w v k e ms t) :
    isActive .viewStale (scopeOf d) t = isActive .viewStale (scopeOf d) v :=
  (isActive_congr h.faults _ _).trans viewStale_idle

/-- The watchdog, and what stays (R92, R93). -/
theorem Started.rest (h : Started d s w v k e ms t) (hc : SameCore (s.side d) w) :
    ((s.side d).inService = true →
      (t.side d).disp.watchdog = some s.time ∧ (t.side d).disp.expired = false ∧
        isActive .displayIdle (scopeOf d) t = false) ∧
    ((s.side d).inService = false →
      (t.side d).disp.watchdog = (s.side d).disp.watchdog ∧ (t.side d).disp.expired = (s.side d).disp.expired) ∧
    (t.side d).cap.fip = (s.side d).cap.fip ∧ (t.side d).cap.frameNumber = (s.side d).cap.frameNumber ∧
    (t.side d).cfg = (s.side d).cfg ∧ t.side d.other = s.side d.other ∧ t.link = s.link ∧ t.snoop = s.snoop := by
  obtain ⟨hside, hother, hfaults, hlink, hsnoop, -⟩ := h
  obtain ⟨hfip, hnum, hcfg, hdog, hexp, -, hserv⟩ := hc
  rw [hside]
  refine ⟨fun hin => ⟨?_, ?_, ?_⟩, fun hout => ⟨?_, ?_⟩, hfip, hnum, hcfg, hother, hlink, hsnoop⟩
  · simp [restarted, hserv.trans hin]
  · simp [restarted, hserv.trans hin]
  · rw [isActive_congr hfaults, idle, if_pos hin]
    exact isActive_clearCond ..
  · simp [restarted, hserv.trans hout, hdog]
  · simp [restarted, hserv.trans hout, hexp]

end

section
variable {d : SideId} {s t : State} {b : Burst}

/-- In each case the frame start leaves the side, with the faults of a stage. -/
theorem exists_started (hl : bufferLaws (s.side d) = true)
    (hin : (byteRange b).2 - (byteRange b).1 < (s.side d).cfg.cap.area) :
    ∃ w v k e ms, (SameCore (s.side d) w ∧ Started d s w v k e ms (startTaken d b s)) ∧
      ((∀ n < 3, isReady ((s.side d).cap.bufs.get n .free) = false) → w.cap = (s.side d).cap) := by
  by_cases hready : ∀ n < 3, isReady ((s.side d).cap.bufs.get n .free) = false
  · by_cases hshown : ∀ n < 3, isShown ((s.side d).cap.bufs.get n .free) = false
    · have hcore : SameCore (s.side d) (s.side d) := ⟨rfl, rfl, rfl, rfl, rfl, rfl, rfl⟩
      by_cases hfall : (s.side d).cfg.cap.fallback = 0
      · exact ⟨_, _, _, _, _, ⟨hcore,
          started_zeros (stage_neither hready hshown) hcore hin (shownBuf_none hshown) hfall⟩, fun _ => rfl⟩
      · exact ⟨_, _, _, _, _, ⟨hcore,
          started_fallback (stage_neither hready hshown) hcore hin (shownBuf_none hshown) hfall⟩, fun _ => rfl⟩
    · obtain ⟨n, hn, hs⟩ : ∃ n < 3, isShown ((s.side d).cap.bufs.get n .free) = true := by simpa using hshown
      obtain ⟨f, hf⟩ := code_shown hs
      by_cases hstale : Stale d s
      · exact ⟨_, _, _, _, _, started_stale hl hin hready hn hf hstale, fun _ => aged_cap⟩
      · exact ⟨_, _, _, _, _, started_repeat hl hin hready hn hf hstale, fun _ => aged_cap⟩
  · obtain ⟨n, hn, hr⟩ : ∃ n < 3, isReady ((s.side d).cap.bufs.get n .free) = true := by simpa using hready
    obtain ⟨f, hf⟩ := code_ready hr
    exact ⟨_, _, _, _, _, started_swap hl hin hn hf, fun h => absurd h hready⟩

end

/-- Settles O50: a display frame start, held or taken. -/
theorem displayFrameStart : Obligations.DisplayFrameStart := by
  intro b s d x hr hopen hd hl
  have hexec : exec (.readBurstTaken b) s = .next (publish s (displayRead d 0 b s)) := by
    rw [HeldAddresses.exec_readBurstTaken_open hr hopen, arriveRead, hd]
  refine ⟨fun hout => ?_, fun hzero hin => ?_⟩
  · rw [hexec, displayRead, if_pos rfl, if_pos hout]
    exact congrArg Host.Outcome.next (publish_path s _ _ _)
  refine ⟨startTaken d b s, ?_, ?_⟩
  · rw [hexec, displayRead, if_pos rfl, if_neg (by rw [show (s.side d).disp.outstanding = 0 from hzero]; decide)]
    rfl
  intro y stale degraded sc degrading' late' idle' entered redirect
  obtain ⟨w0, v0, k0, e0, ms0, ⟨hcore0, hstart0⟩, hcap0⟩ := exists_started hl hin
  refine ⟨fun n hn f hf => ?_, fun hready => ?_, fun hready n hn f hf => ?_, fun hneither => ?_, hstart0.rest hcore0⟩
  · obtain ⟨hcore, hstart⟩ := started_swap hl hin hn hf
    obtain ⟨hcap, hhead, hrep, hage, hout⟩ := hstart.fields
    refine ⟨fun m hm => ?_, ?_, ?_, ?_, fun hlate => ?_, fun hearly => ?_, hstart.faults, ?_, hstart.entered⟩
    · rw [hcap, aged_cap]
      exact get_swapped hl hn hf m hm
    · rw [hrep, aged_disp]
      rfl
    · rw [hstart.viewStale, viewStale_late]
      exact isActive_clearCond ..
    · rw [hage, aged_disp]
    · have hh := hhead.trans (aged_head_late (x := swapped (s.side d)) hlate)
      exact ⟨by rw [hh], by simp only [degraded, y, hh]; rfl⟩
    · exact hhead.trans (aged_head_early (x := swapped (s.side d)) hearly)
    · rw [hout, aged_disp]
      exact congrArg (· + 1) hzero
  · obtain ⟨hcap, -⟩ := hstart0.fields
    exact (congrArg Capture.bufs hcap).trans (congrArg Capture.bufs (hcap0 hready))
  · by_cases hstale : Stale d s
    · obtain ⟨hcore, hstart⟩ := started_stale hl hin hready hn hf hstale
      obtain ⟨hcap, hhead, hrep, hage, hout⟩ := hstart.fields
      have hnot : ∀ {p : Prop}, ¬stale → p := fun h => absurd hstale h
      refine ⟨?_, ?_, fun _ => ?_, hnot, fun hlate => ?_, fun hearly => ⟨fun _ => ?_, hnot⟩, fun _ => hstart.faults, hnot, ?_,
        hstart.entered⟩
      · rw [hrep, aged_disp]
        rfl
      · rw [hage, aged_disp]
      · rw [hstart.viewStale, viewStale_late, staleFaults, viewStale_degrading]
        exact isActive_raiseCond ..
      · have hh := hhead.trans (aged_head_late (x := degradedBy 5 (repeated (s.side d))) hlate)
        exact ⟨by rw [hh], by simp only [degraded, y, hh]; rfl⟩
      · have hh := hhead.trans (aged_head_early (x := degradedBy 5 (repeated (s.side d))) hearly)
        exact ⟨by rw [hh]; rfl, by simp only [degraded, y, hh]; rfl⟩
      · rw [hout, aged_disp]
        exact congrArg (· + 1) hzero
    · obtain ⟨hcore, hstart⟩ := started_repeat hl hin hready hn hf hstale
      obtain ⟨hcap, hhead, hrep, hage, hout⟩ := hstart.fields
      have hnot : ∀ {p : Prop}, stale → p := fun h => absurd h hstale
      refine ⟨?_, ?_, hnot, fun _ => ?_, fun hlate => ?_, fun hearly => ⟨hnot, fun _ => ?_⟩, hnot, fun _ => hstart.faults, ?_,
        hstart.entered⟩
      · rw [hrep, aged_disp]
        rfl
      · rw [hage, aged_disp]
      · rw [hstart.viewStale, viewStale_late]
      · have hh := hhead.trans (aged_head_late (x := repeated (s.side d)) hlate)
        exact ⟨by rw [hh], by simp only [degraded, y, hh]; rfl⟩
      · exact hhead.trans (aged_head_early (x := repeated (s.side d)) hearly)
      · rw [hout, aged_disp]
        exact congrArg (· + 1) hzero
  · have hstage := stage_neither (d := d) (s := s) (fun n hn => (hneither n hn).1) (fun n hn => (hneither n hn).2)
    have hnone := shownBuf_none fun n hn => (hneither n hn).2
    have hcore : SameCore (s.side d) (s.side d) := ⟨rfl, rfl, rfl, rfl, rfl, rfl, rfl⟩
    have hleft : ∀ {e ms}, Started d s (s.side d) s 0 e ms (startTaken d b s) →
        y.disp.repeats = x.disp.repeats ∧ y.disp.lastAge = x.disp.lastAge ∧ y.head = x.head ∧
          (startTaken d b s).faults = (idle' s).faults ∧ y.disp.outstanding = 0 := fun hstart => by
      obtain ⟨-, hhead, hrep, hage, hout⟩ := hstart.fields
      exact ⟨hrep, hage, hhead, hstart.faults, hout.trans hzero⟩
    by_cases hfall : (s.side d).cfg.cap.fallback = 0
    · have hstart := started_zeros hstage hcore hin hnone hfall
      obtain ⟨h1, h2, h3, h4, h5⟩ := hleft hstart
      exact ⟨h1, h2, h3, h4, h5, fun _ => hstart.entered, fun h => absurd hfall h⟩
    · have hstart := started_fallback hstage hcore hin hnone hfall
      obtain ⟨h1, h2, h3, h4, h5⟩ := hleft hstart
      exact ⟨h1, h2, h3, h4, h5, fun h => absurd h hfall, fun _ => hstart.entered⟩

end Sys2Proof.Proofs.DisplayStart

/-! ## PROOFS: the write arbiter -/

namespace Sys2Proof.Proofs.Grants

open Sys2Proof Sys2Proof.Machine Sys2Proof.Safety Sys2Proof.Laws Sys2Proof.Proofs.Steps

section
variable {s t : State} {c : CurWrite}

theorem exec_grant (hr : s.inReset = false) : exec .downstreamWriteGrant s = .next (grantWaiting s) :=
  (exec_downstreamWriteGrant s).trans (act_next _ hr (grantWaiting_frame s).publish_self)

theorem grantWaiting_due (h : grantDue s = true) : grantWaiting s = grantOp s := if_pos h

/-! ### What the arbiter grants (R180) -/

theorem injectedWaits_iff : injectedWaits s.inj = true ↔ ∃ b, s.inj.inflight = some b ∧ b.granted = false := by
  rw [injectedWaits]
  cases s.inj.inflight with
  | none => simp
  | some b => simp

theorem grantOp_pass {n : Nat} (hw : passWaits s.path = true)
    (hn : injectedWaits s.inj = false ∧ n = s.path.waitCount ∨
      injectedWaits s.inj = true ∧ s.path.waitCount < 4 ∧ n = s.path.waitCount + 1) :
    grantOp s = grantPass { s with path := { s.path with waitCount := n } } := by
  rw [grantOp, if_pos hw]
  rcases hn with ⟨hi, rfl⟩ | ⟨hi, hlt, rfl⟩
  · rw [if_neg (by simp [hi])]
  · rw [if_pos hi, if_pos hlt]
    rfl

theorem grantOp_injected (hi : injectedWaits s.inj = true) (h : passWaits s.path = false ∨ 4 ≤ s.path.waitCount) :
    grantOp s = grantInjected s := by
  by_cases hw : passWaits s.path = true
  · have hfull : ¬s.path.waitCount < Config.maxWait := Nat.not_lt.mpr (h.resolve_left (by simp [hw]))
    rw [grantOp, if_pos hw, if_pos hi, if_neg hfull]
  · rw [grantOp, if_neg hw]

theorem grantPass_pass (hc : s.path.cur = some c) (hp : c.route = .pass) :
    grantPass s =
      { s with
        down := s.down ++ [.writeAddr (passBurst c.burst)]
        path := { s.path with cur := some { c with granted := true }, tail := none } } := by
  simp only [grantPass, hc, hp]
  rfl

theorem grantPass_capture {d : SideId} {a : Addr} {off : Nat} (hc : s.path.cur = some c) (hp : c.route = .capture d a off) :
    grantPass s =
      { s with
        down := s.down ++ redirectedMsgs c.burst a c.beats
        path :=
          { s.path with
            cur := none
            tail := some (.upstream c.burst.id)
            writes :=
              modifyLast (fun e =>
                { e with
                  parts := (redirected c.burst a).map DownBurst.addr
                  cut := decide (beatsBelow c.burst a ≠ c.burst.len) }) s.path.writes } } := by
  simp only [grantPass, hc, hp]
  rfl

/-! ### A capture write cut at the 4 KiB boundary (R176) -/

theorem redirected_cut (b : Burst) (a : Addr) :
    decide (beatsBelow b a ≠ b.len) = decide (1 < (redirected b a).length) := by
  simp only [redirected]
  split
  next h => simp [h]
  next h => simp [h]

theorem redirectedMsgs_whole {b : Burst} {a : Addr} {x : DownBurst} (h : redirected b a = [x]) (beats : List Beat) :
    redirectedMsgs b a beats = .writeAddr x :: dataMsgs beats := by
  simp only [redirectedMsgs, h]
  rfl

/-- The first part of a split burst has the beats below the boundary. -/
theorem redirected_first {b : Burst} {a : Addr} {x y : DownBurst} (h : redirected b a = [x, y]) :
    x.lenM1.toNat + 1 = beatsBelow b a := by
  obtain ⟨hwhole, hsplit⟩ := Bursts.beatsBelow_cases b a
  have hlen : b.len ≤ 256 := by
    have := b.lenM1.isLt
    rw [Burst.len]
    omega
  simp only [redirected] at h
  split at h
  next hk => simp at h
  next hk =>
    obtain ⟨hpos, hlt, -⟩ := hsplit (by by_contra hle; exact hk (hwhole (Nat.not_lt.mp hle)))
    obtain ⟨rfl, -⟩ := List.cons.inj h
    simp only [BitVec.toNat_ofNat]
    omega

theorem redirectedMsgs_split {b : Burst} {a : Addr} {x y : DownBurst} (h : redirected b a = [x, y]) (beats : List Beat) :
    redirectedMsgs b a beats =
      .writeAddr x :: dataMsgs (beats.take (x.lenM1.toNat + 1)) ++
        .writeAddr y :: dataMsgs (beats.drop (x.lenM1.toNat + 1)) := by
  simp only [redirectedMsgs, h, redirected_first h]

/-! ### The waiting pass-through write, once granted -/

/-- It is granted from a state with the same write channel, behind the injected burst where that goes first. -/
theorem passGranted_eq (hw : passWaits s.path = true) :
    ∃ u, passGranted s = grantPass u ∧ u.path.cur = s.path.cur := by
  have hdirect : ∀ n, grantOp s = grantPass { s with path := { s.path with waitCount := n } } →
      ∃ u, passGranted s = grantPass u ∧ u.path.cur = s.path.cur := fun n hn => by
    refine ⟨{ s with path := { s.path with waitCount := n } }, ?_, rfl⟩
    rw [passGranted, if_pos hw, hn]
    exact if_neg (by simp [passWaits_grantPass])
  by_cases hi : injectedWaits s.inj = true
  · by_cases hlt : s.path.waitCount < 4
    · exact hdirect _ (grantOp_pass hw (.inr ⟨hi, hlt, rfl⟩))
    · have hop := grantOp_injected hi (.inr (Nat.not_lt.mp hlt))
      have hcur : (grantInjected s).path.cur = s.path.cur := by simp
      have hw' : passWaits (grantInjected s).path = true := by
        rw [passWaits, hcur]
        exact hw
      have hi' : injectedWaits (grantInjected s).inj = false := by
        obtain ⟨b, hb, -⟩ := injectedWaits_iff.mp hi
        simp [grantInjected, hb, sendDown, updPath, updInj, injectedWaits]
      refine ⟨_, ?_, hcur⟩
      rw [passGranted, if_pos hw, hop]
      exact (if_pos hw').trans (grantOp_pass hw' (.inl ⟨hi', rfl⟩))
  · exact hdirect _ (grantOp_pass hw (.inl ⟨by simpa using hi, rfl⟩))

theorem cur_passGranted_pass (hc : s.path.cur = some c) (hw : passWaits s.path = true) (hp : c.route = .pass) :
    (passGranted s).path.cur = some { c with granted := true } := by
  obtain ⟨u, hu, hcur⟩ := passGranted_eq hw
  rw [hu, grantPass_pass (hcur.trans hc) hp]

theorem cur_passGranted_capture {d : SideId} {a : Addr} {off : Nat} (hc : s.path.cur = some c) (hw : passWaits s.path = true)
    (hp : c.route = .capture d a off) : (passGranted s).path.cur = none := by
  obtain ⟨u, hu, hcur⟩ := passGranted_eq hw
  rw [hu, grantPass_capture (hcur.trans hc) hp]

theorem grantAtOnce_passGranted (hw : passWaits s.path = true) : grantAtOnce (passGranted s) = false := by
  simp only [passGranted, if_pos hw]
  split
  next hw' => exact grantAtOnce_grantOp (grantDue_of_passWaits hw')
  · exact grantAtOnce_grantOp (grantDue_of_passWaits hw)

/-- An address or a beat that can be taken after the grant alone is taken after it; else it is taken, or waits, before. -/
theorem settleGrants_waiting (ready : Path → Bool) (h : grantAtOnce s = false) :
    settleGrants ready s = if !ready s.path && ready (passGranted s).path then passGranted s else s := by
  simp only [settleGrants, grantNow_idle h]

theorem settleGrants_passGranted (ready : Path → Bool) (hw : passWaits s.path = true) :
    settleGrants ready (passGranted s) = passGranted s :=
  settleGrants_idle (grantAtOnce_passGranted hw) (.inl (passWaits_passGranted s))

theorem exec_write_settled {b : Burst} (hr : s.inReset = false) (h : settleGrants writeFree s = t) :
    exec (.writeBurstTaken b) s = .next (publish s (offerWrite b t)) :=
  (exec_writeBurstTaken b s).trans (act_next _ hr (by rw [h]))

theorem exec_beat_settled {data : BitVec 64} {strb : BitVec 8} (hr : s.inReset = false) (h : settleGrants beatFree s = t) :
    exec (.writeDataBeatTaken data strb) s = .next (publish s (takeBeat ⟨data, strb⟩ t)) :=
  (exec_writeDataBeatTaken data strb s).trans (act_next _ hr (by rw [h]))

/-- An address that cannot be taken waits at the port. -/
theorem exec_write_waits {b : Burst} (hr : s.inReset = false) (h : settleGrants writeFree s = s)
    (hfree : writeFree s.path = false) : exec (.writeBurstTaken b) s = .next s := by
  rw [exec_write_settled hr h, offerWrite, if_neg (by simp [hfree]), publish_self]

/-! ### The events that follow a grant made at once (log 33) -/

theorem line0Held_congr (hs : ∀ d, t.side d = s.side d) (d : SideId) (off : Nat) : line0Held d off t = line0Held d off s := by
  simp only [line0Held, hs]

theorem decodeBurst_congr (hs : ∀ d, t.side d = s.side d) (b : Burst) : decodeBurst b t = decodeBurst b s := by
  have hl : t.left = s.left := hs .left
  have hr : t.right = s.right := hs .right
  have hwindows : windows t = windows s := by rw [windows, windows, hl, hr]
  rw [decodeBurst, decodeBurst, hwindows]

theorem heldWriteDue_grantNow : heldWriteDue (grantNow s) = heldWriteDue s := by
  have hs : ∀ d, (grantNow s).side d = s.side d := fun d => by simp
  have hheld : (grantNow s).path.heldWrite = s.path.heldWrite := by simp
  simp only [heldWriteDue, hheld, decodeBurst_congr hs, line0Held_congr hs]

/-- A burst stays in flight when it is granted, and none comes. -/
theorem inflight_grantNow : (grantNow s).inj.inflight.isNone = s.inj.inflight.isNone := by
  have hinj : ∀ u : State, (grantInjected u).inj.inflight.isNone = u.inj.inflight.isNone := fun u => by
    cases h : u.inj.inflight with
    | none => simp [grantInjected, h]
    | some b => simp [grantInjected, h, sendDown, updPath, updInj]
  rw [grantNow]
  split
  · rw [grantOp]
    split
    · split
      · split
        · simp
        · exact hinj s
      · simp
    · exact hinj s
  · rfl

theorem recordDue_grantNow : recordDue (grantNow s) = recordDue s := by
  rw [Bool.eq_iff_iff, recordDue_iff, recordDue_iff]
  simp [← Option.isNone_iff_eq_none, inflight_grantNow]

theorem sectionDue_grantNow : sectionDue (grantNow s) = sectionDue s := by
  have hflag : firstFlagged (grantNow s).inj = firstFlagged s.inj := by simp [firstFlagged]
  rw [Bool.eq_iff_iff, sectionDue_iff, sectionDue_iff, hflag]
  simp [← Option.isNone_iff_eq_none, inflight_grantNow]

/-- An event that takes effect after the grant that is made at once takes the same effect where that grant is yet to come. -/
theorem act_after_grant {due : State → Bool} {f : State → State} (hdue : due (grantNow s) = due s)
    (hr : s.inReset = false)
    (h : act (fun u => if due u then f (grantNow u) else u) (grantNow s) ≠ .next (grantNow s)) :
    act (fun u => if due u then f (grantNow u) else u) s = act (fun u => if due u then f (grantNow u) else u) (grantNow s) := by
  by_cases hd : due s = true
  · have hr' : (grantNow s).inReset = false := by simpa using hr
    rw [act_live _ hr, act_live _ hr', if_pos hd, if_pos (hdue.trans hd), grantNow_idle (grantAtOnce_grantNow s),
      (grantNow_frame s).publish]
  · exact absurd (act_none _ (if_neg (by rw [hdue]; exact hd))) h

end

end Sys2Proof.Proofs.Grants

/-! ## PROOFS: the write arbiter, settled -/

namespace Sys2Proof.Proofs.Grants

open Sys2Proof Sys2Proof.Machine Sys2Proof.Safety Sys2Proof.Laws Sys2Proof.Proofs.Steps

section
variable {s : State} {c : CurWrite}

/-- What comes after a grant made at once finds the state that this grant leaves. -/
theorem after_grantNow (hr : s.inReset = false) :
    (∀ b, exec (.writeBurstTaken b) s = exec (.writeBurstTaken b) (grantNow s)) ∧
      (∀ data strb, exec (.writeDataBeatTaken data strb) s = exec (.writeDataBeatTaken data strb) (grantNow s)) ∧
      ∀ i, i = .heldLine0WriteTaken ∨ i = .ringRecordIssue ∨ i = .sectionIssue →
        exec i (grantNow s) ≠ .next (grantNow s) → exec i s = exec i (grantNow s) := by
  have hr' : (grantNow s).inReset = false := by simpa using hr
  refine ⟨fun b => ?_, fun data strb => ?_, fun i hi hne => ?_⟩
  · rw [exec_write_settled hr (settleGrants_grantNow writeFree s).symm, exec_write_settled hr' rfl,
      (grantNow_frame s).publish]
  · rw [exec_beat_settled hr (settleGrants_grantNow beatFree s).symm, exec_beat_settled hr' rfl,
      (grantNow_frame s).publish]
  · rcases hi with rfl | rfl | rfl
    · rw [exec_heldLine0WriteTaken] at hne
      rw [exec_heldLine0WriteTaken, exec_heldLine0WriteTaken]
      exact act_after_grant heldWriteDue_grantNow hr hne
    · rw [exec_ringRecordIssue] at hne
      rw [exec_ringRecordIssue, exec_ringRecordIssue]
      exact act_after_grant recordDue_grantNow hr hne
    · rw [exec_sectionIssue] at hne
      rw [exec_sectionIssue, exec_sectionIssue]
      exact act_after_grant sectionDue_grantNow hr hne

/-- The waiting pass-through write is granted by one grant, or by the one that follows the injected burst's. -/
theorem exec_grant_passGranted (hr : s.inReset = false) (hw : passWaits s.path = true) :
    exec .downstreamWriteGrant s = .next (passGranted s) ∨
      ∃ u, exec .downstreamWriteGrant s = .next u ∧ passWaits u.path = true ∧
        exec .downstreamWriteGrant u = .next (passGranted s) := by
  have hop : exec .downstreamWriteGrant s = .next (grantOp s) := by
    rw [exec_grant hr, grantWaiting_due (grantDue_of_passWaits hw)]
  simp only [passGranted, if_pos hw]
  split
  next hw' =>
    refine .inr ⟨grantOp s, hop, hw', ?_⟩
    rw [exec_grant (by simpa using hr), grantWaiting_due (grantDue_of_passWaits hw')]
  · exact .inl hop

/-- A beat of a passed-through burst that waits for its grant is taken after it, and an address waits. -/
theorem waiting_pass (hr : s.inReset = false) (hg : grantAtOnce s = false) (hc : s.path.cur = some c)
    (hw : passWaits s.path = true) (hp : c.route = .pass) (hgranted : c.granted = false) (ht : c.taken < c.burst.len) :
    (∀ b, exec (.writeBurstTaken b) s = .next s) ∧
      ∀ data strb,
        exec (.writeDataBeatTaken data strb) s = exec (.writeDataBeatTaken data strb) (passGranted s) := by
  have hcur := cur_passGranted_pass hc hw hp
  have hclosed : writeFree s.path = false := by simp [writeFree, hc]
  have hclosed' : writeFree (passGranted s).path = false := by simp [writeFree, hcur]
  have hbeat : beatFree s.path = false := by simp [beatFree, hc, hp, hgranted]
  have hbeat' : beatFree (passGranted s).path = true := by simp [beatFree, hcur, ht]
  refine ⟨fun b => exec_write_waits hr ?_ hclosed, fun data strb => ?_⟩
  · rw [settleGrants_waiting _ hg, hclosed']
    exact if_neg (by simp)
  · have hsettled : settleGrants beatFree s = passGranted s := by
      rw [settleGrants_waiting _ hg, hbeat, hbeat']
      exact if_pos rfl
    rw [exec_beat_settled hr hsettled, exec_beat_settled (by simpa using hr) (settleGrants_passGranted _ hw),
      (passGranted_frame s).publish]

/-- An address behind a capture write that waits for its grant is taken after it where it can be, and a beat waits. -/
theorem waiting_capture {d : SideId} {a : Addr} {off : Nat} (hr : s.inReset = false) (hg : grantAtOnce s = false)
    (hc : s.path.cur = some c) (hw : passWaits s.path = true) (hp : c.route = .capture d a off)
    (ht : c.burst.len ≤ c.taken) :
    (∀ data strb, exec (.writeDataBeatTaken data strb) s = .next s) ∧
      (writeOpen (passGranted s) →
        ∀ b, exec (.writeBurstTaken b) s = exec (.writeBurstTaken b) (passGranted s)) ∧
      (¬writeOpen (passGranted s) → ∀ b, exec (.writeBurstTaken b) s = .next s) := by
  have hcur := cur_passGranted_capture hc hw hp
  have hclosed : writeFree s.path = false := by simp [writeFree, hc]
  have hbeat' : beatFree (passGranted s).path = false := by simp [beatFree, hcur]
  refine ⟨fun data strb => ?_, fun hopen b => ?_, fun hshut b => exec_write_waits hr ?_ hclosed⟩
  · have hsettled : settleGrants beatFree s = s := by
      rw [settleGrants_waiting _ hg, hbeat']
      exact if_neg (by simp)
    rw [exec_beat_settled hr hsettled, takeBeat, hc]
    simp only [if_pos ht, publish_self]
  · have hsettled : settleGrants writeFree s = passGranted s := by
      rw [settleGrants_waiting _ hg, hclosed, (writeFree_iff _).mpr hopen]
      exact if_pos rfl
    rw [exec_write_settled hr hsettled, exec_write_settled (by simpa using hr) (settleGrants_passGranted _ hw),
      (passGranted_frame s).publish]
  · rw [settleGrants_waiting _ hg]
    exact if_neg (by simp [mt (writeFree_iff _).mp hshut])

end

/-- Settles O51: the write arbiter's grants. -/
theorem writeGrant : Obligations.WriteGrant := by
  intro s hr p busy injected waits passed
  have hgrant := exec_grant hr
  have hinj : injectedWaits s.inj = true ↔ ∃ b, injected b := injectedWaits_iff
  have hpass : ∀ {c}, p.cur = some c → passWaiting c → passWaits s.path = true := fun hc h => (passWaits_of_cur hc).mpr h
  refine ⟨fun hnd => ?_, fun t ht => ?_, fun hng c hc hwaiting => ?_, fun c n hc hwaiting hn => ?_, fun b hb hfree hturn => ?_⟩
  · rw [hgrant, grantWaiting, if_neg (by simp [(noGrantDue_iff s).mp hnd])]
  · obtain rfl : grantWaiting s = t := Host.Outcome.next.inj (hgrant.symm.trans ht)
    refine ⟨fun _ => (noGrantAtOnce_iff _).mpr (grantAtOnce_grantWaiting s), fun hdue => ?_⟩
    have hnow : grantAtOnce s = true := by simpa using mt (noGrantAtOnce_iff s).mpr hdue
    rw [← grantNow_eq hnow]
    exact after_grantNow hr
  · have hw := hpass hc hwaiting
    have hg := (noGrantAtOnce_iff s).mp hng
    have hnot : ∀ {u : State}, passWaits u.path = true ↔ waits u := fun {u} => by
      rw [← not_iff_not, Bool.not_eq_true, passWaits_iff]
      simp [waits]
    refine ⟨passGranted s, ⟨fun h => ?_, ?_⟩, fun hp ht => ?_, fun hp => ?_⟩
    · exact Bool.noConfusion ((passWaits_passGranted s).symm.trans (hnot.mpr h))
    · exact (exec_grant_passGranted hr hw).imp_right fun ⟨u, hu, huw, hut⟩ => ⟨u, hu, hnot.mp huw, hut⟩
    · exact waiting_pass hr hg hc hw hp hwaiting.1 ht
    · obtain ⟨-, hroute⟩ := hwaiting
      obtain ⟨⟨d, a, off, hroute⟩, hlen, -⟩ := hroute.resolve_left hp
      exact waiting_capture hr hg hc hw hroute hlen
  · have hw := hpass hc hwaiting
    have hop : grantOp s = grantPass { s with path := { s.path with waitCount := n } } := by
      refine grantOp_pass hw (hn.imp (fun ⟨hno, hn⟩ => ⟨?_, hn⟩) fun ⟨hb, hlt, hn⟩ => ⟨hinj.mpr hb, hlt, hn⟩)
      exact Bool.eq_false_iff.mpr fun h => not_exists.mpr hno (hinj.mp h)
    rw [hgrant, grantWaiting_due (grantDue_of_passWaits hw), hop]
    refine ⟨fun hp => ?_, fun d a off hp => ⟨redirectedMsgs c.burst a c.beats, ?_, ?_, ?_⟩⟩
    · exact congrArg Host.Outcome.next (grantPass_pass (s := { s with path := { s.path with waitCount := n } }) hc hp)
    · rw [grantPass_capture (s := { s with path := { s.path with waitCount := n } }) hc hp, redirected_cut]
    · exact fun x hx => redirectedMsgs_whole hx _
    · exact fun x y hxy => redirectedMsgs_split hxy _
  · have hheld : channelsHeld s.path = false := by
      rw [channelsHeld]
      split
      next c hc => exact Bool.eq_false_iff.mpr fun h => hfree ⟨c, hc, h⟩
      · rfl
    have hi := hinj.mpr ⟨b, hb⟩
    have hdue : grantDue s = true := by simp [grantDue, hheld, hi]
    rw [hgrant, grantWaiting_due hdue, grantOp_injected hi (hturn.imp_left (passWaits_iff s).mpr), grantInjected, hb.1]
    rfl

end Sys2Proof.Proofs.Grants

/-! ## PROOFS: downstream responses -/

namespace Sys2Proof.Proofs.Responses

open Sys2Proof Sys2Proof.Machine Sys2Proof.Safety Sys2Proof.Laws Sys2Proof.Proofs.Steps

section
variable {id : BitVec 8} {s : State}

theorem decide_error (r : Resp) : decide (r = .slverr ∨ r = .decerr) = r.isError := by
  rw [Bool.eq_iff_iff, decide_eq_true_iff, isError_iff]

/-- The element of a list behind others, and the list with it replaced. -/
theorem getElem?_behind {α : Type} (pre : List α) (e : α) (post : List α) :
    (pre ++ e :: post)[pre.length]? = some e := by simp

theorem set_behind {α : Type} (pre : List α) (e e' : α) (post : List α) :
    (pre ++ e :: post).set pre.length e' = pre ++ e' :: post := by simp

/-! ### Where a write response arrives (R178, R179) -/

theorem writeTarget_none_iff (ws : List WEntry) : writeTarget id ws = none ↔ ∀ e ∈ ws, e.id = id → e.parts = [] := by
  rw [writeTarget, List.findIdx?_eq_none_iff]
  simp

theorem writeTarget_found {pre post : List WEntry} {e : WEntry} (hpre : ∀ x ∈ pre, x.id = id → x.parts = [])
    (hid : e.id = id) (hparts : e.parts ≠ []) : writeTarget id (pre ++ e :: post) = some pre.length :=
  findIdx_append _ pre e post (fun x hx => by simpa using hpre x hx) (by simp [hid, hparts])

/-- The entry with the response of its first part not yet answered. -/
theorem take_eq {e : WEntry} {a : Addr} {rest : List Addr} {r : Resp} {err : Option Resp} (hparts : e.parts = a :: rest)
    (hfresh : (r = .slverr ∨ r = .decerr) ∧ e.err = none → err = some r)
    (hkept : ¬((r = .slverr ∨ r = .decerr) ∧ e.err = none) → err = e.err) :
    e.take r =
      { e with
        parts := rest
        err := err
        ready :=
          if rest = [] then some (err.getD (if e.cut then .okay else r)) else none } := by
  have herr : firstError e.err r = err := by
    cases he : e.err with
    | some x => exact he.symm.trans (hkept fun h => by simp [he] at h).symm
    | none =>
      by_cases hr : r.isError = true
      · exact (if_pos hr).trans (hfresh ⟨(isError_iff r).mp hr, he⟩).symm
      · exact (if_neg hr).trans (he.symm.trans (hkept fun h => hr ((isError_iff r).mpr h.1)).symm)
  simp only [WEntry.take, herr, hparts, List.tail_cons, List.isEmpty_iff]

theorem sentWhole_found {ws : List WEntry} {tail : Option Sender}
    (hset : s.path.tail = some (.upstream id) ∧ (∀ x ∈ ws, x.id = id → x.parts = []) → tail = none)
    (hkeep : ¬(s.path.tail = some (.upstream id) ∧ ∀ x ∈ ws, x.id = id → x.parts = []) → tail = s.path.tail) :
    sentWhole id { s with path := { s.path with writes := ws } } =
      { s with path := { s.path with writes := ws, tail := tail } } := by
  rw [sentWhole]
  split
  next h => rw [hset (h.imp_right (writeTarget_none_iff ws).mp)]; rfl
  next h => rw [hkeep (mt (And.imp_right (writeTarget_none_iff ws).mpr) h)]

/-! ### What the capture tracker does with it (R11, R13) -/

theorem captureAnswered_event {d : SideId} {live : Bool} {e : WEntry} {a : Addr} {rest : List Addr} {r : Resp}
    {t t1 : State} (hparts : e.parts = a :: rest)
    (hfresh : (r = .slverr ∨ r = .decerr) ∧ e.err = none → t1 = raiseEvent .downstreamError .global a t)
    (hkept : ¬((r = .slverr ∨ r = .decerr) ∧ e.err = none) → t1 = t) :
    captureAnswered d live e r t = if live then frameAnswered d r.isError rest.isEmpty t1 else t1 := by
  have hnoted : (if r.isError && e.err.isNone then raiseEvent .downstreamError .global a t else t) = t1 := by
    split
    next h =>
      rw [Bool.and_eq_true, isError_iff, Option.isNone_iff_eq_none] at h
      exact (hfresh h).symm
    next h =>
      rw [Bool.and_eq_true, isError_iff, Option.isNone_iff_eq_none] at h
      exact (hkept h).symm
  simp only [captureAnswered, hparts, List.tail_cons, List.headD_cons, hnoted]

/-- A frame is told of an answer. -/
def told (d : SideId) (r : Resp) (n : Nat) (t : State) : State :=
  updSide d (fun x =>
    { x with
      cap :=
        { x.cap with
          fip := x.cap.fip.map fun f =>
            { f with
              writeError := f.writeError || decide (r = .slverr ∨ r = .decerr), outstanding := f.outstanding - n } } }) t

theorem frameAnswered_part {d : SideId} {r : Resp} {t : State} :
    frameAnswered d r.isError false t = told d r 0 t := by
  simp only [frameAnswered, told, decide_error]
  rfl

theorem frameAnswered_whole {d : SideId} {r : Resp} {t : State} :
    frameAnswered d r.isError true t = tryComplete d (told d r 1 t) := by
  simp only [frameAnswered, told, decide_error]
  rfl

end

/-- Settles O52: a downstream write response. -/
theorem writeResponse : Obligations.WriteResponse := by
  intro id r s hr
  have hexec : exec (.downstreamWriteResponse id r) s = .next (publish s (writeResponseOp id r s)) :=
    (exec_downstreamWriteResponse id r s).trans (act_live _ hr)
  refine ⟨fun hnone => ?_, fun pre e post a rest hws hpre hid hparts => ?_⟩
  · rw [hexec, writeResponseOp, (writeTarget_none_iff _).mpr hnone]
    exact congrArg Host.Outcome.next (publish_self s)
  intro error fresh err herr hkeep answer e' whole tail htail hkeepTail t
  have htarget : writeTarget id s.path.writes = some pre.length := by
    rw [hws]
    exact writeTarget_found hpre hid (by rw [hparts]; exact List.cons_ne_nil _ _)
  have hget : s.path.writes[pre.length]? = some e := by rw [hws]; exact getElem?_behind pre e post
  have hstate : releaseWrites (sentWhole id (updPath (fun p => { p with writes := p.writes.set pre.length (e.take r) }) s)) =
      t := by
    have hset : s.path.writes.set pre.length (e.take r) = pre ++ e' :: post := by
      have hanswer : answer = err.getD (if e.cut then .okay else r) := by
        simp only [answer]
        split
        · rfl
        · rfl
      rw [hws, set_behind, take_eq hparts herr hkeep, ← hanswer]
    simp only [updPath, hset]
    exact congrArg releaseWrites (sentWhole_found htail hkeepTail)
  have hop : writeResponseOp id r s =
      match e.owner with
      | .pass => t
      | .part => t
      | .capture d live => captureAnswered d live e r t := by
    simp only [writeResponseOp, htarget, hget, hstate] <;> rfl
  rw [hexec, hop]
  refine ⟨fun hown => ?_, fun d live hown t1 ht1 hsame => ?_⟩
  · have hplain : publish s t = t := publish_path s _ _ _
    rcases hown with hown | hown
    · rw [hown]
      exact congrArg Host.Outcome.next hplain
    · rw [hown]
      exact congrArg Host.Outcome.next hplain
  · rw [hown]
    simp only [captureAnswered_event hparts ht1 hsame]
    refine ⟨fun hlive => ?_, fun hlive => ?_⟩
    · rw [hlive]
      rfl
    · rw [hlive]
      refine ⟨fun hrest => ?_, fun hrest => ?_⟩
      · rw [List.isEmpty_eq_false_iff.mpr hrest, if_pos rfl, frameAnswered_part]
        rfl
      · rw [List.isEmpty_iff.mpr hrest, if_pos rfl, frameAnswered_whole]
        rfl

end Sys2Proof.Proofs.Responses

/-! ## PROOFS: downstream read data -/

namespace Sys2Proof.Proofs.Responses

open Sys2Proof Sys2Proof.Machine Sys2Proof.Safety Sys2Proof.Laws Sys2Proof.Proofs.Steps

section
variable {id : BitVec 8} {s : State} {e : REntry} {r : Resp} {data : BitVec 64}

/-! ### Where a read beat arrives (R178, R179) -/

theorem readTarget_none_iff (rs : List REntry) : readTarget id rs = none ↔ ∀ e ∈ rs, e.id = id → e.total ≤ e.got := by
  rw [readTarget, List.findIdx?_eq_none_iff]
  simp [REntry.complete]

theorem readTarget_found {pre post : List REntry} (hpre : ∀ x ∈ pre, x.id = id → x.total ≤ x.got) (hid : e.id = id)
    (hgot : e.got < e.total) : readTarget id (pre ++ e :: post) = some pre.length :=
  findIdx_append _ pre e post (fun x hx => by simpa [REntry.complete] using hpre x hx)
    (by simp [hid, REntry.complete, hgot])

theorem takeBeat_eq (hgot : e.got < e.total) :
    e.take data r =
      { e with
        got := e.got + 1
        errored := e.errored || decide (r = .slverr ∨ r = .decerr)
        kept := e.kept ++ [⟨data, r, decide (e.got + 1 = e.total)⟩] } := by
  have hlast : decide (e.total ≤ e.got + 1) = decide (e.got + 1 = e.total) := decide_eq_decide.mpr (by omega)
  rw [REntry.take, hlast, decide_error]

/-- An error beat of a redirected read, the first one of its burst, is reported (R12, R86). -/
theorem readError_redirected {t t1 : State} (hown : e.owner ≠ .pass ∧ e.owner ≠ .part)
    (hfresh : (r = .slverr ∨ r = .decerr) ∧ e.errored = false →
      t1 = raiseEvent .downstreamError .global (if e.got < e.beats1 then e.addr1 else e.addr2) t)
    (hkept : ¬((r = .slverr ∨ r = .decerr) ∧ e.errored = false) → t1 = t) : readError e r t = t1 := by
  have hnoted : (if r.isError && !e.errored then raiseEvent .downstreamError .global e.partAddr t else t) = t1 := by
    split
    next h =>
      rw [Bool.and_eq_true, isError_iff, Bool.not_eq_true'] at h
      exact (hfresh h).symm
    next h =>
      rw [Bool.and_eq_true, isError_iff, Bool.not_eq_true'] at h
      exact (hkept h).symm
  rw [readError]
  split
  next ho => exact absurd ho hown.1
  next ho => exact absurd ho hown.2
  · exact hnoted
  · exact hnoted

end

/-- Settles O53: a downstream read beat. -/
theorem readData : Obligations.ReadData := by
  intro id data r s hr
  have hexec : exec (.downstreamReadData id data r) s = .next (publish s (readDataOp id data r s)) :=
    (exec_downstreamReadData id data r s).trans (act_live _ hr)
  refine ⟨fun hnone => ?_, fun pre e post hrs hpre hid hgot => ?_⟩
  · rw [hexec, readDataOp, (readTarget_none_iff _).mpr hnone]
    exact congrArg Host.Outcome.next (publish_self s)
  intro error last e' t
  have htarget : readTarget id s.path.reads = some pre.length := by
    rw [hrs]
    exact readTarget_found hpre hid hgot
  have hget : s.path.reads[pre.length]? = some e := by rw [hrs]; exact getElem?_behind pre e post
  have hset : s.path.reads.set pre.length (e.take data r) = pre ++ e' :: post := by
    rw [hrs, set_behind, takeBeat_eq hgot]
  have hop : readDataOp id data r s = readDone e (readError e r t) := by
    simp only [readDataOp, htarget, hget, updPath, hset]
    rfl
  rw [hexec, hop]
  refine ⟨fun hown => ?_, fun t1 ht1 hsame => ⟨fun d hown => ?_, fun d hown => ⟨fun hmore => ?_, fun hlast => ?_⟩⟩⟩
  · have hplain : publish s t = t := publish_path s _ _ _
    rcases hown with hown | hown
    · simp only [readError, readDone, hown, hplain]
    · simp only [readError, readDone, hown, hplain]
  · rcases hown with hown | hown
    · rw [readError_redirected (by simp [hown]) ht1 hsame, readDone, hown]
    · rw [readError_redirected (by simp [hown]) ht1 hsame, readDone, hown]
  · have hnot : ¬e.total ≤ e.got + 1 := fun h => hmore (by simp only [last]; omega)
    rw [readError_redirected (by simp [hown]) ht1 hsame, readDone, hown]
    simp only [if_neg hnot]
  · have hall : e.total ≤ e.got + 1 := le_of_eq hlast.symm
    rw [readError_redirected (by simp [hown]) ht1 hsame, readDone, hown]
    simp only [if_pos hall]
    rfl

end Sys2Proof.Proofs.Responses

/-! ## PROOFS: what goes upstream -/

namespace Sys2Proof.Proofs.ResponseOrder

open Sys2Proof Sys2Proof.Machine Sys2Proof.Safety Sys2Proof.Laws Sys2Proof.Proofs.Steps

/-- A message upstream is of an ID. -/
def isOf (id : BitVec 8) : UpMsg → Bool
  | .writeResp i _ => i == id
  | .readData i _ => i == id

section
variable {id : BitVec 8}

/-! ### Write responses (R178) -/

/-- Of an ID behind which the drain waits nothing goes. -/
theorem drainWrites_blocked (ws : List WEntry) : ∀ blocked : List (BitVec 8), id ∈ blocked →
    (drainWrites ws blocked).2.filter (fun e => e.id == id) = ws.filter (fun e => e.id == id) ∧
      (drainWrites ws blocked).1.filter (isOf id) = [] := by
  induction ws with
  | nil => exact fun _ _ => ⟨rfl, rfl⟩
  | cons e rest ih =>
    intro blocked hb
    cases hr : e.ready with
    | none =>
      obtain ⟨hleft, hms⟩ := ih (e.id :: blocked) (List.mem_cons_of_mem _ hb)
      simp only [drainWrites, hr]
      exact ⟨by rw [List.filter_cons, List.filter_cons, hleft], hms⟩
    | some r =>
      obtain ⟨hleft, hms⟩ := ih blocked hb
      by_cases hc : blocked.contains e.id = true
      · simp only [drainWrites, hr, if_pos hc]
        exact ⟨by rw [List.filter_cons, List.filter_cons, hleft], hms⟩
      · have hne : ¬(e.id == id) = true := fun h => by
          rw [beq_iff_eq] at h
          exact hc (by simpa [h] using hb)
        simp only [drainWrites, hr, if_neg hc]
        refine ⟨by rw [List.filter_cons, if_neg hne]; exact hleft, ?_⟩
        rw [List.filter_cons, show isOf id (.writeResp e.id r) = false by simpa [isOf] using hne]
        exact hms

/-- Of an ID the responses that go and the entries they leave. -/
def WritesReleased (id : BitVec 8) (ws : List WEntry) (z : List UpMsg × List WEntry) : Prop :=
  ∃ gone : List (WEntry × Resp),
    ws.filter (fun e => e.id == id) = gone.map Prod.fst ++ z.2.filter (fun e => e.id == id) ∧
    (∀ g ∈ gone, g.1.ready = some g.2) ∧
    z.1.filter (isOf id) = gone.map (fun g => .writeResp id g.2) ∧
    ∀ e, (z.2.filter (fun e => e.id == id)).head? = some e → e.ready = none

/-- An entry of another ID that stays, or goes, changes nothing of the ID. -/
theorem WritesReleased.cons_other {ws left : List WEntry} {ms : List UpMsg} {e : WEntry} (h : WritesReleased id ws (ms, left))
    (hne : (e.id == id) = false) : WritesReleased id (e :: ws) (ms, e :: left) ∧
      ∀ r, WritesReleased id (e :: ws) (.writeResp e.id r :: ms, left) := by
  obtain ⟨gone, hfilter, hready, hms, hhead⟩ := h
  have hskip : ∀ l : List WEntry, (e :: l).filter (fun e => e.id == id) = l.filter (fun e => e.id == id) := fun l => by
    rw [List.filter_cons, hne]
    rfl
  refine ⟨⟨gone, ?_, hready, hms, ?_⟩, fun r => ⟨gone, ?_, hready, ?_, hhead⟩⟩
  · rw [hskip, hskip]
    exact hfilter
  · rw [hskip]
    exact hhead
  · rw [hskip]
    exact hfilter
  · rw [List.filter_cons, show isOf id (.writeResp e.id r) = false from hne]
    exact hms

theorem drainWrites_released (ws : List WEntry) : ∀ blocked : List (BitVec 8), id ∉ blocked →
    WritesReleased id ws (drainWrites ws blocked) := by
  induction ws with
  | nil => exact fun _ _ => ⟨[], rfl, by simp, rfl, by simp [drainWrites]⟩
  | cons e rest ih =>
    intro blocked hb
    by_cases hid : e.id = id
    · have hc : ¬blocked.contains e.id = true := by simpa [hid] using hb
      have htake : ∀ l : List WEntry, (e :: l).filter (fun e => e.id == id) = e :: l.filter (fun e => e.id == id) :=
        fun l => by rw [List.filter_cons, hid, beq_self_eq_true, if_pos rfl]
      cases hr : e.ready with
      | none =>
        obtain ⟨hleft, hms⟩ := drainWrites_blocked (id := id) rest (e.id :: blocked) (by simp [hid])
        simp only [drainWrites, hr]
        refine ⟨[], ?_, by simp, hms, fun e' he' => ?_⟩
        · rw [htake, htake, hleft]
          rfl
        · rw [htake] at he'
          rw [← Option.some.inj he']
          exact hr
      | some r =>
        obtain ⟨gone, hfilter, hready, hms, hhead⟩ := ih blocked hb
        simp only [drainWrites, hr, if_neg hc]
        refine ⟨(e, r) :: gone, ?_, ?_, ?_, hhead⟩
        · rw [htake, hfilter]
          rfl
        · exact List.forall_mem_cons.mpr ⟨hr, hready⟩
        · rw [List.filter_cons, show isOf id (.writeResp e.id r) = true by simp [isOf, hid], hms, hid]
          rfl
    · have hne : (e.id == id) = false := by simpa using hid
      cases hr : e.ready with
      | none =>
        simp only [drainWrites, hr]
        exact ((ih (e.id :: blocked) (by simpa using ⟨fun h => hid h.symm, hb⟩)).cons_other hne).1
      | some r =>
        simp only [drainWrites, hr]
        split
        · exact ((ih blocked hb).cons_other hne).1
        · exact ((ih blocked hb).cons_other hne).2 r

/-! ### Read beats (R178) -/

theorem beats_filter (e : REntry) (l : List RBeat) :
    (l.map fun b => UpMsg.readData e.id b).filter (isOf id) =
      if e.id = id then l.map (.readData id) else [] := by
  split
  next h => rw [h, List.filter_eq_self.mpr (by simp [isOf])]
  next h => rw [List.filter_eq_nil_iff.mpr (by simp [isOf, h])]

theorem drainReads_blocked (rs : List REntry) : ∀ blocked : List (BitVec 8), id ∈ blocked →
    (drainReads rs blocked).2.filter (fun e => e.id == id) = rs.filter (fun e => e.id == id) ∧
      (drainReads rs blocked).1.filter (isOf id) = [] := by
  induction rs with
  | nil => exact fun _ _ => ⟨rfl, rfl⟩
  | cons e rest ih =>
    intro blocked hb
    by_cases hc : blocked.contains e.id = true
    · obtain ⟨hleft, hms⟩ := ih blocked hb
      simp only [drainReads, if_pos hc]
      exact ⟨by rw [List.filter_cons, List.filter_cons, hleft], hms⟩
    · have hid : ¬e.id = id := fun h => hc (by simpa [h] using hb)
      have hne : (e.id == id) = false := by simpa using hid
      have hnone := beats_filter (id := id) e e.kept
      rw [if_neg hid] at hnone
      simp only [drainReads, if_neg hc]
      split
      · obtain ⟨hleft, hms⟩ := ih blocked hb
        exact ⟨by rw [List.filter_cons, hne]; exact hleft, by rw [List.filter_append, hnone]; exact hms⟩
      · obtain ⟨hleft, hms⟩ := ih (e.id :: blocked) (List.mem_cons_of_mem _ hb)
        refine ⟨?_, by rw [List.filter_append, hnone]; exact hms⟩
        rw [List.filter_cons, List.filter_cons, hne]
        exact hleft

/-- Of an ID the beats that go and the entries they leave. -/
def ReadsReleased (id : BitVec 8) (rs : List REntry) (z : List UpMsg × List REntry) : Prop :=
  ∃ gone rest : List REntry,
    rs.filter (fun e => e.id == id) = gone ++ rest ∧ (∀ e ∈ gone, e.total ≤ e.got) ∧
    (∀ e, rest.head? = some e → e.got < e.total) ∧
    z.2.filter (fun e => e.id == id) = (rest.take 1).map (fun e => { e with kept := [] }) ++ rest.drop 1 ∧
    z.1.filter (isOf id) = (gone ++ rest.take 1).flatMap (fun e => e.kept.map (.readData id))

theorem drainReads_released (rs : List REntry) : ∀ blocked : List (BitVec 8), id ∉ blocked →
    ReadsReleased id rs (drainReads rs blocked) := by
  induction rs with
  | nil => exact fun _ _ => ⟨[], [], rfl, by simp, by simp, rfl, rfl⟩
  | cons e tail ih =>
    intro blocked hb
    by_cases hid : e.id = id
    · have hc : ¬blocked.contains e.id = true := by simpa [hid] using hb
      have htake : ∀ (e' : REntry) (l : List REntry), e'.id = id →
          (e' :: l).filter (fun e => e.id == id) = e' :: l.filter (fun e => e.id == id) :=
        fun e' l h => by rw [List.filter_cons, h, beq_self_eq_true, if_pos rfl]
      have hout := beats_filter (id := id) e e.kept
      rw [if_pos hid] at hout
      simp only [drainReads, if_neg hc]
      split
      next hcomplete =>
        obtain ⟨gone, rest, hfilter, hgone, hhead, hleft, hms⟩ := ih blocked hb
        refine ⟨e :: gone, rest, by rw [htake e _ hid, hfilter]; rfl, List.forall_mem_cons.mpr ⟨?_, hgone⟩, hhead, hleft, ?_⟩
        · simpa [REntry.complete] using hcomplete
        · rw [List.filter_append, hout, hms]
          rfl
      next hopen =>
        obtain ⟨hleft, hms⟩ := drainReads_blocked (id := id) tail (e.id :: blocked) (by simp [hid])
        refine ⟨[], e :: tail.filter (fun e => e.id == id), htake e _ hid, by simp, fun e' he' => ?_, ?_, ?_⟩
        · rw [← Option.some.inj he']
          simpa [REntry.complete] using hopen
        · rw [htake { e with kept := [] } _ hid, hleft]
          rfl
        · rw [List.filter_append, hout, hms]
          simp
    · have hne : (e.id == id) = false := by simpa using hid
      have hskip : ∀ (e' : REntry) (l : List REntry), (e'.id == id) = false →
          (e' :: l).filter (fun e => e.id == id) = l.filter (fun e => e.id == id) :=
        fun e' l h => by rw [List.filter_cons, h]; rfl
      have hout := beats_filter (id := id) e e.kept
      rw [if_neg hid] at hout
      have hb' : id ∉ e.id :: blocked := by simpa using ⟨fun h => hid h.symm, hb⟩
      simp only [drainReads]
      split
      · obtain ⟨gone, rest, hfilter, hgone, hhead, hleft, hms⟩ := ih blocked hb
        exact ⟨gone, rest, by rw [hskip e _ hne]; exact hfilter, hgone, hhead, by rw [hskip e _ hne]; exact hleft, hms⟩
      · split
        · obtain ⟨gone, rest, hfilter, hgone, hhead, hleft, hms⟩ := ih blocked hb
          exact ⟨gone, rest, by rw [hskip e _ hne]; exact hfilter, hgone, hhead, hleft,
            by rw [List.filter_append, hout]; exact hms⟩
        · obtain ⟨gone, rest, hfilter, hgone, hhead, hleft, hms⟩ := ih (e.id :: blocked) hb'
          exact ⟨gone, rest, by rw [hskip e _ hne]; exact hfilter, hgone, hhead,
            by rw [hskip { e with kept := [] } _ hne]; exact hleft, by rw [List.filter_append, hout]; exact hms⟩

end

/-- Settles O54: what goes upstream, ID by ID. -/
theorem responseOrder : Obligations.ResponseOrder := fun s =>
  ⟨⟨_, _, rfl, fun _ => drainWrites_released s.path.writes [] List.not_mem_nil⟩,
    ⟨_, _, rfl, fun _ => drainReads_released s.path.reads [] List.not_mem_nil⟩⟩

end Sys2Proof.Proofs.ResponseOrder

/-! ## PROOFS: what the exposure unit and the cab state look at -/

namespace Sys2Proof.Proofs.HandOff

open Sys2Proof Sys2Proof.Machine Sys2Proof.Safety Sys2Proof.Laws Sys2Proof.Proofs.Steps

section
variable {d : SideId} {s t : State} {r : Stats}

/-! ### The exposure unit (R53 to R57) -/

/-- What the exposure unit of a side looks at is the same in two states. -/
def SameExposure (d : SideId) (s t : State) : Prop :=
  (∀ e, (t.side e).cfg = (s.side e).cfg) ∧ (t.side d).expo = (s.side d).expo ∧
    (t.side d).inService = (s.side d).inService ∧ t.link = s.link ∧ t.snoop = s.snoop ∧ t.refNow = s.refNow

theorem SameExposure.upd (f : Exposure → Exposure) (h : SameExposure d s t) :
    SameExposure d (updExpo d f s) (updExpo d f t) := by
  obtain ⟨hcfg, hexpo, hserv, hlink, hsnoop, hnow⟩ := h
  refine ⟨fun e => ?_, by simp [hexpo], by simpa [Side.inService] using hserv, by simpa using hlink, by simpa using hsnoop,
    by simpa [State.refNow] using hnow⟩
  have hl := hcfg .left
  have hr := hcfg .right
  cases d <;> cases e <;> assumption

/-- The link after an attempt begins is formed from the link, the settings and the time. -/
theorem link_startNext (hcfg : ∀ e, (t.side e).cfg = (s.side e).cfg) (hlink : t.link = s.link) (hsnoop : t.snoop = s.snoop)
    (hnow : t.refNow = s.refNow) : (startNext t).link = (startNext s).link := by
  cases hi : s.link.inFlight with
  | some e =>
    rw [LinkLine.startNext_again hi, LinkLine.startNext_again (by rw [hlink]; exact hi)]
    simp only [hlink, hsnoop, hnow, hcfg]
  | none =>
    cases hw : s.link.waiting with
    | cons e rest =>
      rw [LinkLine.startNext_first hi hw, LinkLine.startNext_first (by rw [hlink]; exact hi) (by rw [hlink]; exact hw)]
      simp only [hlink, hsnoop, hnow, hcfg]
    | nil =>
      rw [LinkLine.startNext_none hi hw, LinkLine.startNext_none (by rw [hlink]; exact hi) (by rw [hlink]; exact hw)]
      simp only [hlink]

theorem link_enqueueEntry (e : LinkEntry) (hcfg : ∀ e, (t.side e).cfg = (s.side e).cfg) (hlink : t.link = s.link)
    (hsnoop : t.snoop = s.snoop) (hnow : t.refNow = s.refNow) : (enqueueEntry e t).link = (enqueueEntry e s).link := by
  simp only [enqueueEntry, hlink]
  split
  · exact link_startNext (fun e => by simpa using hcfg e) (by simp [updLink, hlink]) (by simpa using hsnoop)
      (by simpa [State.refNow] using hnow)
  · simp [updLink, hlink]

theorem side_queueExposure (v : Nat) (e : SideId) :
    (queueExposure d v s).side e = (updExpo d (fun e => { e with request := true }) s).side e := by
  simp [queueExposure]

/-- The results of the exposure unit in two states in which it looks at the same. -/
def SameResult (d : SideId) (s t : State) : Prop := (t.side d).expo = (s.side d).expo ∧ t.link = s.link

theorem SameExposure.result (h : SameExposure d s t) : SameResult d s t := by
  obtain ⟨-, hexpo, -, hlink, -⟩ := h
  exact ⟨hexpo, hlink⟩

theorem SameExposure.queue (v : Nat) (h : SameExposure d s t) :
    SameResult d (queueExposure d v s) (queueExposure d v t) := by
  obtain ⟨hcfg, hexpo, hserv, hlink, hsnoop, hnow⟩ := h.upd (fun e => { e with request := true })
  obtain ⟨hcfg0, -⟩ := h
  refine ⟨by rw [side_queueExposure, side_queueExposure]; exact hexpo, ?_⟩
  simp only [queueExposure, hcfg0]
  exact link_enqueueEntry _ hcfg hlink hsnoop hnow

/-- The exposure unit takes a completion alike in two states in which it looks at the same. -/
theorem exposureCompletion_congr (r : Stats) (h : SameExposure d s t) :
    SameResult d (exposureCompletion d r s) (exposureCompletion d r t) := by
  have hm := h.upd (fun e => { e with m16 := meanOctave r })
  obtain ⟨hcfg, hexpo, hserv, -⟩ := id hm
  simp only [exposureCompletion, hcfg, hexpo, hserv]
  split
  · simp only [exposureActs, hexpo]
    split
    · exact (hm.upd _).result
    · simp only [exposureStep, hcfg, hexpo]
      split
      · exact hm.queue _
      · exact hm.result
  · have hheld := hm.upd (fun e => { e with aeHeld := satAdd Config.max32 e.aeHeld 1 })
    split
    · exact hheld.queue _
    · exact hheld.result

/-- The exposure unit changes its own fields alone, and of them neither the confirmed exposure nor the measured octave. -/
def ExposureMoved (d : SideId) (s t : State) : Prop :=
  t.side d = { s.side d with expo := (t.side d).expo } ∧ t.side d.other = s.side d.other ∧
    (t.side d).expo.confirmed = (s.side d).expo.confirmed ∧ (t.side d).expo.m16 = (s.side d).expo.m16

theorem ExposureMoved.upd {f : Exposure → Exposure} (hc : ∀ e, (f e).confirmed = e.confirmed)
    (hm : ∀ e, (f e).m16 = e.m16) (h : ExposureMoved d s t) : ExposureMoved d s (updExpo d f t) := by
  obtain ⟨hside, hother, hconf, hm16⟩ := h
  refine ⟨?_, by simpa using hother, by simp [hc, hconf], by simp [hm, hm16]⟩
  simp only [side_updExpo]
  rw [hside]

theorem ExposureMoved.queue (v : Nat) (h : ExposureMoved d s t) : ExposureMoved d s (queueExposure d v t) := by
  have hupd := h.upd (f := fun e => { e with request := true }) (fun _ => rfl) fun _ => rfl
  rw [ExposureMoved, side_queueExposure, side_queueExposure]
  exact hupd

theorem exposureCompletion_moves (r : Stats) :
    ExposureMoved d (updExpo d (fun e => { e with m16 := meanOctave r }) s) (exposureCompletion d r s) := by
  have hstart : ExposureMoved d (updExpo d (fun e => { e with m16 := meanOctave r }) s)
      (updExpo d (fun e => { e with m16 := meanOctave r }) s) := ⟨rfl, rfl, rfl, rfl⟩
  simp only [exposureCompletion, exposureActs, exposureStep]
  split
  · split
    · exact hstart.upd (fun _ => rfl) fun _ => rfl
    · split
      · exact hstart.queue _
      · exact hstart
  · have hheld := hstart.upd (f := fun e => { e with aeHeld := satAdd Config.max32 e.aeHeld 1 }) (fun _ => rfl) fun _ => rfl
    split
    · exact hheld.queue _
    · exact hheld

theorem exposureCompletion_side (r : Stats) :
    (exposureCompletion d r s).side d = { s.side d with expo := ((exposureCompletion d r s).side d).expo } ∧
      (exposureCompletion d r s).side d.other = s.side d.other ∧
      ((exposureCompletion d r s).side d).expo.confirmed = (s.side d).expo.confirmed ∧
      ((exposureCompletion d r s).side d).expo.m16 = meanOctave r := by
  obtain ⟨hside, hother, hconf, hm⟩ := exposureCompletion_moves (d := d) (s := s) r
  refine ⟨?_, by simpa using hother, by simpa using hconf, by simpa using hm⟩
  rw [side_updExpo] at hside
  exact hside

/-! ### The cab state (R80, R103) -/

/-- What the cab state and the targets are formed from is the same in two states. -/
def SameCab (s t : State) : Prop :=
  (∀ e, (t.side e).head = (s.side e).head ∧ (t.side e).scene = (s.side e).scene) ∧ t.cab = s.cab ∧
    t.backlight = s.backlight ∧ t.snoop = s.snoop

theorem reformTarget_congr (e : SideId) (h : SameCab s t) : SameCab (reformTarget e s) (reformTarget e t) := by
  obtain ⟨hside, hcab, hback, hsnoop⟩ := h
  have htarget : targetOf t e = targetOf s e := by simp only [targetOf, (hside e).1, hcab, hsnoop]
  have hmonitor : t.monitor e = s.monitor e := by simp only [State.monitor, hback]
  refine ⟨fun e' => by simpa using hside e', by simpa using hcab, ?_, by simpa using hsnoop⟩
  simp only [reformTarget, htarget, hmonitor]
  split
  · exact hback
  · cases e <;> simp [updMonitor, flagPage, hback]

theorem reformCab_congr (h : SameCab s t) : SameCab (reformCab s) (reformCab t) := by
  obtain ⟨hside, hcab, hback, hsnoop⟩ := id h
  have hof : cabOf t = cabOf s := by
    have hl := hside .left
    have hr := hside .right
    simp only [State.side] at hl hr
    have hleft : t.left.inService = s.left.inService := by rw [Side.inService, Side.inService, hl.1]
    have hright : t.right.inService = s.right.inService := by rw [Side.inService, Side.inService, hr.1]
    simp only [cabOf, hleft, hright, hl.2, hr.2, hcab]
  simp only [reformCab, hof, hcab]
  split
  · exact h
  · refine reformTarget_congr .right (reformTarget_congr .left ⟨fun e => ?_, rfl, by simpa using hback, by simpa using hsnoop⟩)
    cases e with
    | left => exact hside .left
    | right => exact hside .right

/-! ### Cancellation (R144) -/

theorem link_handAll (es : List LinkEntry) : ∀ s t : State, t.link = s.link → (handAll es t).link = (handAll es s).link := by
  induction es with
  | nil => exact fun _ _ h => h
  | cons e rest ih =>
    intro s t h
    refine ih _ _ ?_
    rw [handCancelled, handCancelled]
    cases e.kind with
    | probe => exact h
    | exposure => simpa using h
    | mailbox slot tag => simp [setResult, updLink, h]

theorem link_cancelSide (hl : t.link = s.link) (hn : t.refNow = s.refNow) :
    (cancelSide d t).link = (cancelSide d s).link := by
  simp only [cancelSide, hl, State.refSince, hn]
  refine link_handAll _ _ _ ?_
  split
  · simp [updLink, hl]
  · simp [updLink, hl]

end

end Sys2Proof.Proofs.HandOff

/-! ## PROOFS: an accepted frame up to the freeze check -/

namespace Sys2Proof.Proofs.Frames

open Sys2Proof Sys2Proof.Machine Sys2Proof.Safety Sys2Proof.Laws Sys2Proof.Proofs.Steps Sys2Proof.Proofs.HandOff
open Sys2Proof.Proofs.DisplayStart (Stage Serving degrading degradedBy)

/-! ### The statistics hand-off (R15 step 4, R42) -/

/-- A side after the hand-off of record `r`, with the lamp state and the exposure unit as they come out. -/
def handedSide (r : Stats) (lampOn : Bool) (e : Exposure) (x : Side) : Side :=
  { x with
    coll := { x.coll with acc := none, last := some r }
    tone := toneUpdate x.cfg.tone x.tone r
    tiles := glareUpdate x.cfg.glare x.tiles r
    expo := e
    scene := sceneUpdate x.cfg.scene lampOn x.expo.confirmed r x.scene }

section
variable {d : SideId} {s t : State} {r : Stats}

/-- The cab state and the backlight after a completion: re-formed where the side's scene has changed (R80). -/
def CabFormed (d : SideId) (s t : State) : Prop :=
  ((t.side d).scene.state ≠ (s.side d).scene.state →
      t.cab = (reformCab (updSide d (fun x => { x with scene := (t.side d).scene }) s)).cab ∧
        t.backlight = (reformCab (updSide d (fun x => { x with scene := (t.side d).scene }) s)).backlight) ∧
    ((t.side d).scene.state = (s.side d).scene.state → t.cab = s.cab ∧ t.backlight = s.backlight)

theorem sceneCompletion_side (r : Stats) :
    (sceneCompletion d r s).side d =
        { s.side d with
          scene := sceneUpdate (s.side d).cfg.scene s.lamp.on (s.side d).expo.confirmed r (s.side d).scene } ∧
      (sceneCompletion d r s).side d.other = s.side d.other := by
  simp only [sceneCompletion]
  split
  · simp
  · simp

/-- The scene monitor's completion forms the cab state from the heads and the scenes. -/
theorem sceneCompletion_cab {s0 : State} (r : Stats) (h : SameCab s0 s) : CabFormed d s0 (sceneCompletion d r s) := by
  obtain ⟨hside, hcab, hback, hsnoop⟩ := id h
  obtain ⟨hz, -⟩ := sceneCompletion_side (d := d) (s := s) r
  rw [CabFormed, hz]
  have hscene : SameCab
      (updSide d (fun x =>
        { x with
          scene := sceneUpdate (s.side d).cfg.scene s.lamp.on (s.side d).expo.confirmed r (s.side d).scene }) s0)
      (updSide d (fun x =>
        { x with
          scene := sceneUpdate (s.side d).cfg.scene s.lamp.on (s.side d).expo.confirmed r (s.side d).scene }) s) := by
    refine ⟨fun e => ?_, by simpa using hcab, by simpa using hback, by simpa using hsnoop⟩
    have hl := hside .left
    have hr := hside .right
    cases d with
    | left =>
      cases e with
      | left => exact ⟨hl.1, rfl⟩
      | right => exact hr
    | right =>
      cases e with
      | left => exact hl
      | right => exact ⟨hr.1, rfl⟩
  obtain ⟨-, hcab', hback', -⟩ := reformCab_congr hscene
  refine ⟨fun hne => ?_, fun heq => ?_⟩
  · have hchanged : ¬(sceneUpdate (s.side d).cfg.scene s.lamp.on (s.side d).expo.confirmed r (s.side d).scene).state =
        (s.side d).scene.state := by rw [(hside d).2] at hne ⊢; exact hne
    simp only [sceneCompletion, if_neg hchanged]
    exact ⟨hcab', hback'⟩
  · have hsame : (sceneUpdate (s.side d).cfg.scene s.lamp.on (s.side d).expo.confirmed r (s.side d).scene).state =
        (s.side d).scene.state := by rw [(hside d).2] at heq ⊢; exact heq
    simp only [sceneCompletion, if_pos hsame]
    exact ⟨by simpa using hcab, by simpa using hback⟩

theorem handOff_leaves {s0 : State} (he : SameExposure d s0 s) (hc : SameCab s0 s) :
    (handOff d r s).side d =
        handedSide r s.lamp.on ((exposureCompletion d r s0).side d).expo (s.side d) ∧
      (handOff d r s).side d.other = s.side d.other ∧ (handOff d r s).link = (exposureCompletion d r s0).link ∧
      CabFormed d s0 (handOff d r s) := by
  generalize hs1 : updSide d (fun x => curveAndTiles r { x with coll := { x.coll with acc := none, last := some r } }) s = s1
  have hside1 : s1.side d = curveAndTiles r { s.side d with coll := { (s.side d).coll with acc := none, last := some r } } := by
    rw [← hs1]; simp
  have hother1 : s1.side d.other = s.side d.other := by rw [← hs1]; simp
  have he1 : SameExposure d s0 s1 := by
    obtain ⟨hcfg, hexpo, hserv, hlink, hsnoop, hnow⟩ := he
    refine ⟨fun e => ?_, by rw [hside1]; exact hexpo, by rw [hside1]; exact hserv, by rw [← hs1]; simpa using hlink,
      by rw [← hs1]; simpa using hsnoop, by rw [← hs1]; simpa [State.refNow] using hnow⟩
    rw [← hcfg e, ← hs1]
    cases d <;> cases e <;> rfl
  have hc1 : SameCab s0 (exposureCompletion d r s1) := by
    obtain ⟨hsides, hcab, hback, hsnoop⟩ := hc
    obtain ⟨hx, ho, -⟩ := exposureCompletion_side (d := d) (s := s1) r
    have hd : ((exposureCompletion d r s1).side d).head = (s0.side d).head ∧
        ((exposureCompletion d r s1).side d).scene = (s0.side d).scene := by
      rw [hx, hside1]; exact hsides d
    have ho' : ((exposureCompletion d r s1).side d.other).head = (s0.side d.other).head ∧
        ((exposureCompletion d r s1).side d.other).scene = (s0.side d.other).scene := by
      rw [ho, hother1]; exact hsides _
    refine ⟨fun e => ?_, by rw [← hs1]; simpa using hcab, by rw [← hs1]; simpa using hback, by rw [← hs1]; simpa using hsnoop⟩
    cases d with
    | left =>
      cases e with
      | left => exact hd
      | right => exact ho'
    | right =>
      cases e with
      | left => exact ho'
      | right => exact hd
  obtain ⟨hexpo, hlink⟩ := exposureCompletion_congr r he1
  obtain ⟨hx, ho, hconf, -⟩ := exposureCompletion_side (d := d) (s := s1) r
  obtain ⟨hz, hzo⟩ := sceneCompletion_side (d := d) (s := exposureCompletion d r s1) r
  have heq : handOff d r s = sceneCompletion d r (exposureCompletion d r s1) := by rw [← hs1]; rfl
  have hlamp : s1.lamp = s.lamp := by rw [← hs1]; simp
  rw [heq]
  refine ⟨?_, hzo.trans (ho.trans hother1), by simpa using hlink, sceneCompletion_cab r hc1⟩
  rw [hz, hconf, exposureCompletion_frame d r s1 |>.2.2.2.2.1, hlamp, ← hexpo, hx, hside1]
  rfl

/-! ### The views of a state that reports look at -/

/-- Two states with the same faults, time, settings and reset, whose sides are as healthy and have the same frame numbers. -/
theorem sameView_of_sides {sc : Scope} (hf : t.faults = s.faults) (ht : t.time = s.time) (hr : t.inReset = s.inReset)
    (hn : t.snoop = s.snoop) (hh : ∀ e, (t.side e).head.health = (s.side e).head.health)
    (hk : ∀ e, (t.side e).cap.frameNumber = (s.side e).cap.frameNumber) : SameView sc t s := by
  have hl := hh .left
  have hr' := hh .right
  have hkl := hk .left
  have hkr := hk .right
  simp only [State.side] at hl hr' hkl hkr
  refine ⟨hf, ht, by simp only [pinView, hr, hn, hl, hr'], ?_⟩
  cases sc with
  | left => exact hkl
  | right => exact hkr
  | global => rfl

end

/-! ### The frame at the freeze check (R15, R16) -/

/-- The state with the frame number of a side one higher. -/
def numbered (d : SideId) (s : State) : State := updCap d (fun k => { k with frameNumber := k.frameNumber + 1 }) s

/-- The identical count after a frame with signature `sig`. -/
def sameCount (x : Side) (sig : BitVec 32) : Nat :=
  if x.cap.prevSig = some sig then min 255 (x.cap.identical + 1) else 0

/-- A side at the freeze check, with the exposure unit and the head as they come out. -/
def completedSide (f : Fip) (o : FrameOutcome) (r : Stats) (now : Time) (lampOn : Bool) (e : Exposure) (h : Head) (x : Side) :
    Side :=
  { handedSide r lampOn e x with
    cap :=
      { acceptCapture f o r.signature now x.cap with
        watchdog := some now, expiries := 0, prevSig := some r.signature, identical := sameCount x r.signature }
    head := h }

/-- The head with the run counted, and the attempts that a long run zeroes (R121). -/
def countedHead (x : Side) : Head :=
  { x.head with
    runCount := min 65535 (x.head.runCount + 1)
    attempts := if x.cfg.head.recoverClear ≤ min 65535 (x.head.runCount + 1) then 0 else x.head.attempts }

/-- The good frames of a side return it to RUNNING (R119). -/
def Back (d : SideId) (s : State) : Prop :=
  (s.side d).head.health = .degraded ∧ (s.side d).cfg.head.degradeClear ≤ min 65535 ((s.side d).head.goodFrames + 1) ∧
    isActive .viewStale (scopeOf d) s = false

/-- The record handed on. -/
def recordOf (d : SideId) (s : State) : Stats := (s.side d).coll.acc.getD (Stats.fresh .day)

/-- LINE_SHORTFALL of a short frame that is accepted (R14, log 30). -/
def shortNoted (d : SideId) (f : Fip) (o : FrameOutcome) (s : State) : State :=
  if o = .acceptedShort then raiseEvent .lineShortfall (scopeOf d) (BitVec.ofNat 32 f.lines) s else s

/-- The frame accepted, its record handed on, the watchdog restarted (R15 steps 1 to 5). -/
def handedOn (d : SideId) (f : Fip) (o : FrameOutcome) (s : State) : State :=
  updCap d (fun c => { c with watchdog := some s.time, expiries := 0 })
    (handOff d (recordOf d s)
      (updCap d (acceptCapture f o (recordOf d s).signature s.time) (shortNoted d f o s)))

/-- The state at the freeze check (R15 step 6, R16). -/
def atFreeze (d : SideId) (f : Fip) (o : FrameOutcome) (s : State) : State :=
  updCap d (fun c =>
    { c with
      prevSig := some (recordOf d s).signature
      identical := identicalAfter ((headFrame d o (handedOn d f o s)).side d).cap (recordOf d s).signature })
    (headFrame d o (handedOn d f o s))

/-- A side before the head controller takes the frame. -/
def handedOnSide (f : Fip) (o : FrameOutcome) (r : Stats) (now : Time) (lampOn : Bool) (e : Exposure) (x : Side) : Side :=
  { handedSide r lampOn e x with
    cap := { acceptCapture f o r.signature now x.cap with watchdog := some now, expiries := 0 } }

section
variable {d : SideId} {f : Fip} {o : FrameOutcome} {s : State}

theorem acceptFrame_eq :
    acceptFrame d f o s =
      flagPage (pageOf d)
        (if ((atFreeze d f o s).side d).cfg.cap.freezeLimit ≤
            identicalAfter ((headFrame d o (handedOn d f o s)).side d).cap (recordOf d s).signature then
          failRunning id d 2 (raiseCond .cameraFrozen (scopeOf d) (recordOf d s).signature (atFreeze d f o s))
        else atFreeze d f o s) := rfl

@[simp] theorem shortNoted_frame :
    (∀ e, (shortNoted d f o s).side e = s.side e) ∧ (shortNoted d f o s).time = s.time ∧
      (shortNoted d f o s).phase = s.phase ∧ (shortNoted d f o s).inReset = s.inReset ∧
      (shortNoted d f o s).link = s.link ∧ (shortNoted d f o s).snoop = s.snoop ∧ (shortNoted d f o s).cab = s.cab ∧
      (shortNoted d f o s).backlight = s.backlight ∧ (shortNoted d f o s).lamp = s.lamp := by
  rw [shortNoted]
  split
  · simp
  · simp

theorem stage_handedOn :
    Stage d
        (handedOnSide f o (recordOf d s) s.time s.lamp.on ((exposureCompletion d (recordOf d s) s).side d).expo (s.side d))
        (s.side d.other) (numbered d (shortNoted d f o s)) (handedOn d f o s) ∧
      (handedOn d f o s).link = (exposureCompletion d (recordOf d s) s).link ∧ CabFormed d s (handedOn d f o s) := by
  obtain ⟨n1, -⟩ := shortNoted_frame (d := d) (f := f) (o := o) (s := s)
  generalize hs3 : updCap d (acceptCapture f o (recordOf d s).signature s.time) (shortNoted d f o s) = s3
  have hside3 : s3.side d = { s.side d with cap := acceptCapture f o (recordOf d s).signature s.time (s.side d).cap } := by
    rw [← hs3]; simp [n1]
  have hother3 : s3.side d.other = s.side d.other := by rw [← hs3]; simp [n1]
  have hcfg : ∀ e, (s3.side e).cfg = (s.side e).cfg ∧ (s3.side e).head = (s.side e).head ∧
      (s3.side e).scene = (s.side e).scene := fun e => by
    rw [← n1 e, ← hs3]
    cases d <;> cases e <;> exact ⟨rfl, rfl, rfl⟩
  have he : SameExposure d s s3 :=
    ⟨fun e => (hcfg e).1, by rw [hside3], by rw [hside3]; rfl, by rw [← hs3]; simp, by rw [← hs3]; simp,
      by rw [← hs3]; simp [State.refNow]⟩
  have hc : SameCab s s3 := ⟨fun e => (hcfg e).2, by rw [← hs3]; simp, by rw [← hs3]; simp, by rw [← hs3]; simp⟩
  have hlamp : s3.lamp = s.lamp := by rw [← hs3]; simp
  obtain ⟨hz, hzo, hlink, hcab⟩ := handOff_leaves (r := recordOf d s) he hc
  have heq : handedOn d f o s =
      updCap d (fun c => { c with watchdog := some s.time, expiries := 0 }) (handOff d (recordOf d s) s3) := by
    rw [handedOn, hs3]
  have hside : (handedOn d f o s).side d =
      handedOnSide f o (recordOf d s) s.time s.lamp.on ((exposureCompletion d (recordOf d s) s).side d).expo (s.side d) := by
    rw [heq, side_updCap, hz, hside3, hlamp]
    rfl
  have hother : (handedOn d f o s).side d.other = s.side d.other := by rw [heq, side_updCap_other, hzo, hother3]
  have hnum : (numbered d (shortNoted d f o s)).side d =
      { s.side d with cap := { (s.side d).cap with frameNumber := (s.side d).cap.frameNumber + 1 } } := by
    simp [numbered, n1]
  have hnumo : (numbered d (shortNoted d f o s)).side d.other = s.side d.other := by simp [numbered, n1]
  have hsides : ∀ e, ((handedOn d f o s).side e).head.health = ((numbered d (shortNoted d f o s)).side e).head.health ∧
      ((handedOn d f o s).side e).cap.frameNumber = ((numbered d (shortNoted d f o s)).side e).cap.frameNumber := by
    have h1 : ((handedOn d f o s).side d).head.health = ((numbered d (shortNoted d f o s)).side d).head.health ∧
        ((handedOn d f o s).side d).cap.frameNumber = ((numbered d (shortNoted d f o s)).side d).cap.frameNumber := by
      rw [hside, hnum]; exact ⟨rfl, rfl⟩
    have h2 : ((handedOn d f o s).side d.other).head.health = ((numbered d (shortNoted d f o s)).side d.other).head.health ∧
        ((handedOn d f o s).side d.other).cap.frameNumber =
          ((numbered d (shortNoted d f o s)).side d.other).cap.frameNumber := by
      rw [hother, hnumo]; exact ⟨rfl, rfl⟩
    intro e
    cases d with
    | left =>
      cases e with
      | left => exact h1
      | right => exact h2
    | right =>
      cases e with
      | left => exact h2
      | right => exact h1
  refine ⟨⟨hside, hother, sameView_of_sides ?_ ?_ ?_ ?_ (fun e => (hsides e).1) fun e => (hsides e).2⟩, ?_, ?_⟩
  · rw [heq, ← hs3]; simp [handOff, numbered]
  · rw [heq, ← hs3]; simp [handOff, numbered]
  · rw [heq, ← hs3]; simp [handOff, numbered]
  · rw [heq, ← hs3]; simp [handOff, numbered]
  · rw [heq]; simpa using hlink
  · rw [heq]
    simpa [CabFormed] using hcab

end

end Sys2Proof.Proofs.Frames

/-! ## PROOFS: the head controller and the buffers at an accepted frame -/

namespace Sys2Proof.Proofs.Frames

open Sys2Proof Sys2Proof.Machine Sys2Proof.Safety Sys2Proof.Laws Sys2Proof.Proofs.Steps Sys2Proof.Proofs.HandOff
open Sys2Proof.Proofs.DisplayStart (Stage Serving degrading degradedBy)

section
variable {d : SideId} {f : Fip} {o : FrameOutcome} {s u v : State} {x y : Side}

/-! ### The head controller takes the outcome (R119, R121) -/

/-- The good frames of a side, with this one. -/
def goodCount (x : Side) : Nat := min 65535 (x.head.goodFrames + 1)

theorem stage_countRun {p : Side} (h : Stage d x p v u) : Stage d { x with head := countedHead x } p v (countRun d u) := by
  rw [countRun]
  exact h.change (f := fun x => { x with head := countedHead x }) rfl rfl

theorem stage_good {p : Side} (h : Stage d x p v u) :
    Stage d { x with head := { countedHead x with goodFrames := goodCount x } } p v
      (updHead d (fun h => { h with goodFrames := satAdd 65535 h.goodFrames 1 }) (countRun d u)) :=
  (stage_countRun h).change (f := fun x => { x with head := { x.head with goodFrames := satAdd 65535 x.head.goodFrames 1 } })
    rfl rfl

theorem Stage.isActive {p : Side} (h : Stage d x p v u) (k : FaultKind) :
    isActive k (scopeOf d) u = Machine.isActive k (scopeOf d) v := by
  obtain ⟨-, -, hf, -⟩ := h
  exact isActive_congr hf _ _

/-- The test of R119 on a side whose good frames have been counted. -/
theorem goodFrame_eq {p : Side} (h : Stage d x p v u) :
    goodFrame d u =
      if x.head.health = .degraded ∧ x.cfg.head.degradeClear ≤ goodCount x ∧ Machine.isActive .viewStale (scopeOf d) v = false then
        clearCond .sideDegraded (scopeOf d)
          (updHead d (fun h => { h with health := .running, cause := 0 })
            (updHead d (fun h => { h with goodFrames := satAdd 65535 h.goodFrames 1 }) u))
      else updHead d (fun h => { h with goodFrames := satAdd 65535 h.goodFrames 1 }) u := by
  have hgood := h.change (f := fun x => { x with head := { x.head with goodFrames := satAdd 65535 x.head.goodFrames 1 } })
    rfl rfl
  have hside : (updHead d (fun h => { h with goodFrames := satAdd 65535 h.goodFrames 1 }) u).side d =
      { x with head := { x.head with goodFrames := goodCount x } } := hgood.1
  have hview : Machine.isActive .viewStale (scopeOf d)
      (updHead d (fun h => { h with goodFrames := satAdd 65535 h.goodFrames 1 }) u) =
        Machine.isActive .viewStale (scopeOf d) v := Stage.isActive hgood .viewStale
  simp only [goodFrame, Config.max16, hside, hview]

theorem headFrame_complete {p : Side} (h : Stage d x p v u) (hs : x.inService = true) :
    headFrame d .complete u = goodFrame d (countRun d u) := by
  obtain ⟨rfl, -⟩ := h
  exact if_pos hs

theorem headFrame_short {p : Side} (h : Stage d x p v u) (hs : x.inService = true) :
    headFrame d .acceptedShort u = degrade d 4 (countRun d u) := by
  obtain ⟨rfl, -⟩ := h
  exact if_pos hs

theorem stage_back {p : Side} (h : Stage d x p v u) (hs : x.inService = true)
    (hb : x.head.health = .degraded ∧ x.cfg.head.degradeClear ≤ goodCount x ∧
      Machine.isActive .viewStale (scopeOf d) v = false) :
    Stage d { x with head := { countedHead x with health := .running, cause := 0, goodFrames := goodCount x } } p
      (clearCond .sideDegraded (scopeOf d) v) (headFrame d .complete u) := by
  have hdeg : (countedHead x).health = .degraded := hb.1
  rw [headFrame_complete h hs, goodFrame_eq (stage_countRun h)]
  refine (if_pos hb).symm ▸ ?_
  exact ((stage_good h).change (f := fun x => { x with head := { x.head with health := .running, cause := 0 } })
    (by simp [hdeg]) rfl).clear _

theorem stage_notBack {p : Side} (h : Stage d x p v u) (hs : x.inService = true)
    (hb : ¬(x.head.health = .degraded ∧ x.cfg.head.degradeClear ≤ goodCount x ∧
      Machine.isActive .viewStale (scopeOf d) v = false)) :
    Stage d { x with head := { countedHead x with goodFrames := goodCount x } } p v (headFrame d .complete u) := by
  rw [headFrame_complete h hs, goodFrame_eq (stage_countRun h)]
  exact (if_neg hb).symm ▸ stage_good h

theorem stage_short {p : Side} (h : Stage d x p v u) (hs : x.inService = true) (hy : y.head.health = x.head.health) :
    Stage d { x with head := { countedHead x with health := .degraded, goodFrames := 0, cause := 4 } } p
      (degrading y d 4 v) (headFrame d .acceptedShort u) := by
  rw [headFrame_short h hs]
  exact (stage_countRun h).degrade (n := 4) (.inl ⟨hy.symm, hy ▸ DisplayStart.serving_of_inService hs⟩)

/-- The freeze check notes the signature. -/
theorem stage_atFreeze {h : Head}
    (hst : Stage d { handedOnSide f o (recordOf d s) s.time s.lamp.on
      ((exposureCompletion d (recordOf d s) s).side d).expo (s.side d) with head := h } (s.side d.other) v
      (headFrame d o (handedOn d f o s))) :
    identicalAfter ((headFrame d o (handedOn d f o s)).side d).cap (recordOf d s).signature =
        sameCount (s.side d) (recordOf d s).signature ∧
      Stage d (completedSide f o (recordOf d s) s.time s.lamp.on ((exposureCompletion d (recordOf d s) s).side d).expo h (s.side d))
        (s.side d.other) v (atFreeze d f o s) := by
  have hsame : identicalAfter ((headFrame d o (handedOn d f o s)).side d).cap (recordOf d s).signature =
      sameCount (s.side d) (recordOf d s).signature := by
    rw [hst.1]
    rfl
  refine ⟨hsame, ?_⟩
  rw [atFreeze, hsame]
  exact hst.change (f := fun z =>
    { z with
      cap :=
        { z.cap with
          prevSig := some (recordOf d s).signature
          identical := sameCount (s.side d) (recordOf d s).signature } }) rfl rfl

/-! ### The state at the freeze check -/

theorem faultRec_shortNoted {k : FaultKind} (hk : k ≠ .lineShortfall) (hc : k.code ≤ 17) :
    (shortNoted d f o s).faultRec k (scopeOf d) = s.faultRec k (scopeOf d) := by
  rw [shortNoted]
  split
  · exact faultRec_raiseEvent_other _ _ _ _ (recIndex_side_ne d hk hc)
  · rfl

theorem faultRec_numbered (k : FaultKind) (sc : Scope) : (numbered d s).faultRec k sc = s.faultRec k sc :=
  Failing.faultRec_congr (by simp [numbered]) k sc

theorem faultRec_degrading {k : FaultKind} (cause : BitVec 32) (hk : k ≠ .sideDegraded) (hc : k.code ≤ 17) :
    (degrading y d cause v).faultRec k (scopeOf d) = v.faultRec k (scopeOf d) := by
  rw [degrading]
  split
  · exact faultRec_raiseCond_other _ _ _ _ (recIndex_side_ne d hk hc)
  · rfl

/-- What the head controller makes of a frame with outcome `o`: the head, and the faults of the state. -/
def HeadTold (d : SideId) (f : Fip) (o : FrameOutcome) (s : State) (h : Head) (v : State) : Prop :=
  (o = .acceptedShort →
    h = { countedHead (s.side d) with health := .degraded, goodFrames := 0, cause := 4 } ∧
      v.faults = (degrading (s.side d) d 4 (numbered d (shortNoted d f o s))).faults) ∧
  (o = .complete → Back d s →
    h = { countedHead (s.side d) with health := .running, cause := 0, goodFrames := goodCount (s.side d) } ∧
      v.faults = (clearCond .sideDegraded (scopeOf d) (numbered d s)).faults) ∧
  (o = .complete → ¬Back d s →
    h = { countedHead (s.side d) with goodFrames := goodCount (s.side d) } ∧ v.faults = s.faults)

/-- A side in service comes to the freeze check in service, with its head told of the frame. -/
theorem exists_atFreeze (hs : (s.side d).inService = true) :
    ∃ h v,
      Stage d (completedSide f o (recordOf d s) s.time s.lamp.on ((exposureCompletion d (recordOf d s) s).side d).expo h (s.side d))
        (s.side d.other) v (atFreeze d f o s) ∧
      identicalAfter ((headFrame d o (handedOn d f o s)).side d).cap (recordOf d s).signature =
        sameCount (s.side d) (recordOf d s).signature ∧
      h.attempts = (countedHead (s.side d)).attempts ∧ h.health.inService = true ∧ HeadTold d f o s h v ∧
      ∀ k, k ≠ .sideDegraded → k.code ≤ 17 →
        v.faultRec k (scopeOf d) = (shortNoted d f o s).faultRec k (scopeOf d) := by
  obtain ⟨hst, -, -⟩ := stage_handedOn (d := d) (f := f) (o := o) (s := s)
  cases o with
  | acceptedShort =>
    obtain ⟨hsame, hfreeze⟩ := stage_atFreeze (stage_short (y := s.side d) hst hs rfl)
    refine ⟨_, _, hfreeze, hsame, rfl, rfl, ⟨fun _ => ⟨rfl, rfl⟩, nofun, nofun⟩, fun k hk hc => ?_⟩
    rw [faultRec_degrading 4 hk hc, faultRec_numbered]
  | complete =>
    have hnone : shortNoted d f .complete s = s := if_neg nofun
    rw [hnone] at hst
    have hview : isActive .viewStale (scopeOf d) (numbered d s) = isActive .viewStale (scopeOf d) s :=
      isActive_congr (by simp [numbered]) _ _
    by_cases hb : Back d s
    · obtain ⟨hsame, hfreeze⟩ := stage_atFreeze (stage_back hst hs (by rw [hview]; exact hb))
      refine ⟨_, _, hfreeze, hsame, rfl, rfl, ⟨nofun, fun _ _ => ⟨rfl, rfl⟩, fun _ h => absurd hb h⟩, fun k hk hc => ?_⟩
      rw [faultRec_clearCond_other _ _ _ (recIndex_side_ne d hk hc), faultRec_numbered, hnone]
    · obtain ⟨hsame, hfreeze⟩ := stage_atFreeze (stage_notBack hst hs (by rw [hview]; exact hb))
      refine ⟨_, _, hfreeze, hsame, rfl, hs, ⟨nofun, fun _ h => absurd h hb, fun _ _ => ⟨rfl, by simp [numbered]⟩⟩,
        fun k hk hc => ?_⟩
      rw [faultRec_numbered, hnone]

theorem link_atFreeze : (atFreeze d f o s).link = (exposureCompletion d (recordOf d s) s).link := by
  obtain ⟨-, hlink, -⟩ := stage_handedOn (d := d) (f := f) (o := o) (s := s)
  simpa [atFreeze] using hlink

theorem cab_atFreeze {h : Head} (hst : Stage d
      (completedSide f o (recordOf d s) s.time s.lamp.on ((exposureCompletion d (recordOf d s) s).side d).expo h (s.side d))
      (s.side d.other) v (atFreeze d f o s)) : CabFormed d s (atFreeze d f o s) := by
  obtain ⟨hside, -, hcab⟩ := stage_handedOn (d := d) (f := f) (o := o) (s := s)
  have hscene : ((atFreeze d f o s).side d).scene = ((handedOn d f o s).side d).scene := by
    rw [hst.1, hside.1]
    rfl
  have hc : (atFreeze d f o s).cab = (handedOn d f o s).cab := by simp [atFreeze]
  have hb : (atFreeze d f o s).backlight = (handedOn d f o s).backlight := by simp [atFreeze]
  rw [CabFormed, hscene, hc, hb]
  exact hcab

/-! ### The buffer table (R15 steps 2 and 3) -/

theorem any_ready_iff (t : Table Buf 3) : t.list.any isReady = (readyBuf t).isSome := by
  cases h : readyBuf t with
  | none =>
    have hzero := Kept.readyBuf_none h
    rw [List.countP_eq_zero] at hzero
    simpa using hzero
  | some p =>
    obtain ⟨hk, hget⟩ := Kept.readyBuf_spec h
    have hlen : p.1 < t.list.length := by rw [t.len]; exact hk
    have hmem : Buf.ready p.2 ∈ t.list := by
      rw [← hget, Table.get, List.getD_eq_getElem _ _ hlen]
      exact List.getElem_mem hlen
    exact List.any_eq_true.mpr ⟨_, hmem, rfl⟩

theorem get_acceptBufs (hl : bufferLaws x = true) (hf : x.cap.fip = some f) (hn : f.buf < 3) (info : FrameInfo) :
    ∀ n < 3, (acceptBufs f.buf info x.cap.bufs).get n .free =
      if n = f.buf then .ready info else if isReady (x.cap.bufs.get n .free) then .free else x.cap.bufs.get n .free := by
  intro n hlt
  have hfilling : x.cap.bufs.get f.buf .free = .filling := by
    simp only [bufferLaws, hf, Bool.and_eq_true, beq_iff_eq] at hl
    obtain ⟨⟨-, -, hfilling⟩, -⟩ := hl
    exact hfilling
  rw [acceptBufs]
  cases h : readyBuf x.cap.bufs with
  | none =>
    have hno : isReady (x.cap.bufs.get n .free) = false := by
      by_contra hr
      have := (DisplayStart.readyBuf_isSome_iff x.cap.bufs).mpr ⟨n, hlt, by simpa using hr⟩
      rw [h] at this
      exact Bool.noConfusion this
    by_cases hnb : n = f.buf
    · rw [if_pos hnb, hnb]
      exact get_set_self _ _ _ hn
    · rw [if_neg hnb, hno]
      exact get_set_ne _ _ _ (Ne.symm hnb)
  | some p =>
    obtain ⟨k, info'⟩ := p
    obtain ⟨hk, hget⟩ := Kept.readyBuf_spec h
    by_cases hnb : n = f.buf
    · rw [if_pos hnb, hnb]
      exact get_set_self _ _ _ hn
    · rw [if_neg hnb]
      refine (get_set_ne _ _ _ (Ne.symm hnb)).trans ?_
      by_cases hnk : n = k
      · subst hnk
        rw [hget]
        exact get_set_self _ _ _ hk
      · have hno : isReady (x.cap.bufs.get n .free) = false := by
          by_contra hr
          exact hnk (DisplayStart.index_unique rfl (DisplayStart.bufferLaws_counts hl).1 hlt hk (by simpa using hr)
            (by rw [hget]; rfl))
        rw [hno]
        exact get_set_ne _ _ _ (Ne.symm hnk)

end

end Sys2Proof.Proofs.Frames

/-! ## PROOFS: the freeze check and the completion of a frame -/

namespace Sys2Proof.Proofs.Frames

open Sys2Proof Sys2Proof.Machine Sys2Proof.Safety Sys2Proof.Laws Sys2Proof.Proofs.Steps Sys2Proof.Proofs.HandOff
open Sys2Proof.Proofs.DisplayStart (Stage)

section
variable {d : SideId} {s : State} {code : Nat}

/-! ### FAILED with nothing to release behind the teardown (R120 to R122) -/

theorem plain_id : Failing.Plain id d s := fun _ _ _ => by simp [teardownRelease]

/-- A passage into recovery, as the departure from the up states that it ends with. -/
theorem enterFailed_leaves (ha : (s.side d).cfg.head.autoRecover = true)
    (hn : (s.side d).head.attempts < (s.side d).cfg.head.recoverMax) :
    ∃ was t, enterFailed id d code s = leaveUp id was d t ∧ t.link = s.link ∧ t.refNow = s.refNow ∧
      ∀ k sc, t.faultRec k sc = (Failing.failedState d code s).faultRec k sc := by
  obtain ⟨-, hcfg, hatt, -, -, hlink⟩ := Failing.side_failedState (d := d) (s := s) code
  rw [Failing.enterFailed_plain code plain_id, Failing.recoveryTest_recover (by rwa [hcfg]) (by rwa [hcfg, hatt]),
    enterRecovering]
  refine ⟨_, _, rfl, by simpa using hlink, ?_, fun k sc => ?_⟩
  · simp [State.refNow, Failing.failedState, Failing.failedDown, Kept.failedNow]
  · rw [faultRec_followPin]
    exact Failing.faultRec_congr (by simp) k sc

theorem recovered_frozen (ha : (s.side d).cfg.head.autoRecover = true)
    (hn : (s.side d).head.attempts < (s.side d).cfg.head.recoverMax) :
    isActive .cameraFrozen (scopeOf d) (enterFailed id d code s) = false ∧
      (enterFailed id d code s).link = (cancelSide d s).link := by
  obtain ⟨was, t, heq, hlink, hnow, -⟩ := enterFailed_leaves (code := code) ha hn
  rw [heq]
  refine ⟨?_, ?_⟩
  · obtain ⟨s3, hl, -, -, -, hfrozen, -⟩ := leaveUp_down id was d t (by simp [teardownRelease])
    rw [hl]
    exact (isActive_congr (by simp) _ _).trans hfrozen
  · rw [leaveUp]
    cases was
    · simpa using link_cancelSide (by simpa [teardownRelease] using hlink)
        (by simpa [teardownRelease, State.refNow] using hnow)
    · simpa using link_cancelSide (by simpa [teardownRelease] using hlink)
        (by simpa [teardownRelease, State.refNow] using hnow)

/-- An entry to FAILED reports nothing of lines. -/
theorem lineShortfall_enterFailed :
    (enterFailed id d code s).faultRec .lineShortfall (scopeOf d) = s.faultRec .lineShortfall (scopeOf d) := by
  have hne : ∀ {k'}, FaultKind.lineShortfall ≠ k' → recIndex .lineShortfall (scopeOf d) ≠ recIndex k' (scopeOf d) :=
    fun h => recIndex_side_ne d h (by decide)
  have hfailed : (Failing.failedState d code s).faultRec .lineShortfall (scopeOf d) =
      s.faultRec .lineShortfall (scopeOf d) := by
    rw [Failing.faultRec_failedState, Failing.failedDown, faultRec_stopWatchdogs _ _ (hne (by decide)),
      faultRec_teardown _ _ (hne (by decide)), faultRec_raiseCond_other _ _ _ _ (hne (by decide)),
      faultRec_clearCond_other _ _ _ (hne (by decide)), Failing.faultRec_failedNow]
  by_cases hrec : (s.side d).cfg.head.autoRecover = true ∧ (s.side d).head.attempts < (s.side d).cfg.head.recoverMax
  · obtain ⟨was, t, heq, -, -, hrecs⟩ := enterFailed_leaves (code := code) hrec.1 hrec.2
    rw [heq, Failing.faultRec_congr (Failing.faults_leaveUp was (by simp [teardownRelease])),
      faultRec_stopWatchdogs _ _ (hne (by decide)), faultRec_teardown _ _ (hne (by decide)), clearHealth,
      faultRec_clearCond_other _ _ _ (hne (by decide)), faultRec_clearCond_other _ _ _ (hne (by decide)),
      faultRec_clearCond_other _ _ _ (hne (by decide)), hrecs, hfailed]
  · rw [Failing.enterFailed_stayed code plain_id hrec]
    split
    · rw [faultRec_raiseEvent_other _ _ _ _ (hne (by decide)), hfailed]
    · exact hfailed

theorem stayed_frozen
    (hn : ¬((s.side d).cfg.head.autoRecover = true ∧ (s.side d).head.attempts < (s.side d).cfg.head.recoverMax)) :
    isActive .cameraFrozen (scopeOf d) (enterFailed id d code s) = isActive .cameraFrozen (scopeOf d) s ∧
      ((enterFailed id d code s).side d).expo = (s.side d).expo := by
  have hne : ∀ {k'}, FaultKind.cameraFrozen ≠ k' → recIndex .cameraFrozen (scopeOf d) ≠ recIndex k' (scopeOf d) :=
    fun h => recIndex_side_ne d h (by decide)
  have hfailed : (Failing.failedState d code s).faultRec .cameraFrozen (scopeOf d) =
      s.faultRec .cameraFrozen (scopeOf d) := by
    rw [Failing.faultRec_failedState, Failing.failedDown, faultRec_stopWatchdogs _ _ (hne (by decide)),
      faultRec_teardown _ _ (hne (by decide)), faultRec_raiseCond_other _ _ _ _ (hne (by decide)),
      faultRec_clearCond_other _ _ _ (hne (by decide)), Failing.faultRec_failedNow]
  have hexpo : ((Failing.failedState d code s).side d).expo = (s.side d).expo := by
    simp [Failing.failedState, Failing.failedDown, Kept.failedNow]
  rw [Failing.enterFailed_stayed code plain_id hn]
  split
  · exact ⟨by rw [isActive, faultRec_raiseEvent_other _ _ _ _ (hne (by decide)), hfailed]; rfl, by simpa using hexpo⟩
  · exact ⟨by rw [isActive, hfailed]; rfl, hexpo⟩

/-! ### The completion of a frame (R13, R14) -/

theorem tryComplete_open {f : Fip} (hf : (s.side d).cap.fip = some f) (h : f.closing = false ∨ f.outstanding ≠ 0) :
    tryComplete d s = s := by
  rw [tryComplete, hf]
  exact if_neg (by rcases h with h | h <;> simp [h])

theorem tryComplete_complete {f : Fip} (hf : (s.side d).cap.fip = some f) (hc : f.closing = true) (ho : f.outstanding = 0) :
    tryComplete d s = completeFrame d f s := by
  rw [tryComplete, hf]
  exact if_pos (by simp [hc, ho])

theorem outcomeOf_accepted {c : CaptureCfg} {f : Fip} (hw : f.writeError = false)
    (h : f.lines = c.height ∨ c.height - f.lines ≤ c.shortTolerance) :
    outcomeOf c f = .accepted (if f.lines = c.height then .complete else .acceptedShort) := by
  rw [outcomeOf, if_neg (by simp [hw])]
  by_cases hl : f.lines = c.height
  · rw [if_pos hl, if_pos hl]
  · rw [if_neg hl, if_neg hl, if_pos (h.resolve_left hl)]

theorem outcomeOf_short {c : CaptureCfg} {f : Fip} (hw : f.writeError = false) (hl : f.lines ≠ c.height)
    (h : c.shortTolerance < c.height - f.lines) : outcomeOf c f = .rejected true := by
  rw [outcomeOf, if_neg (by simp [hw]), if_neg hl, if_neg (Nat.not_le.mpr h)]

end

end Sys2Proof.Proofs.Frames

/-! ## PROOFS: the completion of a frame, settled -/

namespace Sys2Proof.Proofs.Frames

open Sys2Proof Sys2Proof.Machine Sys2Proof.Safety Sys2Proof.Laws Sys2Proof.Proofs.Steps Sys2Proof.Proofs.HandOff
open Sys2Proof.Proofs.DisplayStart (Stage)

section
variable {d : SideId} {s u v : State} {sig : BitVec 32}

/-- What the freeze check leaves of the frame's effects, whether or not it fails the side. -/
def FreezeKept (d : SideId) (v u : State) : Prop :=
  let y := u.side d
  let z := v.side d
  y.cap.fip = none ∧ y.cap.frameNumber = z.cap.frameNumber ∧ y.cap.accepted = z.cap.accepted ∧
    y.cap.dropped = z.cap.dropped ∧ y.coll.acc = none ∧ y.coll.last = z.coll.last ∧ y.coll.snap = z.coll.snap ∧
    y.cfg = z.cfg ∧ y.tone = z.tone ∧ y.tiles = z.tiles ∧ y.scene = z.scene ∧ y.expo.m16 = z.expo.m16 ∧
    u.side d.other = v.side d.other ∧
    u.faultRec .lineShortfall (scopeOf d) = v.faultRec .lineShortfall (scopeOf d)

/-- The side fails frozen (R16, R120). -/
def frozen (d : SideId) (sig : BitVec 32) (v : State) : State :=
  flagPage (pageOf d) (enterFailed id d 2 (raiseCond .cameraFrozen (scopeOf d) sig v))

theorem freezeKept_same (hf : (v.side d).cap.fip = none) (ha : (v.side d).coll.acc = none) :
    FreezeKept d v (flagPage (pageOf d) v) := by
  have hside : ∀ e, (flagPage (pageOf d) v).side e = v.side e := fun e => by simp
  simp only [FreezeKept, hside, hf, ha, true_and]
  exact Failing.faultRec_congr (by simp) _ _

theorem freezeKept_frozen : FreezeKept d v (frozen d sig v) := by
  obtain ⟨⟨-, hother, -, -, -, -, b, h, q, hside⟩, -⟩ :=
    enterFailed_torn id d 2 (raiseCond .cameraFrozen (scopeOf d) sig v) plain_id
  have hshort : (frozen d sig v).faultRec .lineShortfall (scopeOf d) = v.faultRec .lineShortfall (scopeOf d) := by
    rw [Failing.faultRec_congr (t := frozen d sig v)
      (s := enterFailed id d 2 (raiseCond .cameraFrozen (scopeOf d) sig v)) (by simp [frozen]), lineShortfall_enterFailed]
    exact faultRec_raiseCond_other _ _ _ _ (recIndex_side_ne d (by decide) (by decide))
  have hsides : ∀ e, (frozen d sig v).side e = (enterFailed id d 2 (raiseCond .cameraFrozen (scopeOf d) sig v)).side e :=
    fun e => by simp [frozen]
  simp only [FreezeKept, hshort, hsides, hside, hother]
  simp

/-- What becomes of a side that fails frozen. -/
theorem frozen_leaves
    (hk : ∀ k, k ≠ .sideDegraded → k ≠ .lineShortfall → k.code ≤ 17 →
      v.faultRec k (scopeOf d) = s.faultRec k (scopeOf d)) :
    let z := v.side d
    let y := (frozen d sig v).side d
    let sc := scopeOf d
    let t := frozen d sig v
    tornDown d t ∧ y.head.cause = 2 ∧ isActive .sideDegraded sc t = false ∧
      (isActive .cameraFrozen sc s = false →
        (t.faultRec .cameraFrozen sc).count = min 65535 ((s.faultRec .cameraFrozen sc).count + 1)) ∧
      (isActive .sideFailed sc s = false →
        (t.faultRec .sideFailed sc).count = min 65535 ((s.faultRec .sideFailed sc).count + 1)) ∧
      (z.cfg.head.autoRecover = true → z.head.attempts < z.cfg.head.recoverMax →
        y.head.health = .recovering ∧ y.head.attempts = z.head.attempts + 1 ∧
          isActive .sideFailed sc t = false ∧ isActive .cameraFrozen sc t = false ∧
          t.link = (cancelSide d v).link ∧ ∀ e ∈ linkEntries t.link, e.side ≠ d) ∧
      (¬(z.cfg.head.autoRecover = true ∧ z.head.attempts < z.cfg.head.recoverMax) →
        y.head.health = .failed ∧ y.head.attempts = z.head.attempts ∧
          isActive .sideFailed sc t = true ∧ isActive .cameraFrozen sc t = true ∧
          y.expo = z.expo ∧ y.seq = z.seq ∧ t.link = v.link ∧ (t.monitor d).target = targetOf t d ∧
          (t.faultRec .recoveryExhausted sc).count =
            if z.cfg.head.autoRecover then min 65535 ((s.faultRec .recoveryExhausted sc).count + 1)
            else (s.faultRec .recoveryExhausted sc).count) := by
  intro z y sc t
  generalize hw : raiseCond .cameraFrozen (scopeOf d) sig v = w
  generalize ht0 : enterFailed id d 2 w = t0
  have ht : t = flagPage (pageOf d) t0 := by rw [← ht0, ← hw]; rfl
  have hside : ∀ e, t.side e = t0.side e := fun e => by rw [ht]; simp
  have hfaults : t.faults = t0.faults := by rw [ht]; simp
  have hactive : ∀ k, isActive k sc t = isActive k sc t0 := fun k => isActive_congr hfaults k sc
  have hrec : ∀ k, t.faultRec k sc = t0.faultRec k sc := fun k => Failing.faultRec_congr hfaults k sc
  have hlink : t.link = t0.link := by rw [ht]; simp
  have hwz : w.side d = z := by rw [← hw]; simp [z]
  have hne : ∀ {k k' : FaultKind}, k ≠ k' → k.code ≤ 17 → recIndex k (scopeOf d) ≠ recIndex k' (scopeOf d) :=
    fun h hc => recIndex_side_ne d h hc
  have hother : ∀ {k}, k ≠ .cameraFrozen → k ≠ .sideDegraded → k ≠ .lineShortfall → k.code ≤ 17 →
      w.faultRec k sc = s.faultRec k sc := fun h1 h2 h3 hc => by
    rw [← hw, faultRec_raiseCond_other _ _ _ _ (hne h1 hc), hk _ h2 h3 hc]
  obtain ⟨⟨htorn, -⟩, hcause, hauto, hstay⟩ := enterFailed_torn id d 2 w plain_id
  rw [ht0] at htorn hcause hauto hstay
  rw [hwz] at hauto hstay
  refine ⟨?_, ?_, ?_, fun hf => ?_, fun hf => ?_, fun ha hn => ?_, fun hn => ?_⟩
  · exact tornDown_congr (by rw [hside]) (by rw [hside]) (by rw [hside]) (hactive _) (hactive _) htorn
  · simp only [y, t] at hside ⊢
    rw [hside]
    exact hcause
  · rw [hactive, ← ht0]
    exact Failing.sideDegraded_enterFailed 2 plain_id
  · rw [hrec, ← ht0, Failing.count_enterFailed 2 plain_id (hne (by decide) (by decide)),
      Failing.count_failedState (hne (by decide) (by decide)), ← hw, Failing.count_raiseCond, hk _ (by decide) (by decide) (by decide)]
    rw [isActive, hk _ (by decide) (by decide) (by decide)]
    exact hf
  · rw [hrec, ← ht0, Failing.count_enterFailed 2 plain_id (hne (by decide) (by decide)), Failing.count_sideFailed,
      hother (by decide) (by decide) (by decide) (by decide)]
    rw [isActive, hother (by decide) (by decide) (by decide) (by decide)]
    exact hf
  · obtain ⟨hhealth, hatt⟩ := hauto ha hn
    obtain ⟨hsf, -, hgone, -⟩ := Failing.enterFailed_recovered (s := w) 2 plain_id (by rw [hwz]; exact ha)
      (by rw [hwz]; exact hn)
    obtain ⟨hcf, hcancel⟩ := recovered_frozen (s := w) (code := 2) (by rw [hwz]; exact ha) (by rw [hwz]; exact hn)
    rw [ht0] at hsf hgone hcf hcancel
    refine ⟨?_, ?_, (hactive _).trans hsf, (hactive _).trans hcf, ?_, by rw [hlink]; exact hgone⟩
    · exact (congrArg (fun x => x.head.health) (hside d)).trans hhealth
    · exact (congrArg (fun x => x.head.attempts) (hside d)).trans hatt
    · exact hlink.trans (hcancel.trans (link_cancelSide (by rw [← hw]; simp) (by rw [← hw]; simp [State.refNow])))
  · have hn' : ¬((w.side d).cfg.head.autoRecover = true ∧ (w.side d).head.attempts < (w.side d).cfg.head.recoverMax) := by
      rw [hwz]; exact hn
    obtain ⟨hhealth, hatt, hsf⟩ := hstay hn
    obtain ⟨hseq, hl, htarget, hcount⟩ := Failing.stayed_failed 2 plain_id hn'
    obtain ⟨hcf, hexpo⟩ := stayed_frozen (code := 2) hn'
    rw [ht0, hwz] at hseq
    rw [ht0] at hl hcf htarget hcount
    rw [ht0, hwz] at hexpo
    refine ⟨?_, ?_, (hactive _).trans hsf, ?_, ?_, ?_, ?_, ?_, ?_⟩
    · exact (congrArg (fun x => x.head.health) (hside d)).trans hhealth
    · exact (congrArg (fun x => x.head.attempts) (hside d)).trans hatt
    · rw [hactive, hcf, ← hw]
      exact isActive_raiseCond ..
    · exact (congrArg Side.expo (hside d)).trans hexpo
    · exact (congrArg Side.seq (hside d)).trans hseq
    · rw [hlink, hl, ← hw]; simp
    · rw [ht]
      exact Failing.target_congr (s := t0) (by simp) (by simp) (by simp) (by simp) htarget
    · rw [hrec, hcount, hwz, hother (by decide) (by decide) (by decide) (by decide)]

end

end Sys2Proof.Proofs.Frames

/-! ## PROOFS: the effects of a completed frame, assembled -/

namespace Sys2Proof.Proofs.Frames

open Sys2Proof Sys2Proof.Machine Sys2Proof.Safety Sys2Proof.Laws Sys2Proof.Proofs.Steps Sys2Proof.Proofs.HandOff
open Sys2Proof.Proofs.DisplayStart (Stage)

section
variable {d : SideId} {f : Fip} {o : FrameOutcome} {s v0 : State} {h : Head}

/-- The side at the freeze check. -/
def frozenSide (d : SideId) (f : Fip) (o : FrameOutcome) (s : State) (h : Head) : Side :=
  completedSide f o (recordOf d s) s.time s.lamp.on ((exposureCompletion d (recordOf d s) s).side d).expo h (s.side d)

theorem acceptFrame_below (hst : Stage d (frozenSide d f o s h) (s.side d.other) v0 (atFreeze d f o s))
    (hsame : identicalAfter ((headFrame d o (handedOn d f o s)).side d).cap (recordOf d s).signature =
      sameCount (s.side d) (recordOf d s).signature)
    (hlt : sameCount (s.side d) (recordOf d s).signature < (s.side d).cfg.cap.freezeLimit) :
    acceptFrame d f o s = flagPage (pageOf d) (atFreeze d f o s) := by
  have hcfg : ((atFreeze d f o s).side d).cfg = (s.side d).cfg := by rw [hst.1]; rfl
  rw [acceptFrame_eq, hsame, hcfg, if_neg (Nat.not_le.mpr hlt)]

theorem acceptFrame_frozen (hst : Stage d (frozenSide d f o s h) (s.side d.other) v0 (atFreeze d f o s))
    (hsame : identicalAfter ((headFrame d o (handedOn d f o s)).side d).cap (recordOf d s).signature =
      sameCount (s.side d) (recordOf d s).signature)
    (hs : h.health.inService = true)
    (hle : (s.side d).cfg.cap.freezeLimit ≤ sameCount (s.side d) (recordOf d s).signature) :
    acceptFrame d f o s = frozen d (recordOf d s).signature (atFreeze d f o s) := by
  have hcfg : ((atFreeze d f o s).side d).cfg = (s.side d).cfg := by rw [hst.1]; rfl
  have hserv : ((raiseCond .cameraFrozen (scopeOf d) (recordOf d s).signature (atFreeze d f o s)).side d).inService = true := by
    rw [side_raiseCond, hst.1]
    exact hs
  rw [acceptFrame_eq, hsame, hcfg, if_pos hle, failRunning, if_pos hserv]
  rfl

theorem freezeKept_acceptFrame (hst : Stage d (frozenSide d f o s h) (s.side d.other) v0 (atFreeze d f o s))
    (hsame : identicalAfter ((headFrame d o (handedOn d f o s)).side d).cap (recordOf d s).signature =
      sameCount (s.side d) (recordOf d s).signature)
    (hs : h.health.inService = true) : FreezeKept d (atFreeze d f o s) (acceptFrame d f o s) := by
  by_cases hle : (s.side d).cfg.cap.freezeLimit ≤ sameCount (s.side d) (recordOf d s).signature
  · rw [acceptFrame_frozen hst hsame hs hle]
    exact freezeKept_frozen
  · rw [acceptFrame_below hst hsame (Nat.not_le.mp hle)]
    exact freezeKept_same (by rw [hst.1]; rfl) (by rw [hst.1]; rfl)

end

/-- Settles O55: the completion of a frame. -/
theorem frameCompletion : Obligations.FrameCompletion := by
  intro d s f x c short hf
  refine ⟨tryComplete_open hf, fun hcl hout => ⟨fun hw => ?_, fun hw hl hfew => ?_, fun hw hacc hlaws hbuf hserv => ?_⟩⟩
  · rw [tryComplete_complete hf hcl hout, completeFrame, outcomeOf, if_pos hw]
    rfl
  · rw [tryComplete_complete hf hcl hout, completeFrame, outcomeOf_short hw hl hfew]
    rfl
  generalize ho : (if f.lines = (s.side d).cfg.cap.height then FrameOutcome.complete else .acceptedShort) = o
  obtain ⟨h, v0, hst, hsame, hatt, hhealth, ⟨hshort, hback, hnot⟩, hrecs⟩ :=
    exists_atFreeze (f := f) (o := o) hserv
  obtain ⟨k1, k2, k3, k4, k5, k6, k7, k8, k9, k10, k11, k12, k13, k14⟩ := freezeKept_acceptFrame hst hsame hhealth
  obtain ⟨hz, hzo, hfaults, -⟩ := id hst
  refine ⟨atFreeze d f o s, acceptFrame d f o s, ?_, ?_⟩
  · rw [tryComplete_complete hf hcl hout, completeFrame, outcomeOf_accepted hw hacc, ho]
  intro r y z same outcome sc run counted good back numbered'
  have houtcome : outcome = o := rfl
  have hrec : ∀ k, k ≠ .sideDegraded → k ≠ .lineShortfall → k.code ≤ 17 →
      (atFreeze d f o s).faultRec k (scopeOf d) = s.faultRec k (scopeOf d) := fun k h1 h2 hc => by
    rw [Failing.faultRec_congr hfaults, hrecs k h1 hc, faultRec_shortNoted h2 hc]
  have hmeasured : ((exposureCompletion d r s).side d).expo.m16 = meanOctave r := (exposureCompletion_side r).2.2.2
  have hzhead : z.head = h := congrArg Side.head hz
  refine ⟨k1, k2.trans (by rw [hz]; rfl), k3.trans (by rw [hz]; rfl), k4.trans ?_, k5, k6.trans (by rw [hz]; rfl),
    k7.trans (by rw [hz]; rfl), k8.trans (by rw [hz]; rfl), k9.trans (by rw [hz]; rfl), k10.trans (by rw [hz]; rfl),
    k11.trans (by rw [hz]; rfl), k12.trans ?_, k13.trans hzo, k14.trans ?_, fun n hn => ?_, ?_, ?_, ?_, ?_, fun hs => ?_,
    fun hc hb => ?_, fun hc hb => ?_, ?_, link_atFreeze, cab_atFreeze hst, k11.symm, ?_, fun hlt => ?_, fun hle => ?_⟩
  · rw [hz, any_ready_iff]
    rfl
  · rw [hz]
    exact hmeasured
  · rw [Failing.faultRec_congr hfaults, hrecs _ (by decide) (by decide), houtcome]
    rfl
  · rw [houtcome]
    simp only [z, hz]
    exact get_acceptBufs hlaws hf hbuf _ n hn
  · simp only [z, hz]; rfl
  · simp only [z, hz]; rfl
  · simp only [z, hz]; rfl
  · simp only [z, hz]; rfl
  · rw [houtcome] at hs
    obtain ⟨hh, hv⟩ := hshort hs
    refine ⟨hzhead.trans hh, (hfaults.trans hv).trans ?_⟩
    have hnoted : shortNoted d f o s = short := if_pos hs
    rw [hnoted, DisplayStart.degrading]
    split
    · rfl
    · simp [numbered]
  · rw [houtcome] at hc
    obtain ⟨hh, hv⟩ := hback hc hb
    exact ⟨hzhead.trans hh, hfaults.trans hv⟩
  · rw [houtcome] at hc
    obtain ⟨hh, hv⟩ := hnot hc hb
    exact ⟨hzhead.trans hh, hfaults.trans hv⟩
  · simp only [z, hz]; rfl
  · simp only [z, hz]; rfl
  · exact acceptFrame_below hst hsame hlt
  · have hu := acceptFrame_frozen hst hsame hhealth hle
    have hleaves := frozen_leaves (sig := (recordOf d s).signature) hrec
    rw [← hu] at hleaves
    obtain ⟨m1, m2, m3, m4, m5, m6, m7⟩ := hleaves
    have hcfg : ((atFreeze d f o s).side d).cfg = x.cfg := by rw [hz]; rfl
    have hattempts : ((atFreeze d f o s).side d).head.attempts = counted.attempts := by rw [hz]; exact hatt
    have hseq : ((atFreeze d f o s).side d).seq = x.seq := by rw [hz]; rfl
    rw [hcfg, hattempts] at m6
    rw [hcfg, hattempts, hseq] at m7
    exact ⟨hu, m1, m2, m3, m4, m5, m6, m7⟩

end Sys2Proof.Proofs.Frames

/-! ## PROOFS: the stages of a pixel -/

namespace Sys2Proof.Proofs.Pixels

open Sys2Proof Sys2Proof.Machine Sys2Proof.Safety Sys2Proof.Laws Sys2Proof.Proofs.Steps

/-! ### Decompanding and the site gain (R27, R31 to R33) -/

section
variable {v : DevCfg} {c c' line col : Nat}

/-- The decompanded value before it is limited. -/
def expanded (v : DevCfg) (c : Nat) : Nat :=
  if c < v.knee1 then c * 2 ^ v.shift0
  else if c < v.knee2 then segBase1 v + (c - v.knee1) * 2 ^ v.shift1
  else if c < v.knee3 then segBase2 v + (c - v.knee2) * 2 ^ v.shift2
  else segBase3 v + (c - v.knee3) * 2 ^ v.shift3

theorem decompand_eq : decompand v c = min 1048575 (expanded v c) := rfl

theorem expanded_seg0 (h : c < v.knee1) : expanded v c = c * 2 ^ v.shift0 := if_pos h

theorem expanded_seg1 (h1 : v.knee1 ≤ c) (h2 : c < v.knee2) :
    expanded v c = segBase1 v + (c - v.knee1) * 2 ^ v.shift1 := by
  rw [expanded, if_neg (Nat.not_lt.mpr h1), if_pos h2]

theorem expanded_seg2 (h1 : v.knee1 ≤ c) (h2 : v.knee2 ≤ c) (h3 : c < v.knee3) :
    expanded v c = segBase2 v + (c - v.knee2) * 2 ^ v.shift2 := by
  rw [expanded, if_neg (Nat.not_lt.mpr h1), if_neg (Nat.not_lt.mpr h2), if_pos h3]

theorem expanded_seg3 (h1 : v.knee1 ≤ c) (h2 : v.knee2 ≤ c) (h3 : v.knee3 ≤ c) :
    expanded v c = segBase3 v + (c - v.knee3) * 2 ^ v.shift3 := by
  rw [expanded, if_neg (Nat.not_lt.mpr h1), if_neg (Nat.not_lt.mpr h2), if_neg (Nat.not_lt.mpr h3)]

/-- One code further is not below: within a segment by its slope, at a knee by the base of the next one. -/
theorem expanded_succ (h12 : v.knee1 ≤ v.knee2) : expanded v c ≤ expanded v (c + 1) := by
  have slope : ∀ base knee sh : Nat, base + (c - knee) * 2 ^ sh ≤ base + (c + 1 - knee) * 2 ^ sh := fun base knee sh =>
    Nat.add_le_add_left (Nat.mul_le_mul_right _ (by omega)) _
  have toBase : ∀ base knee sh : Nat, c + 1 = knee → base + (c - (knee - 1)) * 2 ^ sh ≤ base := fun base knee sh h => by
    rw [show c - (knee - 1) = 0 by omega]
    simp
  rcases Nat.lt_or_ge (c + 1) v.knee1 with h1 | h1
  · rw [expanded_seg0 (by omega), expanded_seg0 h1]
    exact Nat.mul_le_mul_right _ (by omega)
  rcases Nat.lt_or_ge (c + 1) v.knee2 with h2 | h2
  · rw [expanded_seg1 h1 h2]
    rcases Nat.lt_or_ge c v.knee1 with h | h
    · rw [expanded_seg0 h]
      exact (Nat.mul_le_mul_right _ h.le).trans (Nat.le_add_right _ _)
    · rw [expanded_seg1 h (by omega)]
      exact slope ..
  have base12 : c < v.knee2 → expanded v c ≤ segBase2 v := fun h2' => by
    rcases Nat.lt_or_ge c v.knee1 with h | h
    · rw [expanded_seg0 h]
      exact (Nat.mul_le_mul_right _ h.le).trans (Nat.le_add_right _ _)
    · rw [expanded_seg1 h h2']
      exact Nat.add_le_add_left (Nat.mul_le_mul_right _ (by omega)) _
  rcases Nat.lt_or_ge (c + 1) v.knee3 with h3 | h3
  · rw [expanded_seg2 h1 h2 h3]
    rcases Nat.lt_or_ge c v.knee2 with h | h
    · exact (base12 h).trans (Nat.le_add_right _ _)
    · rw [expanded_seg2 (by omega) h (by omega)]
      exact slope ..
  rw [expanded_seg3 h1 h2 h3]
  rcases Nat.lt_or_ge c v.knee2 with h | h
  · exact ((base12 h).trans (Nat.le_add_right _ _)).trans (Nat.le_add_right _ _)
  rcases Nat.lt_or_ge c v.knee3 with h' | h'
  · rw [expanded_seg2 (by omega) h h']
    exact (Nat.add_le_add_left (Nat.mul_le_mul_right _ (by omega)) _).trans (Nat.le_add_right _ _)
  · rw [expanded_seg3 (by omega) h h']
    exact slope ..

theorem decompand_mono (h12 : v.knee1 ≤ v.knee2) (h : c ≤ c') : decompand v c ≤ decompand v c' := by
  rw [decompand_eq, decompand_eq]
  exact min_le_min_left _ (monotone_nat_of_le_succ (f := expanded v) (fun _ => expanded_succ h12) h)

theorem gainedValue_eq {gain : Nat} (h : siteGain v line col = gain) :
    gainedValue v line col c = min 1048575 (((decompand v c - v.black) * gain + 128) / 256) := by
  rw [← h]
  rfl

/-- The four sites of the colour filter (R33). -/
theorem siteGain_eq (line col : Nat) :
    (line % 2 = 0 → col % 2 = 0 → siteGain v line col = v.gain00) ∧
      (line % 2 = 0 → col % 2 = 1 → siteGain v line col = v.gain01) ∧
      (line % 2 = 1 → col % 2 = 0 → siteGain v line col = v.gain10) ∧
      (line % 2 = 1 → col % 2 = 1 → siteGain v line col = v.gain11) := by
  refine ⟨fun hl hc => ?_, fun hl hc => ?_, fun hl hc => ?_, fun hl hc => ?_⟩
  · simp [siteGain, hl, hc]
  · simp [siteGain, hl, hc]
  · simp [siteGain, hl, hc]
  · simp [siteGain, hl, hc]

end

/-! ### Glare attenuation (R34) -/

theorem attenuate_le {knee a x : Nat} (h : a ≤ 256) : attenuate knee a x ≤ x := by
  rw [attenuate]
  split
  · exact le_rfl
  · have hmul : (x - knee) * a ≤ (x - knee) * 256 := Nat.mul_le_mul_left _ h
    rw [gainMul]
    omega

theorem attenuate_unity {knee x : Nat} : attenuate knee 256 x = x := by
  rw [attenuate]
  split
  · rfl
  · rw [gainMul]
    omega

/-! ### Tone mapping (R35) -/

section
variable {t : Table Nat 21} {x e : Nat}

/-- The tone-mapped value on the segment of node `e`. -/
def segment (t : Table Nat 21) (e x : Nat) : Nat :=
  t.get e 0 + (t.get (e + 1) 0 - t.get e 0) * (x - 2 ^ e) / 2 ^ e

theorem toneMap_zero : toneMap t 0 = t.get 0 0 := rfl

theorem toneMap_segment (h1 : 2 ^ e ≤ x) (h2 : x < 2 ^ (e + 1)) : toneMap t x = segment t e x := by
  have hpos : x ≠ 0 := fun h => by
    have := Nat.two_pow_pos e
    omega
  have hlog : Nat.log2 x = e := (Nat.log2_eq_iff hpos).mpr ⟨h1, h2⟩
  rw [toneMap, if_neg hpos, hlog]
  rfl

theorem segment_mono {x' : Nat} (h : x' ≤ x) : segment t e x' ≤ segment t e x :=
  Nat.add_le_add_left (Nat.div_le_div_right (Nat.mul_le_mul_left _ (by omega))) _

theorem segment_le (hn : t.get e 0 ≤ t.get (e + 1) 0) (h : x < 2 ^ (e + 1)) : segment t e x ≤ t.get (e + 1) 0 := by
  have hle : (t.get (e + 1) 0 - t.get e 0) * (x - 2 ^ e) / 2 ^ e ≤ t.get (e + 1) 0 - t.get e 0 := by
    refine Nat.div_le_of_le_mul ?_
    rw [Nat.mul_comm (2 ^ e)]
    exact Nat.mul_le_mul_left _ (by rw [Nat.pow_succ] at h; omega)
  rw [segment]
  omega

/-- The nodes of a rising curve, node by node (L5). -/
theorem risingFrom_getElem {l : List Nat} : ∀ {lo : Nat}, risingFrom lo l = true →
    (∀ i (h : i < l.length), lo ≤ l[i] ∧ l[i] ≤ 1023) ∧
      ∀ i (h : i + 1 < l.length), l[i] ≤ l[i + 1] := by
  induction l with
  | nil => exact fun _ => ⟨fun i h => absurd h (Nat.not_lt_zero i), fun i h => absurd h (Nat.not_lt_zero _)⟩
  | cons x rest ih =>
    intro lo h
    simp only [risingFrom, Bool.and_eq_true, decide_eq_true_eq] at h
    obtain ⟨⟨hlo, htop⟩, hrest⟩ := h
    obtain ⟨hbound, hstep⟩ := ih hrest
    refine ⟨fun i hi => ?_, fun i hi => ?_⟩
    · cases i with
      | zero => exact ⟨hlo, htop⟩
      | succ i =>
        obtain ⟨hge, hle⟩ := hbound i (by simpa using hi)
        exact ⟨hlo.trans hge, hle⟩
    · cases i with
      | zero => exact (hbound 0 (by simpa using hi)).1
      | succ i => exact hstep i (by simpa using hi)

theorem curveOk_nodes (h : curveOk t = true) :
    (∀ i ≤ 20, t.get i 0 ≤ 1023) ∧ ∀ i < 20, t.get i 0 ≤ t.get (i + 1) 0 := by
  obtain ⟨hbound, hstep⟩ := risingFrom_getElem h
  have hget : ∀ i (hi : i < t.list.length), t.get i 0 = t.list[i] := fun i hi => List.getD_eq_getElem _ _ hi
  have hlen := t.len
  refine ⟨fun i hi => ?_, fun i hi => ?_⟩
  · rw [hget i (by omega)]
    exact (hbound i _).2
  · rw [hget i (by omega), hget (i + 1) (by omega)]
    exact hstep i _

theorem nodes_mono (h : curveOk t = true) {i j : Nat} (hij : i ≤ j) (hj : j ≤ 20) : t.get i 0 ≤ t.get j 0 := by
  obtain ⟨-, hstep⟩ := curveOk_nodes h
  induction j, hij using Nat.le_induction with
  | base => exact le_rfl
  | succ j hij ih => exact (ih (by omega)).trans (hstep j (by omega))

/-- The octave of a value in the range of the curve. -/
theorem octave (hpos : 0 < x) (h : x ≤ 1048575) : ∃ e < 20, 2 ^ e ≤ x ∧ x < 2 ^ (e + 1) :=
  ⟨Nat.log2 x, (Nat.log2_lt hpos.ne').mpr (by omega), Nat.log2_self_le hpos.ne', Nat.lt_log2_self⟩

/-- A value at or above the octave of another is not mapped below it. -/
theorem toneMap_bounds (h : curveOk t = true) (he : e < 20) (h1 : 2 ^ e ≤ x) (h2 : x < 2 ^ (e + 1)) :
    t.get e 0 ≤ toneMap t x ∧ toneMap t x ≤ t.get (e + 1) 0 := by
  rw [toneMap_segment h1 h2]
  exact ⟨Nat.le_add_right _ _, segment_le (nodes_mono h (Nat.le_succ e) (by omega)) h2⟩

theorem toneMap_le (h : curveOk t = true) (hx : x ≤ 1048575) : toneMap t x ≤ 1023 := by
  obtain ⟨hbound, -⟩ := curveOk_nodes h
  rcases Nat.eq_zero_or_pos x with rfl | hpos
  · exact hbound 0 (by omega)
  · obtain ⟨e, he, h1, h2⟩ := octave hpos hx
    exact (toneMap_bounds h he h1 h2).2.trans (hbound (e + 1) (by omega))

theorem toneMap_mono (h : curveOk t = true) (hx : x ≤ 1048575) {x' : Nat} (hle : x' ≤ x) : toneMap t x' ≤ toneMap t x := by
  rcases Nat.eq_zero_or_pos x with rfl | hpos
  · rw [Nat.le_zero.mp hle]
  obtain ⟨e, he, h1, h2⟩ := octave hpos hx
  rcases Nat.eq_zero_or_pos x' with rfl | hpos'
  · exact (nodes_mono h (Nat.zero_le e) (by omega)).trans (toneMap_bounds h he h1 h2).1
  obtain ⟨e', he', h1', h2'⟩ := octave hpos' (hle.trans hx)
  rcases Nat.lt_trichotomy e' e with hlt | rfl | hgt
  · exact (toneMap_bounds h he' h1' h2').2.trans
      ((nodes_mono h hlt (by omega)).trans (toneMap_bounds h he h1 h2).1)
  · rw [toneMap_segment h1 h2, toneMap_segment h1' h2']
    exact segment_mono hle
  · have : 2 ^ (e + 1) ≤ 2 ^ e' := Nat.pow_le_pow_right (by decide) hgt
    omega

end

end Sys2Proof.Proofs.Pixels

/-! ## PROOFS: the containers of a burst and the record -/

namespace Sys2Proof.Proofs.Pixels

open Sys2Proof Sys2Proof.Machine Sys2Proof.Safety Sys2Proof.Laws Sys2Proof.Proofs.Steps

section
variable {g : CaptureCfg} {v : DevCfg} {p : Snapshot} {r : Stats} {lo hi z : OffByte} {e : Nat} {x : Container}

/-- A container at an even offset lies in the frame and holds a pixel (R2, R10). -/
abbrev Pixel (g : CaptureCfg) (e : Nat) : Prop :=
  e < g.area ∧ e / g.pitch < g.height ∧ e % g.pitch / 2 < g.width

theorem activeAt_iff : activeAt g e = true ↔ e / g.pitch < g.height ∧ e % g.pitch / 2 < g.width := by
  rw [activeAt, Bool.and_eq_true, decide_eq_true_eq, decide_eq_true_eq, lineOf, colOf]

/-! ### What becomes of a container (R10, R28) -/

theorem fate_beyond (h : g.area ≤ x.off) : fate g x = .beyond := if_pos h

theorem fate_blank (h : x.off < g.area) (hn : ¬Pixel g x.off) : fate g x = .carry := by
  have hna : ¬activeAt g x.off = true := fun ha => hn ⟨h, activeAt_iff.mp ha⟩
  rw [fate.eq_def, if_neg (Nat.not_le.mpr h), if_neg hna]

theorem fate_both (h : Pixel g lo.off) :
    fate g (.both lo hi) =
      if lo.strb && hi.strb then .develop (rawCode lo hi) else if lo.strb || hi.strb then .half else .carry := by
  obtain ⟨harea, hact⟩ := h
  have hoff : (Container.both lo hi).off = lo.off := rfl
  rw [fate, if_neg (by rw [hoff]; omega), if_pos (by rw [hoff]; exact activeAt_iff.mpr hact)]

theorem fate_one (h : Pixel g (z.off / 2 * 2)) : fate g (.one z) = if z.strb then .half else .carry := by
  obtain ⟨harea, hact⟩ := h
  have hoff : (Container.one z).off = z.off / 2 * 2 := rfl
  rw [fate, if_neg (by rw [hoff]; omega), if_pos (by rw [hoff]; exact activeAt_iff.mpr hact)]

theorem fate_both_develop (h : Pixel g lo.off) (h1 : lo.strb = true) (h2 : hi.strb = true) :
    fate g (.both lo hi) = .develop (rawCode lo hi) := by
  rw [fate_both h, h1, h2]
  rfl

theorem fate_both_half (h : Pixel g lo.off) (hne : lo.strb ≠ hi.strb) : fate g (.both lo hi) = .half := by
  rw [fate_both h]
  cases h1 : lo.strb with
  | true => simp [show hi.strb = false by rw [h1] at hne; simpa using hne.symm]
  | false => simp [show hi.strb = true by rw [h1] at hne; simpa using hne.symm]

theorem fate_both_carry (hin : lo.off < g.area) (h : ¬Pixel g lo.off ∨ lo.strb = false ∧ hi.strb = false) :
    fate g (.both lo hi) = .carry := by
  by_cases hp : Pixel g lo.off
  · obtain ⟨h1, h2⟩ := h.resolve_left (not_not_intro hp)
    rw [fate_both hp, h1, h2]
    rfl
  · exact fate_blank hin hp

theorem fate_one_half (h : Pixel g (z.off / 2 * 2)) (hs : z.strb = true) : fate g (.one z) = .half := by
  rw [fate_one h, if_pos hs]

theorem fate_one_carry (hin : z.off / 2 * 2 < g.area) (h : ¬Pixel g (z.off / 2 * 2) ∨ z.strb = false) :
    fate g (.one z) = .carry := by
  by_cases hp : Pixel g (z.off / 2 * 2)
  · rw [fate_one hp, h.resolve_left (not_not_intro hp)]
    rfl
  · exact fate_blank hin hp

/-! ### A container developed (R28, R36) -/

/-- The record after a container strobed in part (R28). -/
def onePartial (r : Stats) : Stats := { r with partials := min 4294967295 (r.partials + 1) }

/-- A byte as it leaves beyond the frame (R10). -/
def unstrobed (z : OffByte) : OffByte := { z with strb := false }

theorem developContainer_half (h : fate g x = .half) : developContainer g v p x r = (emit x .half 0, onePartial r) := by
  rw [developContainer, h]
  rfl

theorem developContainer_carry (h : fate g x = .carry) : developContainer g v p x r = (emit x .carry 0, r) := by
  rw [developContainer, h]

theorem developContainer_beyond (h : fate g x = .beyond) : developContainer g v p x r = (emit x .beyond 0, r) := by
  rw [developContainer, h]

theorem rawCode_eq : rawCode lo hi = (lo.val.toNat + 256 * hi.val.toNat) % 4096 := rfl

/-- The gained value of a whole container (R31 to R33). -/
def gainedAt (g : CaptureCfg) (v : DevCfg) (lo hi : OffByte) : Nat :=
  gainedValue v (lo.off / g.pitch) (lo.off % g.pitch / 2) ((lo.val.toNat + 256 * hi.val.toNat) % 4096)

/-- The tile of the container at an offset (R34). -/
def tileAt (g : CaptureCfg) (e : Nat) : Nat :=
  e / g.pitch * 8 / g.height * 16 + e % g.pitch / 2 * 16 / g.width

theorem developContainer_develop (h : Pixel g lo.off) (h1 : lo.strb = true) (h2 : hi.strb = true) :
    developContainer g v p (.both lo hi) r =
      (emit (.both lo hi) (.develop (rawCode lo hi)) (developed v p (tileAt g lo.off) (gainedAt g v lo hi)),
        countDevelopment g v (lo.off / g.pitch) (lo.off % g.pitch / 2) (rawCode lo hi) (gainedAt g v lo hi) r) := by
  rw [developContainer, fate_both_develop h h1 h2]
  rfl

theorem emit_develop (h1 : lo.strb = true) (h2 : hi.strb = true) (c y : Nat) :
    emit (.both lo hi) (.develop c) y = [⟨lo.off, BitVec.ofNat 8 y, true⟩, ⟨hi.off, BitVec.ofNat 8 (y / 256), true⟩] := by
  simp [emit, byteOf, h1, h2]

/-! ### The record after a development (R38 to R40) -/

section
variable {line col c vg : Nat}

theorem inRoi_iff :
    inRoi v line col = true ↔ v.roiY0 ≤ line ∧ line < v.roiY1 ∧ v.roiX0 ≤ col ∧ col < v.roiX1 := by
  simp only [inRoi, Bool.and_eq_true, decide_eq_true_eq, and_assoc]

theorem binOf_eq (h : e = 0 ∧ vg = 0 ∨ 2 ^ e ≤ vg ∧ vg < 2 ^ (e + 1)) : binOf vg = e := by
  rcases h with ⟨rfl, rfl⟩ | ⟨h1, h2⟩
  · rfl
  · have hne : vg ≠ 0 := fun h0 => by
      have := Nat.two_pow_pos e
      omega
    rw [binOf, if_neg hne]
    exact (Nat.log2_eq_iff hne).mpr ⟨h1, h2⟩

theorem countDevelopment_inside (h : inRoi v line col = true) :
    (countDevelopment g v line col c vg r).total = min 4294967295 (r.total + 1) ∧
      (countDevelopment g v line col c vg r).hist =
        r.hist.set (binOf vg) (min 4294967295 (r.hist.get (binOf vg) 0 + 1)) :=
  ⟨if_pos h, if_pos h⟩

theorem countDevelopment_outside (h : ¬inRoi v line col = true) :
    (countDevelopment g v line col c vg r).total = r.total ∧
      (countDevelopment g v line col c vg r).hist = r.hist :=
  ⟨if_neg h, if_neg h⟩

end

end

end Sys2Proof.Proofs.Pixels

/-! ## PROOFS: the bytes of a burst, by address -/

namespace Sys2Proof.Proofs.Pixels

open Sys2Proof Sys2Proof.Machine Sys2Proof.Safety Sys2Proof.Laws Sys2Proof.Proofs.Steps
open Sys2Proof.Proofs.Bursts

section
variable {b : Burst} {n k a off : Nat}

/-! ### The addresses of a beat (R172) -/

/-- The unit of an address is the aligned start of its beat. -/
theorem beat_unit (hk : b.kind = .incr) (n : Nat) :
    beatAddr b n / b.size.bytes * b.size.bytes = burstAligned b + n * b.size.bytes := by
  rcases Nat.eq_zero_or_pos n with rfl | hn
  · rw [beatAddr_start (.inl rfl), burstAligned, Nat.zero_mul, Nat.add_zero]
  · rw [beatAddr_incr hn hk, burstAligned, ← Nat.add_mul, Nat.mul_div_cancel _ (bytes_pos _)]

theorem beatAddr_succ (hk : b.kind = .incr) (n : Nat) :
    beatAddr b (n + 1) = burstAligned b + n * b.size.bytes + b.size.bytes := by
  rw [beatAddr_incr (Nat.succ_pos n) hk, Nat.succ_mul, Nat.add_assoc]

/-- A beat lies in its unit. -/
theorem beatAddr_bounds (hk : b.kind = .incr) (n : Nat) :
    burstAligned b + n * b.size.bytes ≤ beatAddr b n ∧ beatAddr b n < beatAddr b (n + 1) := by
  have hunit := beat_unit hk n
  obtain ⟨hle, hlt⟩ := aligned_le (beatAddr b n) (bytes_pos b.size)
  rw [beatAddr_succ hk]
  omega

theorem beatAddr_mono (hk : b.kind = .incr) {m : Nat} (h : n ≤ m) : beatAddr b n ≤ beatAddr b m :=
  monotone_nat_of_le_succ (f := beatAddr b) (fun n => (beatAddr_bounds hk n).2.le) h

/-- A unit does not cross a boundary of eight bytes. -/
theorem unit_lanes (z : BeatSize) (q : Nat) : q * z.bytes % 8 + z.bytes ≤ 8 := by
  rcases bytes_cases z with h | h | h | h
  · rw [h]; omega
  · rw [h]; omega
  · rw [h]; omega
  · rw [h]; omega

/-- The lanes from one lane to another. -/
theorem lanes_between : ∀ lo < 8, ∀ hi < 8,
    ((List.range 8).filter fun k => decide (lo ≤ k) && decide (k ≤ hi)) = List.range' lo (hi + 1 - lo) := by
  decide

/-- The lanes of a beat begin at that of its address, and are as many as its bytes. -/
theorem lanes_of_beat (hk : b.kind = .incr) (n : Nat) :
    (List.range 8).filter (inLane b n) = List.range' (beatAddr b n % 8) (beatAddr b (n + 1) - beatAddr b n) := by
  have hunit := beat_unit hk n
  have hsucc := beatAddr_succ hk n
  obtain ⟨hle, hlt⟩ := beatAddr_bounds hk n
  have hfit := unit_lanes b.size (beatAddr b n / b.size.bytes)
  have hpos := bytes_pos b.size
  have hlanes := lanes_between (beatAddr b n % 8) (Nat.mod_lt _ (by decide))
    (beatAddr b n / b.size.bytes * b.size.bytes % 8 + b.size.bytes - 1) (by omega)
  have hfun : inLane b n = fun k => decide (beatAddr b n % 8 ≤ k) &&
      decide (k ≤ beatAddr b n / b.size.bytes * b.size.bytes % 8 + b.size.bytes - 1) := rfl
  rw [hfun, hlanes]
  congr 1
  omega

/-- The address of lane `k` in beat `n`. -/
def laneAddr (b : Burst) (n k : Nat) : Nat := beatAddr b n / 8 * 8 + k

/-- The addresses of a beat are those of its lanes. -/
theorem addrs_of_beat (hk : b.kind = .incr) (n : Nat) :
    List.range' (beatAddr b n) (beatAddr b (n + 1) - beatAddr b n) =
      ((List.range 8).filter (inLane b n)).map (laneAddr b n) := by
  have hmap : laneAddr b n = (beatAddr b n / 8 * 8 + ·) := rfl
  rw [lanes_of_beat hk, hmap, List.map_add_range', Nat.div_add_mod']

theorem laneAddr_mod (h : k < 8) : laneAddr b n k % 8 = k := by
  rw [laneAddr]
  omega

/-- The beat an address lies in. -/
def beatOf (b : Burst) (a : Nat) : Nat := (a - burstAligned b) / b.size.bytes

theorem beatOf_eq (hk : b.kind = .incr) (h1 : beatAddr b n ≤ a) (h2 : a < beatAddr b (n + 1)) : beatOf b a = n := by
  obtain ⟨hle, -⟩ := beatAddr_bounds hk n
  rw [beatAddr_succ hk] at h2
  rw [beatOf, Nat.div_eq_iff (bytes_pos b.size)]
  omega

theorem beat_of_addr (hk : b.kind = .incr) {len : Nat} (h1 : burstStart b ≤ a) (h2 : a < beatAddr b len) :
    beatOf b a < len ∧ beatAddr b (beatOf b a) ≤ a ∧ a < beatAddr b (beatOf b a + 1) := by
  have hstart : beatAddr b 0 = burstStart b := beatAddr_start (.inl rfl)
  induction len with
  | zero => omega
  | succ len ih =>
    rcases Nat.lt_or_ge a (beatAddr b len) with hlt | hge
    · obtain ⟨h, hb⟩ := ih hlt
      exact ⟨h.trans (Nat.lt_succ_self _), hb⟩
    · rw [beatOf_eq hk hge h2]
      exact ⟨Nat.lt_succ_self _, hge, h2⟩

/-- An address of a beat lies in one of its lanes. -/
theorem lane_of_addr (hk : b.kind = .incr) (h1 : beatAddr b n ≤ a) (h2 : a < beatAddr b (n + 1)) :
    inLane b n (a % 8) = true ∧ laneAddr b n (a % 8) = a := by
  have hmem : a ∈ List.range' (beatAddr b n) (beatAddr b (n + 1) - beatAddr b n) :=
    List.mem_range'_1.mpr ⟨h1, by omega⟩
  rw [addrs_of_beat hk, List.mem_map] at hmem
  obtain ⟨k, hmem, rfl⟩ := hmem
  obtain ⟨h8, hlane⟩ := List.mem_filter.mp hmem
  rw [laneAddr_mod (List.mem_range.mp h8)]
  exact ⟨hlane, rfl⟩

/-! ### The bytes that arrive -/

/-- The byte and the strobe at an address, of the beats of a burst. -/
def carried (b : Burst) (bs : List Beat) (a : Nat) : Byte × Bool :=
  ((bs.getD (beatOf b a) ⟨0, 0⟩).byte (a % 8), (bs.getD (beatOf b a) ⟨0, 0⟩).strobed (a % 8))

/-- The byte at an address, with its offset. -/
def arriving (b : Burst) (off : Nat) (bs : List Beat) (a : Nat) : OffByte :=
  ⟨off + (a - burstStart b), (carried b bs a).1, (carried b bs a).2⟩

theorem beatBytes_eq (hk : b.kind = .incr) {bs : List Beat} {bt : Beat} (hbt : bs.getD n ⟨0, 0⟩ = bt) :
    beatBytes b off n bt =
      (List.range' (beatAddr b n) (beatAddr b (n + 1) - beatAddr b n)).map (arriving b off bs) := by
  rw [addrs_of_beat hk, List.map_map, ← List.filterMap_eq_map, List.filterMap_filter, beatBytes]
  refine List.filterMap_congr fun k hmem => ?_
  have h8 := List.mem_range.mp hmem
  by_cases hin : inLane b n k = true
  · have haddr : laneAddr b n k ∈ List.range' (beatAddr b n) (beatAddr b (n + 1) - beatAddr b n) := by
      rw [addrs_of_beat hk]
      exact List.mem_map_of_mem (List.mem_filter.mpr ⟨hmem, hin⟩)
    obtain ⟨h1, h2⟩ := List.mem_range'_1.mp haddr
    have hbeat : beatOf b (laneAddr b n k) = n := beatOf_eq hk h1 (by omega)
    rw [if_pos hin, if_pos hin, Function.comp_apply, Function.comp_apply, arriving, carried, hbeat, hbt,
      laneAddr_mod h8]
    rfl
  · rw [if_neg hin, if_neg hin]

/-- The addresses of the beats from one on: those of the beat, then those of the others. -/
theorem addrs_split (hk : b.kind = .incr) {m : Nat} (h : n + 1 ≤ m) :
    List.range' (beatAddr b n) (beatAddr b m - beatAddr b n) =
      List.range' (beatAddr b n) (beatAddr b (n + 1) - beatAddr b n) ++
        List.range' (beatAddr b (n + 1)) (beatAddr b m - beatAddr b (n + 1)) := by
  obtain ⟨-, hlt⟩ := beatAddr_bounds hk n
  have hle := beatAddr_mono hk h
  have hjoin := List.range'_append_1 (s := beatAddr b n) (m := beatAddr b (n + 1) - beatAddr b n)
    (n := beatAddr b m - beatAddr b (n + 1))
  rw [show beatAddr b n + (beatAddr b (n + 1) - beatAddr b n) = beatAddr b (n + 1) by omega] at hjoin
  rw [hjoin]
  congr 1
  omega

theorem burstBytes_eq (hk : b.kind = .incr) {bs : List Beat} : ∀ {rest : List Beat} {n : Nat},
    (∀ i (h : i < rest.length), bs.getD (n + i) ⟨0, 0⟩ = rest[i]) →
    burstBytes b off rest n =
      (List.range' (beatAddr b n) (beatAddr b (n + rest.length) - beatAddr b n)).map (arriving b off bs)
  | [], n, _ => by simp [burstBytes]
  | bt :: rest, n, h => by
    have hhead : bs.getD n ⟨0, 0⟩ = bt := h 0 (by simp)
    have htail : ∀ i (hi : i < rest.length), bs.getD (n + 1 + i) ⟨0, 0⟩ = rest[i] := fun i hi => by
      rw [Nat.add_assoc, Nat.add_comm 1]
      exact h (i + 1) (by simpa using hi)
    have hlen : n + (bt :: rest).length = n + 1 + rest.length := by
      rw [List.length_cons]
      omega
    rw [burstBytes, beatBytes_eq hk hhead, burstBytes_eq hk htail, hlen, ← List.map_append,
      ← addrs_split hk (Nat.le_add_right (n + 1) rest.length)]

end

end Sys2Proof.Proofs.Pixels

/-! ## PROOFS: the beats of a burst as they leave -/

namespace Sys2Proof.Proofs.Pixels

open Sys2Proof Sys2Proof.Machine Sys2Proof.Safety Sys2Proof.Laws Sys2Proof.Proofs.Steps
open Sys2Proof.Proofs.Bursts

/-! ### The lanes of a beat -/

section
variable {mine : Nat → Bool} {l : Byte × Bool} {ls : List (Byte × Bool)} {k : Nat} {o : OffByte}

theorem fillLanes_mine {out : List OffByte} (h : mine k = true) :
    fillLanes mine (l :: ls) k (o :: out) =
      ((o.val, o.strb) :: (fillLanes mine ls (k + 1) out).1, (fillLanes mine ls (k + 1) out).2) := by
  rw [fillLanes, if_pos h]

theorem fillLanes_nil : (fillLanes mine ls k []).2 = [] := by
  cases ls <;> rfl

theorem fillLanes_other {out : List OffByte} (h : mine k = false) :
    fillLanes mine (l :: ls) k out =
      (l :: (fillLanes mine ls (k + 1) out).1, (fillLanes mine ls (k + 1) out).2) := by
  cases out with
  | nil => rw [fillLanes_nil]; rfl
  | cons o out => rw [fillLanes, if_neg (by rw [h]; decide)]

/-- Bytes given for the lanes of a beat take their places, and no more of them are used. -/
theorem fillLanes_eq (f : Nat → Byte × Bool) (h : Nat → OffByte) (rest : List OffByte) : ∀ m k,
    fillLanes mine ((List.range' k m).map f) k (((List.range' k m).filter mine).map h ++ rest) =
      ((List.range' k m).map fun j => if mine j then ((h j).val, (h j).strb) else f j, rest)
  | 0, k => by cases rest <;> rfl
  | m + 1, k => by
    rw [List.range'_succ, List.map_cons, List.map_cons]
    cases hm : mine k with
    | true =>
      rw [List.filter_cons_of_pos hm, List.map_cons, List.cons_append, fillLanes_mine hm, fillLanes_eq f h rest m,
        if_pos rfl]
    | false =>
      rw [List.filter_cons_of_neg (by rw [hm]; decide), fillLanes_other hm, fillLanes_eq f h rest m,
        if_neg (by decide)]

end

section
variable {b : Burst} {n k a : Nat} {H : Nat → OffByte} {bt : Beat}

/-- A beat with the bytes given in the lanes of the burst. -/
def replaced (b : Burst) (H : Nat → OffByte) (n : Nat) (bt : Beat) : Beat :=
  Beat.ofLanes ((List.range 8).map fun k =>
    if inLane b n k then ((H (laneAddr b n k)).val, (H (laneAddr b n k)).strb) else (bt.byte k, bt.strobed k))

theorem fillLanes_beat (hk : b.kind = .incr) (rest : List OffByte) :
    fillLanes (inLane b n) bt.lanes 0
        ((List.range' (beatAddr b n) (beatAddr b (n + 1) - beatAddr b n)).map H ++ rest) =
      ((List.range 8).map fun k =>
        if inLane b n k then ((H (laneAddr b n k)).val, (H (laneAddr b n k)).strb) else (bt.byte k, bt.strobed k),
        rest) := by
  rw [addrs_of_beat hk, List.map_map, Beat.lanes, List.range_eq_range']
  exact fillLanes_eq _ _ _ 8 0

theorem refill_eq (hk : b.kind = .incr) : ∀ (bs : List Beat) (n : Nat),
    refill b bs n ((List.range' (beatAddr b n) (beatAddr b (n + bs.length) - beatAddr b n)).map H) =
      bs.mapIdx fun i bt => replaced b H (n + i) bt
  | [], n => rfl
  | bt :: bs, n => by
    have hlen : n + (bt :: bs).length = n + 1 + bs.length := by
      rw [List.length_cons]
      omega
    have hidx : (fun i => replaced b H (n + (i + 1))) = fun i => replaced b H (n + 1 + i) := by
      funext i
      rw [Nat.add_assoc, Nat.add_comm 1]
    rw [refill, hlen, addrs_split hk (Nat.le_add_right (n + 1) bs.length), List.map_append, fillLanes_beat hk,
      List.mapIdx_cons, hidx, ← refill_eq hk bs (n + 1)]
    rfl

theorem replaced_lane (h : k < 8) :
    ((replaced b H n bt).byte k, (replaced b H n bt).strobed k) =
      if inLane b n k then ((H (laneAddr b n k)).val, (H (laneAddr b n k)).strb) else (bt.byte k, bt.strobed k) := by
  rw [replaced, byte_ofLanes (by simp), strobed_ofLanes _ h, List.getD_eq_getElem _ _ (by simpa using h),
    List.getElem_map, List.getElem_range]

theorem getD_mapIdx {f : Nat → Beat → Beat} {bs : List Beat} {d : Beat} (h : n < bs.length) :
    (bs.mapIdx f).getD n d = f n (bs.getD n d) := by
  rw [List.getD_eq_getElem _ _ (by simpa using h), List.getElem_mapIdx, List.getD_eq_getElem _ _ h]

/-- What leaves at an address of the burst is the byte given for it. -/
theorem carried_mapIdx (hk : b.kind = .incr) {bs : List Beat} (h1 : burstStart b ≤ a)
    (h2 : a < beatAddr b bs.length) : carried b (bs.mapIdx (replaced b H)) a = ((H a).val, (H a).strb) := by
  obtain ⟨hlen, hlo, hhi⟩ := beat_of_addr hk h1 h2
  obtain ⟨hin, haddr⟩ := lane_of_addr hk hlo hhi
  rw [carried, getD_mapIdx hlen, replaced_lane (Nat.mod_lt _ (by decide)), if_pos hin, haddr]

end

end Sys2Proof.Proofs.Pixels

/-! ## PROOFS: the containers of a run of bytes -/

namespace Sys2Proof.Proofs.Pixels

open Sys2Proof Sys2Proof.Machine Sys2Proof.Safety Sys2Proof.Laws Sys2Proof.Proofs.Steps

section
variable {lo hi e o n j : Nat} {mk : Nat → OffByte}

/-- An offset lies in a run. -/
abbrev Inside (lo hi o : Nat) : Prop := lo ≤ o ∧ o < hi

/-- The container at even offset `e` of the run of the bytes `mk` from `lo` to before `hi` (R28). -/
def containerAt (lo hi : Nat) (mk : Nat → OffByte) (e : Nat) : Container :=
  if Inside lo hi e ∧ Inside lo hi (e + 1) then .both (mk e) (mk (e + 1))
  else if Inside lo hi e then .one (mk e)
  else .one (mk (e + 1))

theorem containerAt_both (h1 : Inside lo hi e) (h2 : Inside lo hi (e + 1)) :
    containerAt lo hi mk e = .both (mk e) (mk (e + 1)) := if_pos ⟨h1, h2⟩

theorem containerAt_lower (h1 : Inside lo hi e) (h2 : ¬Inside lo hi (e + 1)) :
    containerAt lo hi mk e = .one (mk e) := by
  rw [containerAt, if_neg fun h => h2 h.2, if_pos h1]

theorem containerAt_upper (h1 : ¬Inside lo hi e) : containerAt lo hi mk e = .one (mk (e + 1)) := by
  rw [containerAt, if_neg fun h => h1 h.1, if_neg h1]

/-! ### Bytes taken as containers -/

theorem pairUp_odd {x : OffByte} {l : List OffByte} (h : x.off % 2 = 1) : pairUp (x :: l) = .one x :: pairUp l := by
  cases l with
  | nil => rfl
  | cons y rest => rw [pairUp, if_neg (by omega)]

/-- A run from an even offset; the whole of it may begin earlier. -/
theorem pairUp_even (hmk : ∀ o, (mk o).off = o) : ∀ n j, lo ≤ j * 2 →
    pairUp ((List.range' (j * 2) n).map mk) =
      (List.range' j ((n + 1) / 2)).map fun k => containerAt lo (j * 2 + n) mk (k * 2)
  | 0, j, _ => rfl
  | 1, j, h => by
    rw [show (1 + 1) / 2 = 1 by rfl, List.range'_one, List.range'_one, List.map_singleton, List.map_singleton, pairUp,
      containerAt_lower ⟨h, by omega⟩ (by omega)]
  | n + 2, j, h => by
    rw [show (n + 2 + 1) / 2 = (n + 1) / 2 + 1 by omega, List.range'_succ, List.range'_succ, List.range'_succ,
      List.map_cons, List.map_cons, List.map_cons, pairUp, if_pos (by rw [hmk]; omega),
      containerAt_both ⟨h, by omega⟩ ⟨by omega, by omega⟩, show j * 2 + 1 + 1 = (j + 1) * 2 by omega,
      pairUp_even hmk n (j + 1) (by omega), show (j + 1) * 2 + n = j * 2 + (n + 2) by omega]

/-- The containers of a run, by their even offsets. -/
theorem pairUp_run (hmk : ∀ o, (mk o).off = o) (hn : 0 < n) :
    pairUp ((List.range' lo n).map mk) =
      (List.range' (lo / 2) ((lo + n + 1) / 2 - lo / 2)).map fun k => containerAt lo (lo + n) mk (k * 2) := by
  rcases Nat.mod_two_eq_zero_or_one lo with h | h
  · have heven := pairUp_even (lo := lo) hmk n (lo / 2) (by omega)
    rw [show lo / 2 * 2 = lo by omega] at heven
    rw [heven, show (lo + n + 1) / 2 - lo / 2 = (n + 1) / 2 by omega]
  · obtain ⟨m, rfl⟩ : ∃ m, n = m + 1 := ⟨n - 1, by omega⟩
    have heven := pairUp_even (lo := lo) hmk m (lo / 2 + 1) (by omega)
    rw [show (lo / 2 + 1) * 2 = lo + 1 by omega] at heven
    rw [List.range'_succ, List.map_cons, pairUp_odd (by rw [hmk]; exact h), heven,
      show (lo + (m + 1) + 1) / 2 - lo / 2 = (m + 1) / 2 + 1 by omega, List.range'_succ, List.map_cons,
      containerAt_upper (by omega), show lo / 2 * 2 + 1 = lo by omega, show lo + 1 + m = lo + (m + 1) by omega]

/-- A container of a run holds a byte of it. -/
theorem inside_of_mem {k : Nat} (hn : 0 < n) (hk : k ∈ List.range' (lo / 2) ((lo + n + 1) / 2 - lo / 2)) :
    Inside lo (lo + n) (k * 2) ∨ Inside lo (lo + n) (k * 2 + 1) := by
  obtain ⟨h1, h2⟩ := List.mem_range'_1.mp hk
  omega

theorem mem_of_inside {k : Nat} (h : Inside lo (lo + n) (k * 2) ∨ Inside lo (lo + n) (k * 2 + 1)) :
    k ∈ List.range' (lo / 2) ((lo + n + 1) / 2 - lo / 2) := by
  rw [List.mem_range'_1]
  omega

/-- The bytes of a container, in order. -/
def bytesOf : Container → List OffByte
  | .both a b => [a, b]
  | .one a => [a]

/-- The containers of a run hold its bytes, in their order. -/
theorem bytesOf_pairUp : ∀ l : List OffByte, (pairUp l).flatMap bytesOf = l
  | [] => rfl
  | [x] => rfl
  | x :: y :: rest => by
    rw [pairUp]
    split
    · rw [List.flatMap_cons, bytesOf_pairUp rest]
      rfl
    · rw [List.flatMap_cons, bytesOf_pairUp (y :: rest)]
      rfl

theorem containerAt_off (hmk : ∀ o, (mk o).off = o) (he : e % 2 = 0) : (containerAt lo hi mk e).off = e := by
  by_cases h1 : Inside lo hi e
  · by_cases h2 : Inside lo hi (e + 1)
    · rw [containerAt_both h1 h2, Container.off, hmk]
    · rw [containerAt_lower h1 h2, Container.off, hmk]
      omega
  · rw [containerAt_upper h1, Container.off, hmk]
    omega

end

end Sys2Proof.Proofs.Pixels

/-! ## PROOFS: what leaves of a run of bytes -/

namespace Sys2Proof.Proofs.Pixels

open Sys2Proof Sys2Proof.Machine Sys2Proof.Safety Sys2Proof.Laws Sys2Proof.Proofs.Steps

section
variable {g : CaptureCfg} {v : DevCfg} {p : Snapshot} {r r' : Stats} {lo hi e o n : Nat} {mk : Nat → OffByte}
  {x : Container} {a c : OffByte}

/-- The byte at an offset is carried, and strobed. -/
abbrev Present (lo hi : Nat) (mk : Nat → OffByte) (o : Nat) : Prop := Inside lo hi o ∧ (mk o).strb = true

theorem present_iff (h : Inside lo hi o) : Present lo hi mk o ↔ (mk o).strb = true := and_iff_right h

theorem not_present (h : ¬Inside lo hi o) : ¬Present lo hi mk o := fun hp => h hp.1

/-- The container at `e` is developed (R28). -/
abbrev Whole (g : CaptureCfg) (lo hi : Nat) (mk : Nat → OffByte) (e : Nat) : Prop :=
  Pixel g e ∧ Present lo hi mk e ∧ Present lo hi mk (e + 1)

/-- The container at `e` is strobed in part (R28). -/
abbrev Partly (g : CaptureCfg) (lo hi : Nat) (mk : Nat → OffByte) (e : Nat) : Prop :=
  e % 2 = 0 ∧ Pixel g e ∧
    (Present lo hi mk e ∧ ¬Present lo hi mk (e + 1) ∨ ¬Present lo hi mk e ∧ Present lo hi mk (e + 1))

theorem partly_iff (he : e % 2 = 0) (hp : Pixel g e) :
    Partly g lo hi mk e ↔
      Present lo hi mk e ∧ ¬Present lo hi mk (e + 1) ∨ ¬Present lo hi mk e ∧ Present lo hi mk (e + 1) :=
  ⟨fun h => h.2.2, fun h => ⟨he, hp, h⟩⟩

/-! ### The record does not touch the bytes -/

theorem developContainer_bytes : (developContainer g v p x r).1 = (developContainer g v p x r').1 := by
  rw [developContainer, developContainer]
  cases fate g x with
  | develop c => rfl
  | half => rfl
  | carry => rfl
  | beyond => rfl

theorem developAll_bytes : ∀ (xs : List Container) (r : Stats),
    (developAll g v p xs r).1 = xs.flatMap fun x => (developContainer g v p x r').1
  | [], _ => rfl
  | x :: xs, r => by
    rw [developAll, List.flatMap_cons, developContainer_bytes (r := r) (r' := r'), developAll_bytes xs]

theorem developAll_record : ∀ (xs : List Container) (r : Stats),
    (developAll g v p xs r).2 = xs.foldl (fun u x => (developContainer g v p x u).2) r
  | [], _ => rfl
  | x :: xs, r => by rw [developAll, List.foldl_cons, developAll_record xs]

/-! ### The bytes of one container -/

theorem emitted_beyond (h : g.area ≤ x.off) : (developContainer g v p x r).1 = (bytesOf x).map unstrobed := by
  rw [developContainer_beyond (fate_beyond h)]
  cases x with
  | both a c => rfl
  | one a => rfl

theorem emitted_half (h : fate g x = .half) : (developContainer g v p x r).1 = bytesOf x := by
  rw [developContainer_half h]
  cases x with
  | both a c => rfl
  | one a => rfl

theorem emitted_carry (h : fate g x = .carry) : (developContainer g v p x r).1 = bytesOf x := by
  rw [developContainer_carry h]
  cases x with
  | both a c => rfl
  | one a => rfl

/-- A container within the frame that is not developed leaves as it arrived. -/
theorem emitted_both_kept (h : a.off < g.area) (hn : ¬(Pixel g a.off ∧ a.strb = true ∧ c.strb = true)) :
    (developContainer g v p (.both a c) r).1 = bytesOf (.both a c) := by
  by_cases hp : Pixel g a.off
  · by_cases hs : a.strb = c.strb
    · have hclear : a.strb = false := Bool.eq_false_iff.mpr fun ha => hn ⟨hp, ha, hs.symm.trans ha⟩
      exact emitted_carry (fate_both_carry h (.inr ⟨hclear, hs ▸ hclear⟩))
    · exact emitted_half (fate_both_half hp hs)
  · exact emitted_carry (fate_both_carry h (.inl hp))

theorem emitted_one_kept (h : a.off / 2 * 2 < g.area) :
    (developContainer g v p (.one a) r).1 = bytesOf (.one a) := by
  by_cases hp : Pixel g (a.off / 2 * 2)
  · cases hs : a.strb with
    | true => exact emitted_half (fate_one_half hp hs)
    | false => exact emitted_carry (fate_one_carry h (.inr hs))
  · exact emitted_carry (fate_one_carry h (.inl hp))

/-! ### The bytes of the run -/

/-- The developed value of the container at `e` (R31 to R35). -/
def developedAt (g : CaptureCfg) (v : DevCfg) (p : Snapshot) (mk : Nat → OffByte) (e : Nat) : Nat :=
  developed v p (tileAt g e)
    (gainedValue v (e / g.pitch) (e % g.pitch / 2)
      (((mk e).val.toNat + 256 * (mk (e + 1)).val.toNat) % 4096))

/-- The byte at an offset as it leaves (R10, R28, R36). -/
def leaving (g : CaptureCfg) (v : DevCfg) (p : Snapshot) (lo hi : Nat) (mk : Nat → OffByte) (o : Nat) : OffByte :=
  ⟨o,
    if Whole g lo hi mk (o / 2 * 2) then
      BitVec.ofNat 8 (if o = o / 2 * 2 then developedAt g v p mk (o / 2 * 2)
        else developedAt g v p mk (o / 2 * 2) / 256)
    else (mk o).val,
    (mk o).strb && decide (o / 2 * 2 < g.area)⟩

theorem leaving_beyond (hmk : ∀ o, (mk o).off = o) (h : g.area ≤ o / 2 * 2) :
    leaving g v p lo hi mk o = unstrobed (mk o) := by
  rw [leaving, if_neg fun hw => absurd hw.1.1 (by omega), decide_eq_false (by omega), Bool.and_false, unstrobed, hmk]

theorem leaving_kept (hmk : ∀ o, (mk o).off = o) (h : o / 2 * 2 < g.area) (hn : ¬Whole g lo hi mk (o / 2 * 2)) :
    leaving g v p lo hi mk o = mk o := by
  rw [leaving, if_neg hn, decide_eq_true h, Bool.and_true]
  conv => lhs; arg 1; rw [← hmk o]

theorem leaving_whole (he : e % 2 = 0) (h : Whole g lo hi mk e) :
    leaving g v p lo hi mk e = ⟨e, BitVec.ofNat 8 (developedAt g v p mk e), true⟩ ∧
      leaving g v p lo hi mk (e + 1) = ⟨e + 1, BitVec.ofNat 8 (developedAt g v p mk e / 256), true⟩ := by
  obtain ⟨hp, h1, h2⟩ := id h
  constructor
  · rw [leaving, show e / 2 * 2 = e by omega, if_pos h, if_pos rfl, h1.2, decide_eq_true hp.1]
    rfl
  · rw [leaving, show (e + 1) / 2 * 2 = e by omega, if_pos h, if_neg (by omega), h2.2, decide_eq_true hp.1]
    rfl

/-- A container of the run leaves as its bytes do. -/
theorem emitted_containerAt (hmk : ∀ o, (mk o).off = o) (he : e % 2 = 0) :
    (developContainer g v p (containerAt lo hi mk e) r).1 =
      (bytesOf (containerAt lo hi mk e)).map fun z => leaving g v p lo hi mk z.off := by
  have h0 : e / 2 * 2 = e := by omega
  have h1 : (e + 1) / 2 * 2 = e := by omega
  rcases Nat.lt_or_ge e g.area with harea | harea
  · by_cases hlow : Inside lo hi e
    · by_cases hupp : Inside lo hi (e + 1)
      · rw [containerAt_both hlow hupp, bytesOf, List.map_cons, List.map_singleton, hmk, hmk]
        by_cases hw : Whole g lo hi mk e
        · obtain ⟨hp, hs1, hs2⟩ := id hw
          obtain ⟨hl1, hl2⟩ := leaving_whole (v := v) (p := p) he hw
          rw [developContainer_develop (by rw [hmk]; exact hp) hs1.2 hs2.2, emit_develop hs1.2 hs2.2, hmk, hmk, hl1, hl2,
            gainedAt, hmk]
          rfl
        · rw [emitted_both_kept (by rw [hmk]; exact harea)
            (by rw [hmk]; exact fun h => hw ⟨h.1, ⟨hlow, h.2.1⟩, hupp, h.2.2⟩),
            leaving_kept hmk (by rw [h0]; exact harea) (by rw [h0]; exact hw),
            leaving_kept hmk (by rw [h1]; exact harea) (by rw [h1]; exact hw)]
          rfl
      · have hw : ¬Whole g lo hi mk e := fun h => hupp h.2.2.1
        rw [containerAt_lower hlow hupp, emitted_one_kept (by rw [hmk, h0]; exact harea), bytesOf, List.map_singleton, hmk,
          leaving_kept hmk (by rw [h0]; exact harea) (by rw [h0]; exact hw)]
    · have hw : ¬Whole g lo hi mk e := fun h => hlow h.2.1.1
      rw [containerAt_upper hlow, emitted_one_kept (by rw [hmk, h1]; exact harea), bytesOf, List.map_singleton, hmk,
        leaving_kept hmk (by rw [h1]; exact harea) (by rw [h1]; exact hw)]
  · rw [emitted_beyond (by rw [containerAt_off hmk he]; exact harea)]
    have hall : ∀ o, o / 2 * 2 = e → unstrobed (mk o) = leaving g v p lo hi mk (mk o).off := fun o ho => by
      rw [hmk, leaving_beyond hmk (by omega)]
    by_cases hlow : Inside lo hi e
    · by_cases hupp : Inside lo hi (e + 1)
      · rw [containerAt_both hlow hupp]
        simp only [bytesOf, List.map_cons, List.map_nil, ← hall _ h0, ← hall _ h1]
      · rw [containerAt_lower hlow hupp]
        simp only [bytesOf, List.map_cons, List.map_nil, ← hall _ h0]
    · rw [containerAt_upper hlow]
      simp only [bytesOf, List.map_cons, List.map_nil, ← hall _ h1]

/-- What leaves of the run, byte by byte. -/
theorem emitted_run (hmk : ∀ o, (mk o).off = o) (hn : 0 < n) :
    (developAll g v p (pairUp ((List.range' lo n).map mk)) r).1 =
      (List.range' lo n).map (leaving g v p lo (lo + n) mk) := by
  have hbytes : (pairUp ((List.range' lo n).map mk)).flatMap
      (fun x => (bytesOf x).map fun z => leaving g v p lo (lo + n) mk z.off) =
        (List.range' lo n).map (leaving g v p lo (lo + n) mk) := by
    rw [← List.map_flatMap, bytesOf_pairUp, List.map_map]
    exact List.map_congr_left fun o _ => by rw [Function.comp_apply, hmk]
  rw [developAll_bytes (r' := r), ← hbytes]
  refine List.flatMap_congr fun x hx => ?_
  rw [pairUp_run hmk hn] at hx
  obtain ⟨k, -, rfl⟩ := List.mem_map.mp hx
  exact emitted_containerAt hmk (Nat.mul_mod_left _ _)

theorem record_run (hmk : ∀ o, (mk o).off = o) (hn : 0 < n) :
    (developAll g v p (pairUp ((List.range' lo n).map mk)) r).2 =
      (List.range ((lo + n + 1) / 2 - lo / 2)).foldl
        (fun u k => (developContainer g v p (containerAt lo (lo + n) mk ((lo / 2 + k) * 2)) u).2) r := by
  rw [developAll_record, pairUp_run hmk hn, List.range'_eq_map_range, List.map_map, List.foldl_map]
  rfl

/-! ### The lowest container strobed in part, and the last container (R13, R29) -/

theorem partly_inside (h : Partly g lo hi mk e) : Inside lo hi e ∨ Inside lo hi (e + 1) := by
  obtain ⟨-, -, ⟨⟨hin, -⟩, -⟩ | ⟨-, hin, -⟩⟩ := h
  · exact .inl hin
  · exact .inr hin

theorem not_half_of_not_pixel (h : ¬Pixel g x.off) : fate g x ≠ .half := by
  rcases Nat.lt_or_ge x.off g.area with harea | harea
  · rw [fate_blank harea h]
    exact nofun
  · rw [fate_beyond harea]
    exact nofun

theorem fate_half_iff (hmk : ∀ o, (mk o).off = o) (he : e % 2 = 0) (hin : Inside lo hi e ∨ Inside lo hi (e + 1)) :
    fate g (containerAt lo hi mk e) = .half ↔ Partly g lo hi mk e := by
  by_cases hp : Pixel g e
  · have hboth : Pixel g (mk e).off := by rwa [hmk]
    have hlower : Pixel g ((mk e).off / 2 * 2) := by rwa [hmk, show e / 2 * 2 = e by omega]
    have hupper : Pixel g ((mk (e + 1)).off / 2 * 2) := by rwa [hmk, show (e + 1) / 2 * 2 = e by omega]
    rw [partly_iff he hp]
    by_cases hlow : Inside lo hi e
    · by_cases hupp : Inside lo hi (e + 1)
      · rw [containerAt_both hlow hupp, fate_both hboth, present_iff hlow, present_iff hupp]
        cases (mk e).strb <;> cases (mk (e + 1)).strb <;> simp
      · rw [containerAt_lower hlow hupp, fate_one hlower, present_iff hlow, iff_false_intro (not_present hupp)]
        cases (mk e).strb <;> decide
    · rw [containerAt_upper hlow, fate_one hupper, present_iff (hin.resolve_left hlow),
        iff_false_intro (not_present hlow)]
      cases (mk (e + 1)).strb <;> decide
  · exact iff_of_false (not_half_of_not_pixel (by rwa [containerAt_off hmk he])) fun h => hp h.2.1

theorem firstPartial_run (hmk : ∀ o, (mk o).off = o) (hn : 0 < n) :
    firstPartial g (pairUp ((List.range' lo n).map mk)) = some e ↔
      Partly g lo (lo + n) mk e ∧ ∀ e' < e, ¬Partly g lo (lo + n) mk e' := by
  have hpred : ∀ k ∈ List.range' (lo / 2) ((lo + n + 1) / 2 - lo / 2),
      (fate g (containerAt lo (lo + n) mk (k * 2)) == .half) = true ↔ Partly g lo (lo + n) mk (k * 2) := fun k hk => by
    rw [beq_iff_eq, fate_half_iff hmk (Nat.mul_mod_left _ _) (inside_of_mem hn hk)]
  rw [firstPartial, pairUp_run hmk hn, List.find?_map, Option.map_map, Option.map_eq_some_iff]
  simp only [List.find?_range'_eq_some, Function.comp_apply, containerAt_off hmk (Nat.mul_mod_left _ 2)]
  constructor
  · rintro ⟨k, ⟨hk, hmem, hfirst⟩, rfl⟩
    refine ⟨(hpred k hmem).mp hk, fun e' he' hpart => ?_⟩
    have heven : e' / 2 * 2 = e' := by
      have := hpart.1
      omega
    rw [← heven] at hpart
    have hmem' := mem_of_inside (partly_inside hpart)
    have hnot := hfirst (e' / 2) (List.mem_range'_1.mp hmem').1 (by omega)
    rw [(hpred _ hmem').mpr hpart] at hnot
    exact absurd hnot (by decide)
  · rintro ⟨hpart, hfirst⟩
    have heven : e / 2 * 2 = e := by
      have := hpart.1
      omega
    rw [← heven] at hpart
    have hmem := mem_of_inside (partly_inside hpart)
    refine ⟨e / 2, ⟨(hpred _ hmem).mpr hpart, hmem, fun j hj hlt => ?_⟩, heven⟩
    have hmem' : j ∈ List.range' (lo / 2) ((lo + n + 1) / 2 - lo / 2) := by
      rw [List.mem_range'_1] at hmem ⊢
      omega
    exact Bool.not_eq_true' _ ▸ Bool.eq_false_iff.mpr fun h => hfirst (j * 2) (by omega) ((hpred j hmem').mp h)

theorem strobes_pos_iff (hin : Inside lo hi e ∨ Inside lo hi (e + 1)) :
    0 < (containerAt lo hi mk e).strobes ↔ Present lo hi mk e ∨ Present lo hi mk (e + 1) := by
  by_cases hlow : Inside lo hi e
  · by_cases hupp : Inside lo hi (e + 1)
    · rw [containerAt_both hlow hupp, Container.strobes, present_iff hlow, present_iff hupp]
      cases (mk e).strb <;> cases (mk (e + 1)).strb <;> decide
    · rw [containerAt_lower hlow hupp, Container.strobes, present_iff hlow, iff_false_intro (not_present hupp)]
      cases (mk e).strb <;> decide
  · rw [containerAt_upper hlow, Container.strobes, present_iff (hin.resolve_left hlow),
      iff_false_intro (not_present hlow)]
    cases (mk (e + 1)).strb <;> decide

theorem strobesLast_run (hmk : ∀ o, (mk o).off = o) (hn : 0 < n) :
    strobesLast g (pairUp ((List.range' lo n).map mk)) = true ↔
      ∃ o, Present lo (lo + n) mk o ∧ o / 2 * 2 = lastContainer g := by
  rw [strobesLast, pairUp_run hmk hn, List.any_map, List.any_eq_true]
  simp only [Function.comp_apply, containerAt_off hmk (Nat.mul_mod_left _ 2), Bool.and_eq_true, beq_iff_eq,
    decide_eq_true_eq]
  constructor
  · rintro ⟨k, hmem, hlast, hpos⟩
    rcases (strobes_pos_iff (inside_of_mem hn hmem)).mp hpos with h | h
    · exact ⟨k * 2, h, by omega⟩
    · exact ⟨k * 2 + 1, h, by omega⟩
  · rintro ⟨o, hpres, hlast⟩
    have hor : Present lo (lo + n) mk (o / 2 * 2) ∨ Present lo (lo + n) mk (o / 2 * 2 + 1) := by
      rcases Nat.mod_two_eq_zero_or_one o with h | h
      · exact .inl (by rwa [show o / 2 * 2 = o by omega])
      · exact .inr (by rwa [show o / 2 * 2 + 1 = o by omega])
    have hin := hor.imp And.left And.left
    exact ⟨o / 2, mem_of_inside hin, hlast, (strobes_pos_iff hin).mpr hor⟩

end

end Sys2Proof.Proofs.Pixels

/-! ## PROOFS: the development of a burst -/

namespace Sys2Proof.Proofs.Pixels

open Sys2Proof Sys2Proof.Machine Sys2Proof.Safety Sys2Proof.Laws Sys2Proof.Proofs.Steps
open Sys2Proof.Proofs.Bursts

/-! ### A burst as a run of bytes -/

section
variable {x : SideCfg} {p : Snapshot} {b : Burst} {off n k e o : Nat} {beats : List Beat} {r : Stats}

/-- The bytes a burst carries. -/
def carriedBytes (b : Burst) : Nat :=
  b.addr.toNat / b.size.bytes * b.size.bytes + b.len * b.size.bytes - b.addr.toNat

/-- The byte of a burst at an offset. -/
def byteAtOff (b : Burst) (off : Nat) (beats : List Beat) (o : Nat) : OffByte :=
  ⟨o, (carried b beats (burstStart b + (o - off))).1, (carried b beats (burstStart b + (o - off))).2⟩

theorem byteAtOff_off (o : Nat) : (byteAtOff b off beats o).off = o := rfl

theorem beatAddr_end (hk : b.kind = .incr) : beatAddr b b.len = burstStart b + carriedBytes b ∧ 0 < carriedBytes b := by
  have hend : beatAddr b b.len = b.addr.toNat / b.size.bytes * b.size.bytes + b.len * b.size.bytes :=
    beatAddr_incr (len_pos b) hk
  have hstart : beatAddr b 0 = burstStart b := beatAddr_start (.inl rfl)
  have hlt := (beatAddr_bounds hk 0).2.trans_le (beatAddr_mono hk (len_pos b))
  rw [hstart] at hlt
  have hA : burstStart b = b.addr.toNat := rfl
  rw [carriedBytes]
  omega

/-- The same run counted from two starts. -/
theorem map_range'_congr {F G : Nat → OffByte} {s t m : Nat} (h : ∀ i, F (s + i) = G (t + i)) :
    (List.range' s m).map F = (List.range' t m).map G := by
  rw [List.range'_eq_map_range, List.range'_eq_map_range, List.map_map, List.map_map]
  exact List.map_congr_left fun i _ => h i

theorem burstBytes_run (hk : b.kind = .incr) (hlen : beats.length = b.len) :
    burstBytes b off beats 0 = (List.range' off (carriedBytes b)).map (byteAtOff b off beats) := by
  have hstart : beatAddr b 0 = burstStart b := beatAddr_start (.inl rfl)
  obtain ⟨hend, -⟩ := beatAddr_end hk
  have hbeats : ∀ i (h : i < beats.length), beats.getD (0 + i) ⟨0, 0⟩ = beats[i] := fun i h => by
    rw [Nat.zero_add]
    exact List.getD_eq_getElem _ _ h
  rw [burstBytes_eq hk hbeats, Nat.zero_add, hlen, hstart, hend, Nat.add_sub_cancel_left]
  refine map_range'_congr fun i => ?_
  rw [arriving, byteAtOff, Nat.add_sub_cancel_left, Nat.add_sub_cancel_left]

/-- The byte of a burst that leaves at an address. -/
def leavingAddr (x : SideCfg) (p : Snapshot) (b : Burst) (off : Nat) (beats : List Beat) (a : Nat) : OffByte :=
  leaving x.cap x.dev p off (off + carriedBytes b) (byteAtOff b off beats) (off + (a - burstStart b))

theorem develop_beats (hk : b.kind = .incr) (hlen : beats.length = b.len) :
    (develop x p b off beats r).beats = beats.mapIdx (replaced b (leavingAddr x p b off beats)) := by
  have hstart : beatAddr b 0 = burstStart b := beatAddr_start (.inl rfl)
  obtain ⟨hend, hpos⟩ := beatAddr_end hk
  have hrefill := refill_eq (H := leavingAddr x p b off beats) hk beats 0
  rw [Nat.zero_add, hlen, hstart, hend, Nat.add_sub_cancel_left] at hrefill
  simp only [Nat.zero_add] at hrefill
  have hruns : (List.range' off (carriedBytes b)).map
      (leaving x.cap x.dev p off (off + carriedBytes b) (byteAtOff b off beats)) =
        (List.range' (burstStart b) (carriedBytes b)).map (leavingAddr x p b off beats) :=
    map_range'_congr fun i => by rw [leavingAddr, Nat.add_sub_cancel_left]
  rw [← hrefill, ← hruns, develop, burstBytes_run hk hlen]
  exact congrArg _ (emitted_run byteAtOff_off hpos)

theorem develop_stats (hk : b.kind = .incr) (hlen : beats.length = b.len) :
    (develop x p b off beats r).stats =
      (List.range ((off + carriedBytes b + 1) / 2 - off / 2)).foldl
        (fun u k => (developContainer x.cap x.dev p
          (containerAt off (off + carriedBytes b) (byteAtOff b off beats) ((off / 2 + k) * 2)) u).2) r := by
  rw [develop, burstBytes_run hk hlen]
  exact record_run byteAtOff_off (beatAddr_end hk).2

theorem develop_half (hk : b.kind = .incr) (hlen : beats.length = b.len) :
    (develop x p b off beats r).half = some e ↔
      Partly x.cap off (off + carriedBytes b) (byteAtOff b off beats) e ∧
        ∀ e' < e, ¬Partly x.cap off (off + carriedBytes b) (byteAtOff b off beats) e' := by
  rw [develop, burstBytes_run hk hlen]
  exact firstPartial_run byteAtOff_off (beatAddr_end hk).2

theorem develop_closing (hk : b.kind = .incr) (hlen : beats.length = b.len) :
    (develop x p b off beats r).closing = true ↔
      ∃ o, Present off (off + carriedBytes b) (byteAtOff b off beats) o ∧ o / 2 * 2 = lastContainer x.cap := by
  rw [develop, burstBytes_run hk hlen]
  exact strobesLast_run byteAtOff_off (beatAddr_end hk).2

/-- A lane outside the burst's leaves as it arrived (log 29). -/
theorem develop_other_lane (hk : b.kind = .incr) (hlen : beats.length = b.len) (hn : n < b.len) (h8 : k < 8)
    (h : inLane b n k = false) :
    (((develop x p b off beats r).beats.getD n ⟨0, 0⟩).byte k,
        ((develop x p b off beats r).beats.getD n ⟨0, 0⟩).strobed k) =
      ((beats.getD n ⟨0, 0⟩).byte k, (beats.getD n ⟨0, 0⟩).strobed k) := by
  rw [develop_beats hk hlen, getD_mapIdx (hlen ▸ hn), replaced_lane h8, if_neg (by rw [h]; decide)]

/-- What leaves at an offset of the burst. -/
theorem develop_carried (hk : b.kind = .incr) (hlen : beats.length = b.len)
    (h : Inside off (off + carriedBytes b) o) :
    byteAtOff b off (develop x p b off beats r).beats o =
      leaving x.cap x.dev p off (off + carriedBytes b) (byteAtOff b off beats) o := by
  obtain ⟨hend, -⟩ := beatAddr_end hk
  have hoff : off + (burstStart b + (o - off) - burstStart b) = o := by omega
  rw [byteAtOff, develop_beats hk hlen, carried_mapIdx hk (Nat.le_add_right _ _) (by rw [hlen]; omega), leavingAddr, hoff]
  rfl

end

/-! ### Assembly -/

/-- Settles O56: the development of a pixel, of a container and of a burst. -/
theorem pixelDevelopment : Obligations.PixelDevelopment := by
  refine ⟨fun v c line col => ?_, fun v p tile x => ?_, fun g v p r lo hi z => ?_,
    fun x p b off beats r hk hlen => ?_⟩
  · obtain ⟨h00, h01, h10, h11⟩ := siteGain_eq (v := v) line col
    exact ⟨fun h1 => by rw [decompand_eq, expanded_seg0 h1],
      fun h1 h2 => by rw [decompand_eq, expanded_seg1 h1 h2]; rfl,
      fun h1 h2 h3 => by rw [decompand_eq, expanded_seg2 h1 h2 h3]; rfl,
      fun h1 h2 h3 => by rw [decompand_eq, expanded_seg3 h1 h2 h3]; rfl,
      fun h12 _ c' h => decompand_mono h12 h,
      fun hl hc => gainedValue_eq (h00 hl hc), fun hl hc => gainedValue_eq (h01 hl hc),
      fun hl hc => gainedValue_eq (h10 hl hc), fun hl hc => gainedValue_eq (h11 hl hc)⟩
  · refine ⟨rfl, fun h => if_pos h, fun h => if_neg (Nat.not_lt.mpr h), attenuate_le, fun h => ?_, toneMap_zero,
      fun e => toneMap_segment, fun hcurve hx => ⟨toneMap_le hcurve hx, fun x' => toneMap_mono hcurve hx⟩⟩
    rw [h]
    exact attenuate_unity
  · refine ⟨fun hp h1 h2 => ?_, fun hp hne => ?_, fun hin hn => ?_, fun hin => ?_, fun hp hs => ?_, fun hin hn => ?_,
      fun hin => ?_⟩
    · intro c vg tile y z
      have hz : z = _ := developContainer_develop hp h1 h2
      rw [hz]
      refine ⟨emit_develop h1 h2 c y, rfl, rfl, rfl, rfl, fun hroi => ?_, fun hroi => ?_⟩
      · obtain ⟨htotal, hhist⟩ := countDevelopment_inside (g := g) (c := rawCode lo hi) (vg := vg) (r := r)
          (inRoi_iff.mpr hroi)
        exact ⟨htotal, fun e he => binOf_eq he ▸ hhist⟩
      · exact countDevelopment_outside fun h => hroi (inRoi_iff.mp h)
    · exact developContainer_half (fate_both_half hp hne)
    · exact developContainer_carry (fate_both_carry hin hn)
    · exact developContainer_beyond (fate_beyond hin)
    · exact developContainer_half (fate_one_half hp hs)
    · exact developContainer_carry (fate_one_carry hin hn)
    · exact developContainer_beyond (fate_beyond hin)
  · refine ⟨?_, fun n hn k h8 h => ?_, fun o ho => ?_, develop_stats hk hlen, fun e => develop_half hk hlen,
      develop_closing hk hlen⟩
    · rw [develop_beats hk hlen, List.length_mapIdx, hlen]
    · exact Prod.mk.injEq .. ▸ develop_other_lane hk hlen hn h8 h
    · have hbyte := develop_carried (x := x) (p := p) (r := r) hk hlen ho
      obtain ⟨-, hval, hstrb⟩ := (OffByte.mk.injEq ..).mp hbyte
      exact ⟨hstrb, fun hw => hval.trans (if_pos hw), fun hw => hval.trans (if_neg hw)⟩

end Sys2Proof.Proofs.Pixels
